-- ==== Sys2Proof/Word.lean ====
section
/-! DEFINITION. The word types of the KPN-4816 model (R7: little-endian, bit 0 least significant). -/

namespace Sys2Proof

/-- An 8-bit byte of any memory of the device. -/
abbrev Byte := BitVec 8

/-- A 16-bit word (descriptors, status codes, tags). -/
abbrev Word16 := BitVec 16

/-- A 32-bit word: the unit in which the manual draws its layouts (R7). -/
abbrev Word32 := BitVec 32

/-- A 48-bit device address (R273) or tile address register (R219). -/
abbrev Addr48 := BitVec 48

/-- A 64-bit word (doorbells, sync counters, routing entries). -/
abbrev Word64 := BitVec 64

/-- A 128-bit word: one tile instruction (R214), or a key. -/
abbrev Word128 := BitVec 128

end Sys2Proof
end

