-- ==== Sys2Proof/Syntax.lean ====
section
/-! DEFINITION. The commands of the block: one constructor for each row of spec/opcode_table.json, with the operands that the row
takes. Commands of the device itself (a commit, a timer, an arrival) name the unit they happen at; a command whose unit is not in
a position for it is an event that does not occur. -/

namespace Sys2Proof

/-- Who made an access that can meet a bus error (R390, R613): a submission fetch, a firmware read for a launch, a Sluice channel's
read or write, a channel's read of HEADADDR. -/
inductive Requester where
  | fetch (queue : Nat)
  | launch (queue : Nat) (seq : BitVec 32)
  | channel (engine chan : Nat) (write : Bool)
  | head (engine chan : Nat)
  deriving DecidableEq, Repr

/-- What a Sluice command moves: descriptors fetched ahead (R378), read beats and write beats (R387). -/
structure Beats where
  ahead  : Nat
  reads  : Nat
  writes : Nat
  deriving DecidableEq, Repr

/-- The lanes that one end receives on, and those that its peer does (R402, R403). -/
structure LanePair where
  near : List Nat
  far  : List Nat
  deriving DecidableEq, Repr

/-- The commands. `tile` is a physical tile, `word` the 128 bits of the instruction at its program counter; `fn` a function's
mailbox; `queue` and `seq` name a packet; `arrival` an index into the packets that wait at the Cascade engine; `stores` are the
bytes that host software has written to its own memory since its last command. -/
inductive Instr where
  /-- Tile instruction that loads a stationary operand slice from the Basin into the array's shadow set (R225). -/
  | loadw (tile : Nat) (word : Word128)
  /-- Tile instruction that runs one pass, streaming rows through the stationary operand and draining terms into a group (R227). -/
  | stream (tile : Nat) (word : Word128)
  /-- Tile instruction that sets or clears the packed band layout from a pack table (R231). -/
  | packcfg (tile : Nat) (word : Word128)
  /-- Tile instruction that opens an accumulation group and clears its slots (R84). -/
  | gopen (tile : Nat) (word : Word128)
  /-- Tile instruction that closes an accumulation group after earlier drains (R85). -/
  | gclose (tile : Nat) (word : Word128)
  /-- Tile instruction that adds Basin elements exactly into quires through the wide drain (R234). -/
  | drain (tile : Nat) (word : Word128)
  /-- Tile instruction that writes quires in native or standard form, optionally as a checkpoint (R236). -/
  | qexport (tile : Nat) (word : Word128)
  /-- MOVE mode COPY that moves bytes between the tile and another device address (R238). -/
  | moveCopy (tile : Nat) (word : Word128)
  /-- MOVE mode MERGE that merges native slot images into quires of an open group (R238). -/
  | moveMerge (tile : Nat) (word : Word128)
  /-- MOVE mode that merges standard 512-bit quires into quires of an open group (R97). -/
  | moveMergeStandard (tile : Nat) (word : Word128)
  /-- MOVE mode STATUS that copies the tile's committed numeric status record into its Basin (R238). -/
  | moveStatus (tile : Nat) (word : Word128)
  /-- Tile instruction that rounds quires once to an output tensor through Channel Scale Table entries (R241). -/
  | requant (tile : Nat) (word : Word128)
  /-- Tile instruction that converts a tensor element range with one rounding (R243). -/
  | cvt (tile : Nat) (word : Word128)
  /-- Tile instruction that applies a Jet function slot to an element range (R244). -/
  | jet (tile : Nat) (word : Word128)
  /-- RSTAT operation that empties row states and binds them to their quires (R198). -/
  | sminit (tile : Nat) (word : Word128)
  /-- RSTAT operation that takes score blocks, updates row states, corrects quires and writes terms (R200). -/
  | smterm (tile : Nat) (word : Word128)
  /-- RSTAT operation that merges one range of row states and quires into another (R204). -/
  | smmerge (tile : Nat) (word : Word128)
  /-- RSTAT operation that writes soft-maximum outputs as output quire divided by sum quire (R205). -/
  | smnorm (tile : Nat) (word : Word128)
  /-- RSTAT operation that accumulates n, sum of x and sum of x squared into quires (R206). -/
  | nstat (tile : Nat) (word : Word128)
  /-- RSTAT operation that writes mean, variance and reciprocal standard deviation from quires (R208). -/
  | nvar (tile : Nat) (word : Word128)
  /-- Tile instruction that writes a transposed copy of a tensor slice (R247). -/
  | tload (tile : Nat) (word : Word128)
  /-- Near-memory operation writing a (R246). -/
  | nearCopy (tile : Nat) (word : Word128)
  /-- Near-memory operation writing a + b (R246). -/
  | nearAdd (tile : Nat) (word : Word128)
  /-- Near-memory operation writing a - b (R246). -/
  | nearSub (tile : Nat) (word : Word128)
  /-- Near-memory operation writing a × b (R246). -/
  | nearMul (tile : Nat) (word : Word128)
  /-- Near-memory operation writing the greater of a and b (R246). -/
  | nearMax (tile : Nat) (word : Word128)
  /-- Near-memory operation writing the lesser of a and b (R246). -/
  | nearMin (tile : Nat) (word : Word128)
  /-- Near-memory operation writing a × b + c with one rounding (R246). -/
  | nearFma (tile : Nat) (word : Word128)
  /-- Near-memory operation writing (a - b[row]) × c[row] (R246). -/
  | normrow (tile : Nat) (word : Word128)
  /-- Near-memory operation writing a × b[col] + c[col] (R246). -/
  | affcol (tile : Nat) (word : Word128)
  /-- Near-memory operation writing -a (R246). -/
  | nearNeg (tile : Nat) (word : Word128)
  /-- Near-memory operation writing |a| (R246). -/
  | nearAbs (tile : Nat) (word : Word128)
  /-- Control instruction that starts a counted loop with register strides (R251). -/
  | loop (tile : Nat) (word : Word128)
  /-- Control instruction that conditionally branches within its loop body (R252). -/
  | branch (tile : Nat) (word : Word128)
  /-- Control instruction that performs address-register arithmetic (R250). -/
  | seta (tile : Nat) (word : Word128)
  /-- WAIT with MODE 0 that holds issue until a sync object reaches a target (R253). -/
  | waitSync (tile : Nat) (word : Word128)
  /-- WAIT with MODE 1 that holds issue until earlier instructions of chosen slots complete (R253). -/
  | waitLocal (tile : Nat) (word : Word128)
  /-- Control instruction that adds to a sync object when its step commits (R254). -/
  | signal (tile : Nat) (word : Word128)
  /-- Control instruction that marks a step boundary (R255). -/
  | step (tile : Nat) (word : Word128)
  /-- Control instruction that marks the final step boundary and ends issue on the tile (R255). -/
  | tileEnd (tile : Nat) (word : Word128)
  /-- A step whose instructions and predecessors have completed commits its writes, deferred writes and signals (R260). -/
  | stepCommit (tile : Nat)
  /-- A tile WAIT reaching its TIMEOUT ends the launch with ST_TIMEOUT (R253). -/
  | waitTimeout (tile : Nat)
  /-- A pending pre-emption takes effect at the array's next group boundary and the tile is saved (R129). -/
  | preemptBoundary (tile : Nat)
  /-- A fault detected in a tile abandons work in flight and replays from the journal (R477). -/
  | tileFaultReplay (tile cls : Nat) (array : Bool) (groups : List Nat)
  /-- A compute-die sensor above 105 °C stops every tile clock of that die (R524). -/
  | thermalEmergency (die temp : Nat)
  /-- Tiles restart after every sensor of the die has stayed below 100 °C for 100 µs (R524). -/
  | thermalRestart (die micros : Nat)
  /-- A doorbell write that updates a queue's host index or is rejected (R305). -/
  | dblQueueWrite (fn queue : Nat) (value : BitVec 64) (stores : List Host.Cell)
  /-- The Queue Manager reads a submission entry from the ring (R303). -/
  | packetFetch (queue : Nat)
  /-- The Queue Manager dispatches a fetched packet to firmware by priority (R308). -/
  | packetDispatch (queue : Nat)
  /-- Packet that validates and launches a kernel binary on the partition's tiles (R315). -/
  | kernelLaunch (queue : Nat) (seq : BitVec 32)
  /-- A validated launch starts its logical tiles once the partition's tiles and slots are free (R269). -/
  | launchStart (queue : Nat) (seq : BitVec 32)
  /-- A launch completes when every tile's END has committed, writing status and digest records (R270). -/
  | launchComplete (queue : Nat) (seq : BitVec 32)
  /-- A launch running past LTIMEOUT is aborted and completes with ST_TIMEOUT (R315). -/
  | ltimeoutExpiry (queue : Nat) (seq : BitVec 32)
  /-- Packet that runs a descriptor list on one Sluice channel (R316). -/
  | dma (queue : Nat) (seq : BitVec 32)
  /-- Packet that adds VALUE to a local or remote sync object (R317). -/
  | syncSignal (queue : Nat) (seq : BitVec 32)
  /-- Packet that waits until a sync object reaches VALUE (R317). -/
  | syncWait (queue : Nat) (seq : BitVec 32)
  /-- A SYNC_WAIT reaching its limit completes with ST_TIMEOUT (R317). -/
  | syncWaitTimeout (queue : Nat) (seq : BitVec 32)
  /-- Packet that completes after earlier packets and their writes have landed (R317). -/
  | fence (queue : Nat) (seq : BitVec 32)
  /-- Packet that appends a mark record to the queue's digest log (R317). -/
  | digestMark (queue : Nat) (seq : BitVec 32)
  /-- Collective that merges every member's quires and writes the result at each member (R443). -/
  | allreduce (queue : Nat) (seq : BitVec 32)
  /-- Collective that merges every member's quires and writes the result at ROOT (R443). -/
  | reduce (queue : Nat) (seq : BitVec 32)
  /-- Collective that copies ROOT's bytes to every member (R443). -/
  | broadcast (queue : Nat) (seq : BitVec 32)
  /-- Collective that gathers every member's bytes at every member (R443). -/
  | allgather (queue : Nat) (seq : BitVec 32)
  /-- Collective that merges quires and gives each rank its share (R443). -/
  | reducescatter (queue : Nat) (seq : BitVec 32)
  /-- Collective that completes once every member has issued it (R443). -/
  | barrier (queue : Nat) (seq : BitVec 32)
  /-- Collective that merges soft-maximum row states and quires across members (R449). -/
  | smreduce (queue : Nat) (seq : BitVec 32)
  /-- Packet that pre-empts the running launch of a queue and writes its context (R318). -/
  | contextSave (queue : Nat) (seq : BitVec 32)
  /-- Packet that verifies a save area and resumes the saved launch (R319). -/
  | contextRestore (queue : Nat) (seq : BitVec 32)
  /-- A packet completes, advancing slots, performing SIG and writing its completion record (R314). -/
  | packetComplete (queue : Nat) (seq : BitVec 32)
  /-- COALTIME elapsing since the oldest unreported record raises the queue's vector (R322). -/
  | coaltimeExpiry (queue : Nat)
  /-- MBX_DOORBELL write with GO that submits the request page or sets OVERRUN (R340). -/
  | mbxGo (fn : Nat) (value : BitVec 32) (stores : List Host.Cell)
  /-- MBX_DOORBELL write with CANCEL that withdraws an untaken request (R341). -/
  | mbxCancel (fn : Nat) (value : BitVec 32)
  /-- Firmware copies a submitted request page and sets TAKEN (R340). -/
  | mbxTake (fn : Nat)
  /-- Write of 1 clears MBX_STATE.DONE or OVERRUN (R338). -/
  | mbxDoneClear (fn : Nat) (value : BitVec 32)
  /-- A deferred command's activity ends and firmware writes its 0xGG80 end event (R354). -/
  | deferredActivityEnd (act : Nat)
  /-- Command that returns device identity (R356). -/
  | devIdentify (fn : Nat)
  /-- Command that returns the enabled-array mask and count (R355). -/
  | devArrays (fn : Nat)
  /-- Command that returns the reproducibility key for a mode word and SETMASK (R362). -/
  | reproKey (fn : Nat)
  /-- Command that verifies and loads a Jet microprogram set into every tile (R190). -/
  | jetsetLoad (fn : Nat)
  /-- Command that returns the cause of the last reset and the bring-up outcome (R607). -/
  | bootReport (fn : Nat)
  /-- Command that moves granules to a partition, creating it if needed (R358). -/
  | partAssign (fn : Nat)
  /-- Command that returns a partition's granules to partition 0 (R358). -/
  | partDestroy (fn : Nat)
  /-- Command that returns the partition descriptor and logical binding (R355). -/
  | partQuery (fn : Nat)
  /-- Command that binds a function to a partition with doorbell pages (R359). -/
  | funcBind (fn : Nat)
  /-- FUNC_BIND with UNBIND set that releases a function's binding and pages (R359). -/
  | funcUnbind (fn : Nat)
  /-- Command that creates a queue from a context (R364). -/
  | qCreate (fn : Nat)
  /-- Command that changes a queue's modifiable context fields (R364). -/
  | qModify (fn : Nat)
  /-- Command that destroys a queue (R307). -/
  | qDestroy (fn : Nat)
  /-- Command that returns a queue context and indices (R363). -/
  | qQuery (fn : Nat)
  /-- Command that returns a HALTED queue to ACTIVE (R364). -/
  | qResume (fn : Nat)
  /-- Command that aborts every dispatched and undispatched packet of a queue (R312). -/
  | qAbort (fn : Nat)
  /-- Command that returns the save-area size of a queue's running launch (R318). -/
  | ctxSize (fn : Nat)
  /-- Command that sets a sync object counter to a value when no waiter holds it (R325). -/
  | syncReset (fn : Nat)
  /-- Command that returns a sync object counter (R363). -/
  | syncRead (fn : Nat)
  /-- Mailbox command that adds an amount to a sync object (R326). -/
  | syncSignalCmd (fn : Nat)
  /-- Command that arms a threshold on a sync object (R328). -/
  | syncArm (fn : Nat)
  /-- SYNC_ARM with DISARM set that removes an armed threshold (R364). -/
  | syncDisarm (fn : Nat)
  /-- Command that writes a sequence slot record (R331). -/
  | slotWrite (fn : Nat)
  /-- Command that returns a sequence slot record (R363). -/
  | slotRead (fn : Nat)
  /-- Command that maps pages into the partition's translation table (R366). -/
  | map (fn : Nat) (place : List Nat)
  /-- Command that removes mappings and invalidates cached translations (R366). -/
  | unmap (fn : Nat)
  /-- Command that returns the translation entry of a virtual address (R365). -/
  | mapQuery (fn : Nat)
  /-- Command that writes Channel Scale Table entries (R367). -/
  | cstWrite (fn : Nat)
  /-- Command that returns Channel Scale Table entries (R367). -/
  | cstRead (fn : Nat)
  /-- Command that returns a link's state, lanes, peer and counters (R422). -/
  | linkStatus (fn : Nat)
  /-- LINK_CONTROL action that drains and powers a link down (R421). -/
  | linkDisable (fn : Nat)
  /-- LINK_CONTROL action that moves a link from DISABLED or DOWN to DETECT (R421). -/
  | linkEnable (fn : Nat)
  /-- LINK_CONTROL action that retrains a link from DETECT keeping buffers (R421). -/
  | linkRetrain (fn : Nat)
  /-- LINK_CONTROL action that spares one physical lane (R421). -/
  | linkSpare (fn : Nat)
  /-- Command that writes routing table entries in both Cascade halves (R428). -/
  | routeWrite (fn : Nat)
  /-- Command that returns routing table entries (R368). -/
  | routeRead (fn : Nat)
  /-- Command that sets the device's fabric ID (R368). -/
  | devidSet (fn : Nat)
  /-- Command that creates a communicator from a descriptor and sends JOIN (R438). -/
  | commCreate (fn : Nat)
  /-- Command that destroys a communicator locally (R439). -/
  | commDestroy (fn : Nat)
  /-- Command that returns a communicator's state, rank and losses (R368). -/
  | commQuery (fn : Nat)
  /-- Command that opens or closes the remote window and its sync mask (R368). -/
  | windowSet (fn : Nat)
  /-- Command that returns fault records visible to the requester (R498). -/
  | faultRead (fn : Nat)
  /-- MAINT_REQUEST for the repair activity on a resource (R503). -/
  | maintRepair (fn : Nat)
  /-- MAINT_REQUEST for the lane sparing activity on a link (R503). -/
  | maintLaneSparing (fn : Nat)
  /-- MAINT_REQUEST for the equalisation sweep on a link (R408). -/
  | maintEqualisation (fn : Nat)
  /-- MAINT_REQUEST for the scrub activity on a resource (R501). -/
  | maintScrub (fn : Nat)
  /-- MAINT_REQUEST for the self-test activity on a resource (R506). -/
  | maintSelfTest (fn : Nat)
  /-- Command that returns a resource's lock holder and queue (R369). -/
  | maintStatus (fn : Nat)
  /-- Command that removes a queued maintenance activity (R369). -/
  | maintCancel (fn : Nat)
  /-- Command that sets the HBM and SRAM scrub periods (R501). -/
  | scrubPeriod (fn : Nat)
  /-- Command that returns a resource's error counts (R369). -/
  | errCounts (fn : Nat)
  /-- Command that programs and zeroes a performance counter (R560). -/
  | ctrProgram (fn : Nat)
  /-- Command that latches readable counters on one TCLK edge and writes a snapshot record (R563). -/
  | snapshot (fn : Nat)
  /-- Command that sets a tile's sampling buffer, event and period (R565). -/
  | sampleConfig (fn : Nat)
  /-- Command that sets a histogram's source and shift and clears it (R568). -/
  | histConfig (fn : Nat)
  /-- Command that returns a histogram and optionally clears it (R569). -/
  | histRead (fn : Nat)
  /-- Command that returns signed measurements for a nonce (R372). -/
  | attest (fn : Nat)
  /-- Command that returns part of the device certificate chain (R372). -/
  | certRead (fn : Nat)
  /-- Command that enrols an owner public key in a slot (R373). -/
  | ownerKeyEnrol (fn : Nat)
  /-- Command that revokes an owner key (R373). -/
  | ownerKeyRevoke (fn : Nat)
  /-- Command that writes a firmware image into the non-selected flash bank (R599). -/
  | fwStage (fn : Nat)
  /-- Command that selects the flash bank booted at the next reset (R599). -/
  | fwSelect (fn : Nat)
  /-- Command that returns the operating-point entries (R513). -/
  | oppList (fn : Nat)
  /-- Command that pins an operating point and freezes the loops (R525). -/
  | oppPin (fn : Nat)
  /-- OPP_PIN with RELEASE set that resumes the loops (R525). -/
  | oppRelease (fn : Nat)
  /-- Command that sets the package power cap (R521). -/
  | powerCap (fn : Nat)
  /-- Command that returns power, temperature and ACLK readings (R519). -/
  | powerRead (fn : Nat)
  /-- Command that returns a nonce for debug unlock (R375). -/
  | debugChallenge (fn : Nat)
  /-- Command that unlocks debug on a valid owner signature (R376). -/
  | debugUnlock (fn : Nat)
  /-- Command that injects a fault of a given kind into a resource (R375). -/
  | faultInject (fn : Nat)
  /-- Command that enables or filters the debug trace port (R375). -/
  | traceConfig (fn : Nat)
  /-- Command that locks debug and stops perturbations (R376). -/
  | debugLock (fn : Nat)
  /-- Descriptor OP COPY that moves strided rows between device addresses (R384); `land` writes in flight land. -/
  | sluiceCopy (engine chan : Nat) (beats : Beats) (land : Nat)
  /-- Descriptor OP FILL that writes a pattern into strided rows (R384); its reads are of descriptors that follow. -/
  | sluiceFill (engine chan : Nat) (beats : Beats) (land : Nat)
  /-- Descriptor OP CONFIG that replaces a channel's ring and retry settings (R384). -/
  | sluiceConfig (engine chan : Nat)
  /-- A descriptor whose last write beat has left completes, writing its record and SIG (R393). -/
  | sluiceDescComplete (engine chan : Nat)
  /-- A failed access is reissued 1 µs after a bus error, or the channel halts (R390). -/
  | sluiceRetry (engine chan : Nat) (ok : Bool)
  /-- A channel waiting on a full record ring re-reads HEADADDR every 1 µs (R396). -/
  | headaddrReread (engine chan : Nat) (stores : List Host.Cell)
  /-- Signal on at least 4 lanes for 1 ms moves a link from DETECT to TRAIN (R404). -/
  | linkDetectDone (link : Nat)
  /-- Equaliser requests unchanged for 32 periods move a link from TRAIN to ALIGN (R406). -/
  | trainConverged (link : Nat)
  /-- Marker lock and deskew on enough lanes move a link to CONFIG (R402). -/
  | alignLocked (link : Nat) (lanes : LanePair)
  /-- TRAIN, ALIGN, CONFIG or RECOVERY exceeding its limit sends the link DOWN (R404). -/
  | linkStateTimeout (link : Nat)
  /-- Each marker period sends marker blocks, advances HEARTBEAT and applies equaliser requests (R400); `corrected` FEC codewords
  received in it had a corrected symbol. -/
  | markerPeriod (link corrected : Nat)
  /-- A received marker block updates lane roles, peer ID, heartbeat and requests (R401). -/
  | markerBlock (link lane : Nat) (words : List Word32)
  /-- HEARTBEAT unchanged for 100 µs sends the link DOWN with cause PEER_SILENT (R420). -/
  | peerSilent (link : Nat)
  /-- A received DATA flit is accepted in sequence or discarded with NAK (R416). -/
  | dataFlit (link : Nat) (flit : List Byte) (fec : Bool)
  /-- A received IDLE flit delivers acknowledgement and credit information (R412). -/
  | idleFlit (link : Nat) (flit : List Byte) (fec : Bool)
  /-- A received LINKCTL CONFIG flit carrying the peer's ID and capabilities (R405). -/
  | linkctlConfig (link : Nat) (flit : List Byte) (fec : Bool)
  /-- A received LINKCTL CONFIG_ACK that can complete CONFIG (R405). -/
  | linkctlConfigAck (link : Nat) (flit : List Byte) (fec : Bool)
  /-- A received LINKCTL RECOVER, including the peer's disable (R421). -/
  | linkctlRecover (link : Nat) (flit : List Byte) (fec : Bool)
  /-- A received LINKCTL RESUME giving the peer's ACKSEQ for replay (R418). -/
  | linkctlResume (link : Nat) (flit : List Byte) (fec : Bool)
  /-- ACKSEQ not advancing for 1 µs starts a replay (R417). -/
  | ackTimeout (link : Nat)
  /-- No valid flit for 1 µs in ACTIVE puts the link in RECOVERY (R418). -/
  | flitSilence (link : Nat)
  /-- A lane losing lock or exceeding error counts is declared failing and sparing is requested (R409). -/
  | laneFailing (link lane : Nat)
  /-- At the agreed marker period the failing lane's role moves to the spare (R410). -/
  | laneSpareSwitch (link : Nat)
  /-- A packet not addressed to the device is forwarded or found undeliverable (R426). -/
  | packetForward (arrival : Nat)
  /-- An arriving WRITE packet is checked, applied to the window and acknowledged (R433). -/
  | remoteWrite (arrival : Nat)
  /-- An arriving SIGNAL packet is checked, applied and acknowledged (R433). -/
  | remoteSignal (arrival : Nat)
  /-- An arriving ACK completes the originator's remote request (R436). -/
  | ack (arrival : Nat)
  /-- An arriving NOTICE ends the operation with ST_LINK_DOWN (R436). -/
  | notice (arrival : Nat)
  /-- An unanswered remote request is resent after 100 µs or a link loss (R436). -/
  | remoteResend (dst : Nat) (seq : BitVec 32)
  /-- A remote request unanswered 1 ms after its first send ends with ST_LINK_DOWN (R436). -/
  | remoteGiveUp (dst : Nat) (seq : BitVec 32)
  /-- An arriving up-phase chunk is merged and sent on to the parent (R446). -/
  | collUp (arrival : Nat)
  /-- An arriving down-phase chunk delivers the result at a member (R447). -/
  | collDown (arrival : Nat)
  /-- An arriving barrier arrival from a child (R443). -/
  | barUp (arrival : Nat)
  /-- An arriving barrier release from the parent (R443). -/
  | barDown (arrival : Nat)
  /-- A child resends a chunk not acknowledged within 100 µs (R446). -/
  | chunkResend (comm : Nat)
  /-- A collective whose down phase has not started by CTIMEOUT completes with ST_TIMEOUT (R450). -/
  | ctimeoutExpiry (comm : Nat)
  /-- An arriving JOIN forms the communicator tree or is discarded (R439). -/
  | join (arrival : Nat)
  /-- A sender resends JOIN every 100 µs while forming (R439). -/
  | joinResend (comm : Nat)
  /-- An arriving LOST adds a rank to the lost set and remaps the communicator (R453). -/
  | lost (arrival : Nat)
  /-- Every 100 µs the power loop updates the excursion account and power throttle (R520). -/
  | powerLoopTick
  /-- A frequency step changes voltage and PLL and switches tiles at group boundaries (R515). -/
  | freqStep (opp : Nat)
  /-- Every 1 ms each compute die's thermal throttle level is updated (R523). -/
  | thermalLoopTick (temps : List (Nat × Nat))
  /-- Every 100 µs adaptive voltage requests one 5 mV step (R517). -/
  | avsTick (rail : Nat) (slack : Int)
  /-- Supply below VCRIT stretches the die's root clock (R518). -/
  | droopDetected (die : Nat)
  /-- Supply at or above VCRIT for 64 root cycles ends the stretch (R518). -/
  | stretchEnd (die : Nat)
  /-- A regulator unresponsive for 100 µs writes event 0x0804 and is retried (R585). -/
  | regulatorFault (rail : Nat) (starts : Bool)
  /-- Firmware exchanges a hot bound tile with its block's spare between launches (R527). -/
  | placementAdaptation (part ltile : Nat)
  /-- An uncorrectable SRAM or HBM error is reported and its reader fails or replays (R490). -/
  | uncorrectableError (kind index : Nat) (location : BitVec 48)
  /-- A Cretharel pair mismatch stops the pair and hands control to the standby (R493). -/
  | lockstepMismatch (standby : Bool)
  /-- A clock monitor fault lasting 1 µs fails the device (R495). -/
  | clockLoss
  /-- A sensor above its shutdown threshold asserts THERMTRIP# and fails the device (R524). -/
  | thermalShutdown (sensor temp : Nat)
  /-- A freed maintenance lock is granted to the queued activity of lowest rank (R504). -/
  | maintLockGrant (resource : Nat)
  /-- The device starts repair itself, stopping lesser activities (R505). -/
  | autoRepair (resource : Nat)
  /-- Background scrub reads and corrects a slice of a resource in free cycles (R501). -/
  | scrubSlice (resource corrected : Nat) (bad : List (BitVec 48))
  /-- Scrub period halves after many corrections or doubles back after 24 h without (R502). -/
  | scrubRate (resource : Nat) (halve : Bool)
  /-- A maintenance activity ends and event 0x0580 is written (R499). -/
  | maintActivityEnd (resource : Nat) (result : BitVec 16)
  /-- PORST# asserted or a rail-monitor trip resets the whole device (R597). -/
  | porstAssert
  /-- PORST# deasserted with rails in tolerance starts bring-up (R604). -/
  | porstDeassert (straps : BitVec 10) (rails : Bool)
  /-- PCIE_PERST#, hot reset, link down or loss of PCIE_REFCLK resets the device (R597). -/
  | deviceReset (cause : Nat)
  /-- A rail below its threshold for 2 µs acts as PORST# and is latched (R587). -/
  | railUndervoltage (rail : Nat)
  /-- The boot ROM verifies a firmware bank and boots or falls back (R601). -/
  | bootImageVerify
  /-- Firmware completes a bring-up stage and advances BOOTSTAGE (R604). -/
  | bringUpStage (hbmFail : BitVec 8) (arrays tiles : List Nat) (north south : Bool)
  /-- A function-level reset aborts the function's queues and resets its registers (R537). -/
  | flr (fn : Nat)
  /-- Changing VF Enable or NumVFs creates or removes VFs, resetting those removed (R533). -/
  | vfEnableChange (enable : Bool) (numVfs : Nat)
  /-- Clearing Bus Master Enable stops requests under the function's Routing ID (R536). -/
  | busMasterEnableChange (fn : Nat) (on : Bool)
  /-- Unmasking a vector with its PBA bit set sends one message (R546). -/
  | msixUnmask (fn vector : Nat)
  /-- A 4-byte read of GLB_TIME's low half latches its high half (R543). -/
  | glbTimeRead (fn : Nat)
  /-- Write of 1 clears GLB_BADACCESS.VALID (R543). -/
  | glbBadaccessClear (fn : Nat)
  /-- Write of 1 clears IRQ_STATUS bits (R547). -/
  | irqStatusClear (fn : Nat) (value : BitVec 32)
  /-- Write to TST_CTL that enables or disables perturbations while debug is unlocked (R550). -/
  | tstCtlWrite (fn : Nat) (value : BitVec 32)
  /-- A misaligned, reserved or unassigned BAR access is ignored and recorded (R539). -/
  | barBadAccess (fn offset size : Nat) (write : Bool)
  /-- Write to a register with no behaviour of its own stores its RW fields (R8). -/
  | registerWrite (fn offset : Nat) (bytes : List Byte)
  /-- SPDM request returning supported versions (R551). -/
  | getVersion (port : Nat)
  /-- SPDM request returning responder capabilities (R551). -/
  | getCapabilities (port : Nat)
  /-- SPDM request negotiating P-384 and SHA-384 (R551). -/
  | negotiateAlgorithms (port : Nat) (p384 sha384 : Bool)
  /-- SPDM request returning certificate chain digests (R551). -/
  | getDigests (port : Nat)
  /-- SPDM request returning the slot 0 certificate chain (R551). -/
  | getCertificate (port slot offset length : Nat)
  /-- SPDM request for a signed challenge response (R551). -/
  | challenge (port slot : Nat) (nonce : List Byte)
  /-- SPDM request returning the measurement blocks (R552). -/
  | getMeasurements (port index : Nat) (sign : Bool) (nonce : List Byte)
  /-- MCTP control message assigning the port's endpoint ID (R554). -/
  | setEndpointId (port eid : Nat)
  /-- MCTP control message returning the endpoint ID (R554). -/
  | getEndpointId (port : Nat)
  /-- MCTP control message returning version support (R554). -/
  | getMctpVersionSupport (port : Nat)
  /-- MCTP control message returning supported message types (R554). -/
  | getMessageTypeSupport (port : Nat)
  /-- PLDM type 0 command returning the terminus ID (R554). -/
  | gettid (port : Nat)
  /-- PLDM type 0 command setting the terminus ID (R554). -/
  | settid (port tid : Nat)
  /-- PLDM type 0 command returning the PLDM version (R554). -/
  | getpldmversion (port type : Nat)
  /-- PLDM type 0 command returning supported types (R554). -/
  | getpldmtypes (port : Nat)
  /-- PLDM type 0 command returning supported commands (R554). -/
  | getpldmcommands (port type : Nat)
  /-- PLDM type 2 command returning PDR repository information (R554). -/
  | getpdrrepositoryinfo (port : Nat)
  /-- PLDM type 2 command returning a PDR (R555). -/
  | getpdr (port id : Nat)
  /-- PLDM type 2 command returning a numeric sensor reading (R555). -/
  | getsensorreading (port id : Nat)
  /-- PLDM type 2 command returning the state sensor (R555). -/
  | getstatesensorreadings (port id : Nat)
  /-- PLDM type 2 command setting the power-cap effecter (R555). -/
  | setnumericeffectervalue (port id value : Nat)
  /-- PLDM type 2 command returning the power-cap effecter (R555). -/
  | getnumericeffectervalue (port id : Nat)
  /-- The sampler's count passing a multiple of PERIOD takes a sample record (R565). -/
  | preciseSample (tile instr row passes : Nat) (replayed : Bool)
  /-- A per-bank HBM refresh is issued on its fixed TCLK schedule, at an interval of 3.9 µs or 1.95 µs above 85 °C (R297). -/
  | hbmRefresh (stack bank : Nat)
  /-- Every 10 µs the package power sensors produce a sample, and two consecutive samples above 1,600 W trigger the fast limit within 20 µs (R519). -/
  | powerSample (watts : Nat)
  /-- A PCIe read completion with UR, CA or poisoned data, a 10 ms completion timeout, or a fabric transport error is reported to the requester, which stops issuing reads (R390). -/
  | busError (who : Requester)
  /-- A submission fetch or a firmware launch read that met a bus error is reissued 1 µs later, up to three times, before its status is set (R613). -/
  | readReissue (who : Requester) (ok : Bool)
  /-- A link being disabled that lacks full acknowledgement after 100 µs hands its remaining flits over under R419 and becomes DISABLED (R421). -/
  | disableTimeout (link : Nat)
  /-- The two fault-manager copies disagree or one falls silent, so one copy is restarted, or both are lost and the device fails (R494). -/
  | faultManagerLoss (north south : Bool)
  /-- Every rail has been within tolerance for 1 ms after PORST# was deasserted with a rail out of tolerance, so the device leaves BOOTSTAGE 0x0 (R587). -/
  | railToleranceReached (straps : BitVec 10)
  /-- The PCIe port completes hardware training and starts serving configuration space (R604). -/
  | pcieLinkUp
  /-- A configuration write changes a function's Memory Space Enable, so that its BAR accesses complete as Unsupported Requests or are served again (R536). -/
  | memorySpaceEnableChange (fn : Nat) (on : Bool)
  /-- An IEEE 1149.1 instruction is shifted into the die TAPs and then drives, captures or bypasses the boundary register (R593). -/
  | tapInstruction (codes : List (BitVec 8)) (balls : List Bool) (data : List (List Bool))
  deriving DecidableEq, Repr

end Sys2Proof
end

