-- ==== Sys2Proof/Machine/Num.lean ====
section
/-! DEFINITION. Exact numbers: rationals without rounding, and the exact values of R39 to R71. Nothing here rounds but the
functions whose name says so. -/

namespace Sys2Proof.Machine

/-- An exact rational `num / den`; `den` is positive in every value the model forms. Transient: no state field holds one. -/
structure Frac where
  num : Int
  den : Nat
  deriving DecidableEq, Repr

def Frac.ofInt (n : Int) : Frac := ⟨n, 1⟩

/-- `m × 2^e`, exactly. -/
def Frac.dyad (m e : Int) : Frac :=
  if 0 ≤ e then ⟨m * 2 ^ e.toNat, 1⟩ else ⟨m, 2 ^ (-e).toNat⟩

def Frac.neg (a : Frac) : Frac := ⟨-a.num, a.den⟩
def Frac.abs (a : Frac) : Frac := ⟨a.num.natAbs, a.den⟩
def Frac.add (a b : Frac) : Frac :=
  if a.den = b.den then ⟨a.num + b.num, a.den⟩ else ⟨a.num * b.den + b.num * a.den, a.den * b.den⟩
def Frac.sub (a b : Frac) : Frac := a.add b.neg
def Frac.mul (a b : Frac) : Frac := ⟨a.num * b.num, a.den * b.den⟩
def Frac.isZero (a : Frac) : Bool := a.num == 0
def Frac.isNeg (a : Frac) : Bool := decide (a.num < 0)
/-- `a / b`; a zero divisor is never passed by a caller. -/
def Frac.div (a b : Frac) : Frac :=
  if b.num < 0 then ⟨-(a.num * b.den), a.den * b.num.natAbs⟩ else ⟨a.num * b.den, a.den * b.num.natAbs⟩
def Frac.le (a b : Frac) : Bool := decide (a.num * b.den ≤ b.num * a.den)
def Frac.lt (a b : Frac) : Bool := decide (a.num * b.den < b.num * a.den)
def Frac.eq (a b : Frac) : Bool := decide (a.num * b.den = b.num * a.den)
def Frac.max (a b : Frac) : Frac := if a.lt b then b else a
def Frac.min (a b : Frac) : Frac := if b.lt a then b else a
/-- `a × 2^e`, exactly. -/
def Frac.scale2 (a : Frac) (e : Int) : Frac :=
  if 0 ≤ e then ⟨a.num * 2 ^ e.toNat, a.den⟩ else ⟨a.num, a.den * 2 ^ (-e).toNat⟩
def Frac.floor (a : Frac) : Int := a.num / (a.den : Int)
def Frac.ceil (a : Frac) : Int := -((-a.num) / (a.den : Int))

/-- `⌊log2 |a|⌋` of a non-zero `a` (R46, R57, R73). -/
def Frac.log2 (a : Frac) : Int :=
  let t : Int := (Nat.log2 a.num.natAbs : Int) - (Nat.log2 a.den : Int)
  if ((Frac.dyad 1 t).le a.abs) then t else t - 1

/-- Round to the nearest integer, ties to even (`round_half_even` of R57 and R60). -/
def Frac.roundHalfEven (a : Frac) : Int :=
  let q := a.floor
  let r := a.num - q * a.den
  let twice := 2 * r
  if twice < a.den then q
  else if (a.den : Int) < twice then q + 1
  else if q % 2 = 0 then q else q + 1

/-- Round to the nearest integer, ties away from zero. -/
def Frac.roundHalfAway (a : Frac) : Int :=
  let m := (Frac.add a.abs ⟨1, 2⟩).floor
  if a.num < 0 then -m else m

/-- An element's value: what a pattern decodes to and what an encode takes. Zero keeps a sign where its source has one (R62);
`nar` is a posit's NaR, `nan` every other invalid value (R54, R59, R71). -/
inductive Val where
  | zero (neg : Bool)
  | fin (q : Frac)
  | inf (neg : Bool)
  | nan
  | nar
  deriving DecidableEq, Repr

/-- The value of an exact rational; zero is +0 (R62). -/
def Val.ofFrac (q : Frac) : Val := if q.isZero then .zero false else .fin q

def Val.isNeg : Val → Bool
  | .zero n => n
  | .fin q => q.isNeg
  | .inf n => n
  | _ => false

/-- The rational held by a finite value; none of a non-finite one. -/
def Val.frac? : Val → Option Frac
  | .zero _ => some ⟨0, 1⟩
  | .fin q => some q
  | _ => none

def Val.neg : Val → Val
  | .zero n => .zero (!n)
  | .fin q => .fin q.neg
  | .inf n => .inf (!n)
  | v => v

def Val.abs : Val → Val
  | .zero _ => .zero false
  | .fin q => .fin q.abs
  | .inf _ => .inf false
  | v => v

def Val.isZero : Val → Bool
  | .zero _ => true
  | _ => false

/-- A finite value scaled by `2^e` (R51); special values and zeros keep their meaning (R52). -/
def Val.scale2 (v : Val) (e : Int) : Val :=
  match v with
  | .fin q => .fin (q.scale2 e)
  | v => v

/-- The product of R71. -/
def Val.product : Val → Val → Val
  | .nan, _ => .nan
  | _, .nan => .nan
  | .nar, _ => .nar
  | _, .nar => .nar
  | .inf _, .zero _ => .nan
  | .zero _, .inf _ => .nan
  | .inf s, b => .inf (s != b.isNeg)
  | a, .inf s => .inf (s != a.isNeg)
  | .zero s, b => .zero (s != b.isNeg)
  | a, .zero s => .zero (s != a.isNeg)
  | .fin a, .fin b => .fin (a.mul b)

/-- IEEE 754 addition without rounding: the exact sum, the sign of an exact zero as IEEE 754 gives it under
round-to-nearest (R62), NaN before NaR (R71). -/
def Val.plus : Val → Val → Val
  | .nan, _ => .nan
  | _, .nan => .nan
  | .nar, _ => .nar
  | _, .nar => .nar
  | .inf s, .inf t => if s = t then .inf s else .nan
  | .inf s, _ => .inf s
  | _, .inf s => .inf s
  | .zero s, .zero t => .zero (s && t)
  | .zero _, b => b
  | a, .zero _ => a
  | .fin a, .fin b => Val.ofFrac (a.add b)

/-- The four sticky flags of R63, in the bit order of R100. -/
structure NFlags where
  ov  : Bool := false
  un  : Bool := false
  inx : Bool := false
  inv : Bool := false
  deriving DecidableEq, Repr

def NFlags.none : NFlags := {}
def NFlags.or (a b : NFlags) : NFlags :=
  { ov := a.ov || b.ov, un := a.un || b.un, inx := a.inx || b.inx, inv := a.inv || b.inv }
/-- The 4-bit field of R100: overflow bit 0, underflow 1, inexact 2, invalid 3. -/
def NFlags.bits (f : NFlags) : Nat :=
  f.ov.toNat + 2 * f.un.toNat + 4 * f.inx.toNat + 8 * f.inv.toNat
def NFlags.ofBits (n : Nat) : NFlags :=
  { ov := n.testBit 0, un := n.testBit 1, inx := n.testBit 2, inv := n.testBit 3 }

end Sys2Proof.Machine
end

