-- ==== Sys2Proof/Machine/Formats.lean ====
section
/-! DEFINITION. The number formats of R39 to R70: descriptors, decode rules, encode rules with their sticky flags. -/

namespace Sys2Proof.Machine

/-- The formats of R39. -/
inductive Fmt where
  | posit4 | posit3 | posit8 | posit16 | posit32
  | e4m3 | e5m2 | e2m1 | bf16 | f16 | f32
  | int8 | int4 | int2 | tern | int32
  deriving DecidableEq, Repr

/-- The FMT code of R39; the unlisted codes are reserved. -/
def Fmt.ofCode : Nat → Option Fmt
  | 0x00 => some .posit4 | 0x01 => some .posit3 | 0x02 => some .posit8 | 0x03 => some .posit16 | 0x04 => some .posit32
  | 0x08 => some .e4m3 | 0x09 => some .e5m2 | 0x0A => some .e2m1 | 0x0B => some .bf16 | 0x0C => some .f16 | 0x0D => some .f32
  | 0x10 => some .int8 | 0x11 => some .int4 | 0x12 => some .int2 | 0x13 => some .tern | 0x14 => some .int32
  | _ => none

/-- The class of R39 as the number of bits that names it; 0 for binary32 and INT32, which have none. -/
def Fmt.cls : Fmt → Nat
  | .int2 | .tern => 2
  | .posit4 | .posit3 | .e2m1 | .int4 => 4
  | .posit8 | .e4m3 | .e5m2 | .int8 => 8
  | .posit16 | .bf16 | .f16 => 16
  | .posit32 => 32
  | .f32 | .int32 => 0

/-- Storage width in bits (R39). -/
def Fmt.width : Fmt → Nat
  | .int2 | .tern => 2
  | .posit4 | .posit3 | .e2m1 | .int4 => 4
  | .posit8 | .e4m3 | .e5m2 | .int8 => 8
  | .posit16 | .bf16 | .f16 => 16
  | .posit32 | .f32 | .int32 => 32

def Fmt.isPosit : Fmt → Bool
  | .posit4 | .posit3 | .posit8 | .posit16 | .posit32 => true
  | _ => false
/-- The INT formats; ternary is none of them (R42). -/
def Fmt.isInt : Fmt → Bool
  | .int8 | .int4 | .int2 | .int32 => true
  | _ => false
def Fmt.isFloat : Fmt → Bool
  | .e4m3 | .e5m2 | .e2m1 | .bf16 | .f16 | .f32 => true
  | _ => false
/-- The bits of a posit pattern: posit3 uses three of its four stored bits (R40). -/
def Fmt.positBits : Fmt → Nat
  | .posit3 => 3
  | f => f.width

/-- The bits of a stored field that an element uses: posit3's bit [3] is ignored on read and written as zero (R40). -/
def Fmt.patBits : Fmt → Nat
  | .posit3 => 3
  | f => f.width

/-- A format descriptor's fields (R41). -/
structure Desc where
  fmt    : Fmt
  es     : Nat
  signed : Bool
  bsize  : Nat   -- elements per block scale: 0 (none), 32, 64 or 128
  bdir   : Bool
  esc    : Bool
  sat    : Bool
  deriving DecidableEq, Repr

/-- The combinations R42 does not reserve, in a descriptor whose codes name a format and a size. -/
def Desc.legal (d : Desc) : Bool :=
  (d.es != 3) && (d.fmt.isPosit || d.es == 0)
  && (!(d.fmt == .posit16 || d.fmt == .posit32) || d.es == 2)
  && (!d.signed || d.fmt.isInt) && (d.signed || d.fmt != .int32)
  && (d.bsize == 0 || d.fmt.width ≤ 8)
  && (!d.bdir || d.bsize != 0)
  && (!d.esc || (d.fmt == .posit3 || d.fmt == .posit4 || d.fmt == .posit8 || d.fmt == .tern))
  && (!d.sat || (d.fmt == .e4m3 || d.fmt == .e5m2))

/-- Read a 16-bit format descriptor (R41); none where R42 reserves it. The uses R42 forbids by place (INT32 as an input,
binary32 or INT32 on the array) are the readers' checks. -/
def Desc.ofNat (w : Nat) : Option Desc :=
  match Fmt.ofCode (w % 32) with
  | none => none
  | some f =>
    let d : Desc :=
      { fmt := f, es := w / 32 % 4, signed := w.testBit 7,
        bsize := [0, 32, 64, 128].getD (w / 256 % 4) 0,
        bdir := w.testBit 10, esc := w.testBit 11, sat := w.testBit 12 }
    if w / 8192 % 8 == 0 && d.legal then some d else none

/-- An unscaled descriptor of a format, for the device's own records. -/
def Desc.plain (f : Fmt) (es : Nat) : Desc :=
  { fmt := f, es := es, signed := f == .int32, bsize := 0, bdir := false, esc := false, sat := false }

/-- The numeric mode word of R43. -/
structure NMode where
  compat : Bool
  zpos   : Bool
  ftz32  : Bool
  deriving DecidableEq, Repr

def NMode.ofNat (w : Nat) : NMode := { compat := w.testBit 0, zpos := w.testBit 1, ftz32 := w.testBit 2 }
/-- With COMPAT set the device behaves as if ZPOS were set (R43). -/
def NMode.posZero (m : NMode) : Bool := m.zpos || m.compat

/-- The parameters of a floating-point format (R53): exponent bits, mantissa bits, bias. -/
def Fmt.fp : Fmt → Nat × Nat × Int
  | .e4m3 => (4, 3, 7)
  | .e5m2 => (5, 2, 15)
  | .e2m1 => (2, 1, 1)
  | .bf16 => (8, 7, 127)
  | .f16 => (5, 10, 15)
  | _ => (8, 23, 127)

/-! ### Decoding -/

/-- Length of the run of bits equal to bit `i` of `p`, from bit `i` down (R45). -/
def regimeRun (p : Nat) (r : Bool) : Nat → Nat
  | 0 => if p.testBit 0 == r then 1 else 0
  | i + 1 => if p.testBit (i + 1) == r then 1 + regimeRun p r i else 0

/-- `posit_decode` of R45 for an `n`-bit pattern. -/
def positDecode (p n es : Nat) : Val :=
  let p := p % 2 ^ n
  if p = 0 then .zero false
  else if p = 2 ^ (n - 1) then .nar
  else
    let s := p.testBit (n - 1)
    let p := if s then 2 ^ n - p else p
    let r := p.testBit (n - 2)
    let m := regimeRun p r (n - 2)
    let k : Int := if r then (m : Int) - 1 else -(m : Int)
    -- the bits below the regime's terminating bit
    let left := (n - 1) - m - 1
    let rest := p % 2 ^ left
    let e := if es ≤ left then rest / 2 ^ (left - es) else rest * 2 ^ (es - left)
    let w := left - es
    let f := rest % 2 ^ w
    let v := Frac.scale2 ⟨(2 ^ w + f : Nat), 2 ^ w⟩ (k * 2 ^ es + e)
    .fin (if s then v.neg else v)

/-- The value of a floating-point pattern (R53 to R55). -/
def fpDecode (f : Fmt) (ftz : Bool) (p : Nat) : Val :=
  let (eb, mb, bias) := f.fp
  let s := p.testBit (eb + mb)
  let e := p / 2 ^ mb % 2 ^ eb
  let m := p % 2 ^ mb
  let mk (v : Frac) : Val := .fin (if s then v.neg else v)
  if e = 0 then
    if m = 0 then .zero s
    else if f == .f32 && !ftz then mk (Frac.dyad m (1 - bias - mb))
    else .zero s
  else if e = 2 ^ eb - 1 then
    match f with
    | .e4m3 => if m = 7 then .nan else mk (Frac.dyad (2 ^ mb + m : Nat) ((e : Int) - bias - mb))
    | .e2m1 => mk (Frac.dyad (2 ^ mb + m : Nat) ((e : Int) - bias - mb))
    | _ => if m = 0 then .inf s else .nan
  else mk (Frac.dyad (2 ^ mb + m : Nat) ((e : Int) - bias - mb))

/-- A pattern's two's complement reading. -/
def signedOf (w p : Nat) : Int := if p.testBit (w - 1) then (p : Int) - 2 ^ w else p

/-- The value of a stored pattern under a descriptor (R45, R53, R59); an escape code is the caller's to catch (R50). -/
def decodeElem (d : Desc) (ftz : Bool) (p : Nat) : Val :=
  let p := p % 2 ^ d.fmt.width
  if d.fmt.isPosit then positDecode p d.fmt.positBits d.es
  else if d.fmt.isFloat then fpDecode d.fmt ftz p
  else if d.fmt == .tern then
    match p with
    | 0 => .zero false
    | 1 => .fin ⟨1, 1⟩
    | 2 => .nan
    | _ => .fin ⟨-1, 1⟩
  else Val.ofFrac (Frac.ofInt (if d.signed then signedOf d.fmt.width p else p))

/-- The escape code of a format in escape mode: the NaR pattern, for ternary 0b10 (R41, R50). -/
def escapePat (f : Fmt) : Nat := if f == .tern then 2 else 2 ^ (f.positBits - 1)

def isEscape (d : Desc) (p : Nat) : Bool :=
  d.esc && (p % 2 ^ (if d.fmt == .posit3 then 3 else d.fmt.width) == escapePat d.fmt)

/-! ### Encoding -/

/-- What one encode gives: the pattern, its flags (R63), whether a NaN, infinity or NaR was written (R66), and whether a NaN or
NaR was (R65). -/
structure Enc where
  pat     : Nat
  fl      : NFlags := {}
  special : Bool := false
  nan     : Bool := false
  deriving DecidableEq, Repr

/-- The exponent of maxpos: `useed^(n-2) = 2^((n-2) × 2^es)` (R45). -/
def maxposExp (n es : Nat) : Int := ((n - 2) * 2 ^ es : Nat)

/-- The pattern of a positive exact `a` strictly between minpos and maxpos, and whether it is inexact (R46). -/
def positPattern (a : Frac) (n es : Nat) : Nat × Bool :=
  let t := a.log2
  let k := t / (2 ^ es : Int)
  let e := (t - k * 2 ^ es).toNat
  -- the regime's bits, as a value and a length
  let (rv, rl) : Nat × Nat := if 0 ≤ k then (2 ^ (k.toNat + 2) - 2, k.toNat + 2) else (1, (-k).toNat + 1)
  let fw := n                                  -- fraction bits kept before the sticky bit
  let sc := (a.scale2 ((fw : Int) - t))        -- in [2^fw, 2^(fw+1))
  let fl := sc.floor.toNat
  let st0 := sc.num != (fl : Int) * sc.den
  let b := rv * 2 ^ (es + fw) + e * 2 ^ fw + (fl - 2 ^ fw)
  let drop := rl + es + fw - (n - 1)
  let p := b / 2 ^ drop
  let g := b.testBit (drop - 1)
  let st := st0 || (b % 2 ^ (drop - 1) != 0)
  (if g && (st || p % 2 == 1) then p + 1 else p, g || st)

/-- `posit_encode` of a finite non-zero value with the flags of R63. -/
def positEncodeFin (x : Frac) (n es : Nat) : Enc :=
  let a := x.abs
  let mx := Frac.dyad 1 (maxposExp n es)
  let mn := Frac.dyad 1 (-maxposExp n es)
  let (p, fl) : Nat × NFlags :=
    if mx.le a then (2 ^ (n - 1) - 1, if mx.lt a then { ov := true, inx := true } else {})
    else if a.le mn then (1, if a.lt mn then { un := true, inx := true } else {})
    else
      let (p, i) := positPattern a n es
      (p, { inx := i })
  { pat := if x.isNeg then 2 ^ n - p else p, fl := fl }

/-- The sign bit's weight of a floating-point format. -/
def Fmt.signBit (f : Fmt) : Nat := 2 ^ (f.width - 1)

/-- A floating-point zero of a sign, under ZPOS (R62). -/
def fpZero (f : Fmt) (m : NMode) (neg : Bool) : Nat := if neg && !m.posZero then f.signBit else 0

/-- The largest finite magnitude's pattern (R53). -/
def fpMaxPat : Fmt → Nat
  | .e4m3 => 0x7E
  | .e5m2 => 0x7B
  | .e2m1 => 0x7
  | .bf16 => 0x7F7F
  | .f16 => 0x7BFF
  | _ => 0x7F7F_FFFF

/-- The infinity pattern; FP8 E4M3 and FP4 E2M1 have none (R53). -/
def fpInfPat : Fmt → Nat
  | .e5m2 => 0x7C
  | .bf16 => 0x7F80
  | .f16 => 0x7C00
  | _ => 0x7F80_0000

/-- The canonical NaN pattern of R54; FP4 E2M1 has none and writes zero (R64). -/
def fpNanPat : Fmt → Nat
  | .e4m3 => 0x7F
  | .e5m2 => 0x7E
  | .e2m1 => 0
  | .bf16 => 0x7FC0
  | .f16 => 0x7E00
  | _ => 0x7FC0_0000

/-- What a finite overflow of a sign writes (R56), its flags those of R63. -/
def fpOverflow (f : Fmt) (sat neg : Bool) : Enc :=
  let sg := if neg then f.signBit else 0
  let fl : NFlags := { ov := true, inx := true }
  match f with
  | .e4m3 => if sat then { pat := 0x7E + sg, fl } else { pat := 0x7F, fl, special := true, nan := true }
  | .e5m2 => if sat then { pat := 0x7B + sg, fl } else { pat := 0x7C + sg, fl, special := true }
  | .e2m1 => { pat := 7 + sg, fl }
  | f => { pat := fpInfPat f + sg, fl, special := true }

/-- `fp_encode` of R57 with R55 and R56: a finite non-zero value. (DEDUCED, log entry 23) -/
def fpEncodeFin (f : Fmt) (sat : Bool) (m : NMode) (x : Frac) : Enc :=
  let (_, mb, bias) := f.fp
  let neg := x.isNeg
  let a := x.abs
  let t := max a.log2 (1 - bias)
  let q := a.scale2 ((mb : Int) - t)
  let r := q.roundHalfEven.toNat
  let inx := q.num != (r : Int) * q.den
  let (r, t) : Nat × Int := if r = 2 ^ (mb + 1) then (2 ^ mb, t + 1) else (r, t)
  let sg := if neg then f.signBit else 0
  if r < 2 ^ mb then
    if f == .f32 && !m.ftz32 then
      -- binary32 subnormals are written as IEEE 754 specifies (R55)
      if r = 0 then { pat := fpZero f m neg, fl := { un := true, inx := true } }
      else { pat := r + sg, fl := { inx } }
    else { pat := fpZero f m neg, fl := { un := true, inx := true } }
  else
    let p := (t + bias).toNat * 2 ^ mb + (r - 2 ^ mb)
    if fpMaxPat f < p then fpOverflow f sat neg
    else { pat := p + sg, fl := { inx } }

/-- The range of an INT format or ternary (R59, R60). -/
def intRange (d : Desc) : Int × Int :=
  if d.fmt == .tern then (-1, 1)
  else if d.signed then (-(2 ^ (d.fmt.width - 1) : Int), 2 ^ (d.fmt.width - 1) - 1)
  else (0, 2 ^ d.fmt.width - 1)

/-- `int_encode` of R60: a finite value. -/
def intEncodeFin (d : Desc) (x : Frac) : Enc :=
  let (lo, hi) := intRange d
  let r := x.roundHalfEven
  let w := d.fmt.width
  let pat (n : Int) : Nat := (n % (2 ^ w : Int)).toNat
  if hi < r then { pat := pat hi, fl := { ov := true, inx := true } }
  else if r < lo then { pat := pat lo, fl := { ov := true, inx := true } }
  else { pat := pat r, fl := { inx := x.num != r * x.den } }

/-- What a NaN or NaR writes in an INT format (R64). -/
def intNanPat (d : Desc) : Nat :=
  if d.fmt == .tern then 2 else if d.signed then 2 ^ (d.fmt.width - 1) else 0

/-- The encode rules of R46, R55 to R57, R60 and the special values of R64: one value, once. -/
def encodeVal (d : Desc) (m : NMode) (v : Val) : Enc :=
  if d.fmt.isPosit then
    let n := d.fmt.positBits
    let nar := 2 ^ (n - 1)
    match v with
    | .zero _ => { pat := 0 }
    | .fin x => positEncodeFin x n d.es
    | .inf s => { pat := if s then 2 ^ (n - 1) + 1 else 2 ^ (n - 1) - 1, fl := { ov := true } }
    | .nan => { pat := nar, fl := { inv := true }, special := true, nan := true }
    | .nar => { pat := nar, special := true, nan := true }
  else if d.fmt.isFloat then
    match v with
    | .zero s => { pat := fpZero d.fmt m s }
    | .fin x => fpEncodeFin d.fmt d.sat m x
    | .inf s =>
      match d.fmt with
      | .bf16 | .f16 | .f32 => { pat := fpInfPat d.fmt + (if s then d.fmt.signBit else 0), special := true }
      | .e5m2 =>
        if d.sat then { pat := 0x7B + (if s then 0x80 else 0), fl := { ov := true } }
        else { pat := 0x7C + (if s then 0x80 else 0), special := true }
      | .e4m3 =>
        if d.sat then { pat := 0x7E + (if s then 0x80 else 0), fl := { ov := true } }
        else { pat := 0x7F, fl := { ov := true }, special := true, nan := true }
      | _ => { pat := 7 + (if s then 8 else 0), fl := { ov := true } }
    | _ => { pat := fpNanPat d.fmt, fl := { inv := true }, special := true, nan := true }
  else
    let (lo, hi) := intRange d
    let w := d.fmt.width
    match v with
    | .zero _ => { pat := 0 }
    | .fin x => intEncodeFin d x
    | .inf s => { pat := ((if s then lo else hi) % (2 ^ w : Int)).toNat, fl := { inv := true } }
    | _ => { pat := intNanPat d, fl := { inv := true }, special := true, nan := true }

/-- What a quire overflow of a sign writes (R94). -/
def encodeQuireOverflow (d : Desc) (neg : Bool) : Enc :=
  if d.fmt.isPosit then
    { pat := 2 ^ (d.fmt.positBits - 1), fl := { ov := true }, special := true, nan := true }
  else if d.fmt.isFloat then fpOverflow d.fmt d.sat neg
  else
    let (lo, hi) := intRange d
    { pat := ((if neg then lo else hi) % (2 ^ d.fmt.width : Int)).toNat, fl := { ov := true, inx := true } }

/-- The default headroom of an output format (R158). -/
def defaultHeadroom (d : Desc) : Int :=
  match d.fmt with
  | .e4m3 => 8
  | .e5m2 => 15
  | .e2m1 => 2
  | .int8 => if d.signed then 6 else 7
  | .int4 => if d.signed then 2 else 3
  | .int2 => if d.signed then 0 else 1
  | .posit3 | .posit4 | .posit8 => maxposExp d.fmt.positBits d.es / 2
  | _ => 0

/-- The block scale code's exponent (R51); none for the MX NaN code 0xFF. -/
def scaleExp (s : Nat) : Option Int := if s % 256 = 255 then none else some ((s % 256 : Nat) - 127)

/-- An element under its block's scale: 0xFF makes it invalid (R51), another scale a power-of-two factor (R52). -/
def scaledVal (v : Val) (s : Nat) : Val :=
  match scaleExp s with
  | none => .nan
  | some e => v.scale2 e

/-- posit16 (es = 2), the format of Channel Scale Table entries, wide channels and side lists. -/
def posit16Val (p : Nat) : Val := positDecode p 16 2

end Sys2Proof.Machine
end

