-- ==== Sys2Proof/Machine/TileState.lean ====
section
/-! DEFINITION. Plain data of one tile: Basin, Cistern, auxiliary SRAM, array, sequencer, journal (R23 items 1 to 8), and the
sparse maps that hold every numbered store of the device. -/

namespace Sys2Proof.Machine

/-- A store with numbered places in canonical form: keys strictly rising, and no entry equal to the store's default. -/
abbrev SMap (α : Type) := List (Nat × α)

/-- Bytes by address; an address not listed reads as 0 (R605 for the device's own memories). -/
abbrev Mem := List Host.Cell

/-- A wide quire: the slot image of R78 without its reserved words, which read zero and ignore writes. -/
structure Quire where
  q      : BitVec 640 := 0
  x      : BitVec 64 := 0
  firstk : BitVec 48 := 0xFFFF_FFFF_FFFF
  snan   : Bool := false
  snar   : Bool := false
  spinf  : Bool := false
  sninf  : Bool := false
  ovx    : Bool := false
  deriving DecidableEq, Repr

/-- GSTATE of a group-table entry (R83). -/
inductive GState where
  | freeG | openG | closedG
  deriving DecidableEq, Repr

/-- A range of the tile's own memory: Basin (space 1) or auxiliary SRAM (space 3), from `lo` up to, not including, `hi`. -/
structure Range where
  space : Nat
  lo    : Nat
  hi    : Nat
  deriving DecidableEq, Repr

/-- A group-table entry (R83) with what the journal keeps of the group: whether it is anchored (R264), the step at which its
origin boundary lies (R261), and the Basin range of its latest checkpoint (R480). -/
structure Group where
  base     : Nat := 0
  rows     : Nat := 1
  cols     : Nat := 1
  st       : GState := .freeG
  anchored : Bool := true
  origin   : Nat := 0
  ckpt     : Option Range := none
  deriving DecidableEq, Repr

/-- A row-state entry (R197). `bound` says that an SMINIT of the launch, or a restore, has written it; an entry that is not
bound is empty (R480). -/
structure RowState where
  bound  : Bool := false
  msnap  : BitVec 32 := 0
  minblk : BitVec 32 := 0x7FFF_FFFF
  lslot  : BitVec 13 := 0
  ogrp   : BitVec 5 := 0
  orow   : BitVec 13 := 0
  mv     : Bool := false
  rnan   : Bool := false
  rnar   : Bool := false
  far    : Bool := false
  gen    : BitVec 16 := 0
  deriving DecidableEq, Repr

/-- Where an operand element's value comes from (R143): its narrow pattern, a side-list entry (none: no entry, which is NaN,
R150), or a wide channel's posit16. -/
inductive OSrc where
  | narrow
  | side (w32 : Bool) (entry : Option Nat)
  | wide (pat : Nat)
  deriving DecidableEq, Repr

/-- One operand element as the load path or a feeder forms it (R107, R141): pattern, zero point, scale code (127 without one). -/
structure OElem where
  pat   : Nat
  zp    : Int
  scale : Nat
  src   : OSrc
  deriving DecidableEq, Repr

/-- A loaded stationary operand (R225): its descriptor, limb, extents, first stored coordinates along reduction and output, and
its elements by reduction position then output. -/
structure StatOp where
  fmtd    : BitVec 16
  limb    : Nat
  kext    : Nat
  next    : Nat
  k0      : Nat
  n0      : Nat
  hasWide : Bool
  zeroed  : Bool                 -- a zero point is subtracted (R106)
  elems   : List (List OElem)
  deriving DecidableEq, Repr

/-- A band's entry of the pack table (R230). -/
structure BandCfg where
  wtrec  : Nat
  wkaxis : Bool
  wrow0  : Nat
  wcol0  : Nat
  xtrec  : Nat
  xrow0  : Nat
  xcol0  : Nat
  rows   : Nat
  grp    : Nat
  orow   : Nat
  ocol   : Nat
  kbase  : Nat
  kext   : Nat
  next   : Nat
  deriving DecidableEq, Repr

/-- What one register set of the array holds: the packed layout it was loaded under (empty when unpacked) and an operand per
band (band 0 alone when unpacked). -/
structure ArrayOp where
  layout : SMap BandCfg
  ops    : SMap StatOp
  deriving DecidableEq, Repr

/-- A running LOOP (R251): its counter, index of its first and last body instruction, iterations left with the current one. -/
structure LoopRec where
  ctr   : Nat
  first : Nat
  last  : Nat
  left  : Nat
  inc1  : Nat
  str1  : Nat
  inc2  : Nat
  str2  : Nat
  deriving DecidableEq, Repr

/-- A WAIT that holds issue (R253). `met`: its target has been reached while the tile's clocks were stopped (R133, R325). -/
structure WaitRec where
  obj     : Nat
  target  : Nat
  timeout : Nat
  met     : Bool := false
  deriving DecidableEq, Repr

/-- A footprint entry of the journal (R263): a range read as an input, or written, and the step that did so. -/
structure Foot where
  rng   : Range
  write : Bool
  step  : Nat
  deriving DecidableEq, Repr

/-- The sequencer's state as the journal holds it at a boundary (R261): PC, A0 to A15, loop counters, packing state. With it the model
keeps what the tile's work stood at there: the array's operands, quires, groups and row states, and how many instructions had
issued. -/
structure Mark where
  pc      : Nat
  aregs   : SMap Addr48
  ctrs    : SMap Nat
  loops   : List LoopRec
  pack    : SMap BandCfg
  active  : Option ArrayOp
  shadow  : Option ArrayOp
  cistern : SMap Quire
  groups  : SMap Group
  rows    : SMap RowState
  issued  : Nat
  deriving DecidableEq, Repr

/-- What a region of statistics, per-channel maxima, SIDEUSED or an escape directory held at the start of a step that writes it
(R262): the step, the Basin offset, the bytes. -/
structure Image where
  step  : Nat
  off   : Nat
  bytes : List Byte
  deriving DecidableEq, Repr

/-- Memory outside the tile that a MOVE has read (R266): the step, the device address, the bytes read. -/
structure OutRead where
  step : Nat
  addr : Nat
  data : List Byte
  deriving DecidableEq, Repr

/-- A position record (R99): output tag, row, column, and the FIRSTK that goes with it. -/
structure PosRec where
  tag : Nat
  row : Nat
  col : Nat
  k   : BitVec 48
  deriving DecidableEq, Repr

/-- The sticky flags of the five engines (R98), each in the bit order of R100. -/
structure EngFlags where
  req : BitVec 4 := 0
  cvt : BitVec 4 := 0
  jet : BitVec 4 := 0
  rsu : BitVec 4 := 0
  cis : BitVec 4 := 0
  deriving DecidableEq, Repr

/-- A deferred MOVE (R239): its own index, source in the tile, destination outside it. -/
structure Deferred where
  idx : Nat
  src : BitVec 48
  dst : BitVec 48
  len : Nat
  deriving DecidableEq, Repr

/-- An uncommitted step (R260): its number, whether its boundary has been reached and whether by END, its flags and records,
the streams of its tagged instructions, its deferred writes and signals, its checkpoints, and the bytes its writes replaced
(R287), newest first. `sent`: parts 1 and 2 of its commit are done but for the answers to remote writes. -/
structure StepRec where
  num      : Nat := 0
  closed   : Bool := false
  final    : Bool := false
  flags    : EngFlags := {}
  sv       : Option PosRec := none
  qo       : Option PosRec := none
  folds    : List (Nat × List Byte) := []
  deferred : List Deferred := []
  signals  : List (Nat × BitVec 64) := []
  ckpts    : List (Nat × Nat × Nat) := []
  undo     : List (Nat × Nat × Byte) := []
  sent     : Bool := false
  deriving DecidableEq, Repr

/-- An instruction that a pre-emption stopped at a boundary inside it (R129, R167, R194, R211): how far it had come, and what its
resumption starts from: the bytes it had replaced, newest first, the quires it had changed, row states, array operands and steps as
they stood before it. -/
structure CutRun where
  pos    : Nat
  undo   : List (Nat × Nat × Byte)
  slots  : List (Nat × Quire)
  rows   : SMap RowState
  active : Option ArrayOp
  shadow : Option ArrayOp
  steps  : List StepRec
  deriving DecidableEq, Repr

/-- A fault found on a tile whose clocks are stopped, held until they run again (R135, R195): one that a checker found, by its class and
the groups it touches, or an uncorrectable line of the tile's memory. -/
inductive HeldFault where
  | checker (cls : Nat) (array : Bool) (groups : List Nat)
  | memory (loc : Nat) (read : Bool)
  deriving DecidableEq, Repr

/-- The committed numeric status record of R100. -/
structure NumRec where
  flags : EngFlags := {}
  sv    : Option PosRec := none
  qo    : Option PosRec := none
  deriving DecidableEq, Repr

/-- A running digest of one tag (R472). -/
structure DigestRun where
  tag    : Nat
  crc    : BitVec 64
  bytes  : Nat
  instrs : Nat
  deriving DecidableEq, Repr

/-- The precise-sampling settings and buffer state of a tile (R565 to R567). -/
structure Sampler where
  samplen : Nat := 0
  event   : BitVec 16 := 0
  period  : Nat := 0
  next    : Option (BitVec 16 × Nat) := none      -- EVENT and PERIOD from the next launch start
  lost    : Nat := 0
  staged  : List (List (BitVec 32)) := []         -- the staging: up to 4 records not yet written to the buffer (R567)
  buffer  : List (List (BitVec 32)) := []
  deriving DecidableEq, Repr

/-- A Jet function slot (R183, R189): its arity, its native program (none: the standard set's own, whose image the manual does
not print), and its compatibility program (likewise) where it has one. -/
structure JetSlot where
  arity  : Nat
  prog   : Option (List Word32)
  compat : Option (Option (List Word32))
  deriving DecidableEq, Repr

/-- One tile (R24). Default values are those of bring-up (R605) and of a tile that runs nothing. -/
structure Tile where
  basin     : Mem := []
  aux       : Mem := []
  cistern   : SMap Quire := []
  badBasin  : List Nat := []         -- 64-byte lines of the Basin with an uncorrectable error
  badAux    : List Nat := []         -- 16-byte lines of the auxiliary SRAM with an uncorrectable error
  badSlots  : List Nat := []         -- Cistern slots with an uncorrectable error (R102)
  repair    : BitVec 7 × BitVec 7 := (0x7F, 0x7F)   -- repair fields of the two bands (R125)
  arrayOn   : Bool := true           -- its bit of the enabled-array mask (R29)
  stopped   : Bool := false          -- clocks stopped by a thermal emergency (R133)
  held      : List HeldFault := []   -- faults found meanwhile, oldest first (R135, R195)
  groups    : SMap Group := []
  rows      : SMap RowState := []
  active    : Option ArrayOp := none
  shadow    : Option ArrayOp := none
  pack      : SMap BandCfg := []     -- the packed layout; empty is unpacked
  -- the sequencer (R213)
  running   : Bool := false
  ended     : Bool := false          -- END issued
  part      : Nat := 0               -- partition and logical index of the launch it runs
  ltile     : Nat := 0
  mode      : BitVec 32 := 0         -- numeric mode word (R43)
  auxDemand : Nat := 0
  code      : SMap Word128 := []
  ninstr    : Nat := 0
  pc        : Nat := 0
  lastIdx   : Nat := 0
  aregs     : SMap Addr48 := []
  ctrs      : SMap Nat := []
  loops     : List LoopRec := []     -- innermost first
  wait      : Option WaitRec := none
  preempt   : Bool := false          -- a pre-emption request is pending (R129)
  parked    : Bool := false          -- it has taken effect: the tile waits to be saved
  cutRun    : Option CutRun := none  -- the instruction at the program counter was stopped inside it
  -- steps, records and journal
  steps     : List StepRec := []     -- uncommitted, oldest first; the last is the current one
  stepNo    : Nat := 0
  status    : NumRec := {}
  digests   : List DigestRun := []
  untracked : Nat := 0
  replays   : Nat := 0
  foot      : List Foot := []
  marks     : SMap (Option Mark) := []   -- by step number, its state at the boundary that begins it (R261)
  images    : List Image := []
  outReads  : List OutRead := []
  issued    : Nat := 0               -- instructions of the launch that have issued
  bgen      : BitVec 64 := 0
  cstCache  : List Nat := []         -- cached Channel Scale Table lines, most recently used first (R152)
  sampler   : Sampler := {}
  deriving DecidableEq, Repr

end Sys2Proof.Machine
end

