-- ==== Sys2Proof/Machine/Map.lean ====
section
/-! DEFINITION. Reading and writing the sparse stores and byte memories: the named operations that every other definition uses. -/

namespace Sys2Proof.Machine

/-- The value at a place: the default where nothing is listed. -/
def SMap.get {α : Type} (d : α) : SMap α → Nat → α
  | [], _ => d
  | (k, v) :: m, i => if i = k then v else if i < k then d else SMap.get d m i

/-- Put an entry at its place without regard to the default. -/
def SMap.insert {α : Type} : SMap α → Nat → α → SMap α
  | [], i, v => [(i, v)]
  | (k, w) :: m, i, v =>
    if i = k then (i, v) :: m else if i < k then (i, v) :: (k, w) :: m else (k, w) :: SMap.insert m i v

/-- Remove the entry of a place. -/
def SMap.erase {α : Type} : SMap α → Nat → SMap α
  | [], _ => []
  | (k, w) :: m, i => if i = k then m else if i < k then (k, w) :: m else (k, w) :: SMap.erase m i

/-- Write a place; writing the default unlists it, so equal stores are equal lists. -/
def SMap.set {α : Type} [DecidableEq α] (d : α) (m : SMap α) (i : Nat) (v : α) : SMap α :=
  if v = d then SMap.erase m i else SMap.insert m i v

/-- The canonical form: keys strictly rising, no entry equal to the default. -/
def SMap.wf {α : Type} [DecidableEq α] (d : α) : SMap α → Bool
  | [] => true
  | [(_, v)] => v != d
  | (k, v) :: (k', v') :: m => decide (k < k') && v != d && SMap.wf d ((k', v') :: m)

/-- Every listed entry through a function, in key order, the default kept unlisted. -/
def SMap.mapVals {α : Type} [DecidableEq α] (d : α) (f : Nat → α → α) (m : SMap α) : SMap α :=
  (m.map (fun (k, v) => (k, f k v))).filter (fun e => e.2 != d)

/-- A byte of a memory. -/
def Mem.byte (m : Mem) (a : Nat) : Byte := SMap.get 0 m a
/-- Write one byte. -/
def Mem.setByte (m : Mem) (a : Nat) (b : Byte) : Mem := SMap.set 0 m a b
def Mem.wf (m : Mem) : Bool := SMap.wf (0 : Byte) m

/-- `n` bytes from an address, lowest address first. -/
def Mem.bytes (m : Mem) (a n : Nat) : List Byte := (List.range n).map (fun i => m.byte (a + i))
/-- Write bytes from an address, lowest address first. -/
def Mem.setBytes (m : Mem) (a : Nat) : List Byte → Mem
  | [] => m
  | b :: bs => Mem.setBytes (m.setByte a b) (a + 1) bs

/-- Little-endian value of bytes (R7). -/
def leNat : List Byte → Nat
  | [] => 0
  | b :: bs => b.toNat + 256 * leNat bs
/-- The `n` little-endian bytes of a value (R7). -/
def leBytes : Nat → Nat → List Byte
  | 0, _ => []
  | n + 1, v => BitVec.ofNat 8 v :: leBytes n (v / 256)

/-- `n` bytes at an address as a little-endian number. -/
def Mem.le (m : Mem) (a n : Nat) : Nat := leNat (m.bytes a n)
def Mem.setLe (m : Mem) (a n v : Nat) : Mem := m.setBytes a (leBytes n v)
/-- 32-bit word `i` of a structure at an address (R7). -/
def Mem.word (m : Mem) (a i : Nat) : Nat := m.le (a + 4 * i) 4

/-- Bits `[hi:lo]` of a number (R7). -/
def bits (v lo n : Nat) : Nat := v / 2 ^ lo % 2 ^ n

/-- The 32-bit words of a list as little-endian bytes. -/
def wordsBytes (ws : List Nat) : List Byte := ws.flatMap (leBytes 4)
/-- Bytes as 32-bit words. -/
def bytesWords : Nat → List Byte → List Nat
  | 0, _ => []
  | n + 1, bs => leNat (bs.take 4) :: bytesWords n (bs.drop 4)

/-- Two ranges of one memory share a byte. -/
def Range.overlaps (a b : Range) : Bool := a.space == b.space && decide (a.lo < b.hi) && decide (b.lo < a.hi)

end Sys2Proof.Machine
end

