-- ==== Sys2Proof/Machine/Quires.lean ====
section
/-! DEFINITION. The wide quire: adding terms, merging, resolving, export and import (R77 to R103). -/

namespace Sys2Proof.Machine

/-- The integer `Q + X × 2^640` of R79, whose unit weighs 2^-320. -/
def Quire.total (c : Quire) : Int := c.q.toInt + c.x.toInt * 2 ^ 640

/-- Store a total: Q modulo 2^640, the rest in X, and OVX where X would leave 64 bits (R79). -/
def Quire.store (c : Quire) (z : Int) : Quire :=
  let q := BitVec.ofInt 640 z
  let x := (z - q.toInt) / 2 ^ 640
  if x < -(2 ^ 63) then { c with q := q, x := BitVec.intMin 64, ovx := true }
  else if 2 ^ 63 - 1 < x then { c with q := q, x := BitVec.intMax 64, ovx := true }
  else { c with q := q, x := BitVec.ofInt 64 x }

/-- Add a finite term of `t` units of 2^-320; a quire with OVX set takes none (R79). -/
def Quire.addInt (c : Quire) (t : Int) : Quire := if c.ovx then c else c.store (c.total + t)

def minK (a b : BitVec 48) : BitVec 48 := if a.toNat ≤ b.toNat then a else b

/-- `drain` of R81 for one exact value with reduction index `k`: a finite term adds, a non-finite one sets its special bit and
takes part in FIRSTK. -/
def Quire.addVal (c : Quire) (v : Val) (k : Nat) : Quire :=
  let c' := { c with firstk := minK c.firstk (BitVec.ofNat 48 k) }
  match v with
  | .zero _ => c
  | .fin x => let u := x.scale2 320; c.addInt (u.num / (u.den : Int))
  | .nan => { c' with snan := true }
  | .nar => { c' with snar := true }
  | .inf false => { c' with spinf := true }
  | .inf true => { c' with sninf := true }

/-- Combine the special bits and FIRSTK of two quires (R80). -/
def Quire.orSpecial (c s : Quire) : Quire :=
  { c with snan := c.snan || s.snan, snar := c.snar || s.snar, spinf := c.spinf || s.spinf, sninf := c.sninf || s.sninf,
           firstk := minK c.firstk s.firstk }

/-- The merge of R89, the source's value first shifted right arithmetically by `sh` bits (R204; 0 otherwise). -/
def Quire.mergeShift (c s : Quire) (sh : Nat) : Quire :=
  let c1 := c.addInt (s.total / 2 ^ sh)
  let c2 := c1.orSpecial s
  { c2 with ovx := c2.ovx || s.ovx }

def Quire.merge (c s : Quire) : Quire := c.mergeShift s 0

/-- The correction of R202: an arithmetic right shift of the 704-bit value (Q, X). -/
def Quire.shiftRight (c : Quire) (n : Nat) : Quire :=
  let z := c.total / 2 ^ n
  let q := BitVec.ofInt 640 z
  { c with q := q, x := BitVec.ofInt 64 ((z - q.toInt) / 2 ^ 640) }

/-- What a quire resolves to (R93). -/
inductive Resolved where
  | nan | nar
  | inf (neg : Bool)
  | ovf (neg : Bool)
  | val (z : Frac)
  deriving DecidableEq, Repr

/-- The exact value Z of R79 (R93, row 5). -/
def Quire.value (c : Quire) : Frac := Frac.dyad c.total (-320)

def Quire.resolve (c : Quire) : Resolved :=
  if c.snan || (c.spinf && c.sninf) then .nan
  else if c.snar then .nar
  else if c.spinf then .inf false
  else if c.sninf then .inf true
  else if c.ovx || c.x != 0 then .ovf (c.x.msb)
  else .val c.value

/-- The 24 meaningful words of a slot image (R78), then eight zero words. -/
def Quire.words (c : Quire) : List Nat :=
  (List.range 20).map (fun i => bits c.q.toNat (32 * i) 32)
  ++ [bits c.x.toNat 0 32, bits c.x.toNat 32 32, bits c.firstk.toNat 0 32,
      bits c.firstk.toNat 32 16 + c.snan.toNat * 2 ^ 16 + c.snar.toNat * 2 ^ 17 + c.spinf.toNat * 2 ^ 18
        + c.sninf.toNat * 2 ^ 19 + c.ovx.toNat * 2 ^ 20]
  ++ List.replicate 8 0

/-- The 128 bytes of a slot image. -/
def Quire.image (c : Quire) : List Byte := wordsBytes c.words

/-- Read a slot image; its reserved words and bits are ignored (R78, R86). -/
def Quire.ofImage (bs : List Byte) : Quire :=
  let ws := bytesWords 24 bs
  let w (i : Nat) := ws.getD i 0
  { q := BitVec.ofNat 640 (leNat (bs.take 80)),
    x := BitVec.ofNat 64 (w 20 + w 21 * 2 ^ 32),
    firstk := BitVec.ofNat 48 (w 22 + (w 23 % 2 ^ 16) * 2 ^ 32),
    snan := (w 23).testBit 16, snar := (w 23).testBit 17, spinf := (w 23).testBit 18,
    sninf := (w 23).testBit 19, ovx := (w 23).testBit 20 }

/-- The NaR pattern of a standard quire (R96). -/
def stdNaR : Nat := 2 ^ 511

/-- Standard export of R96: the 512-bit pattern and the flags it raises. -/
def Quire.standard (c : Quire) : Nat × NFlags :=
  match c.resolve with
  | .nan => (stdNaR, { inv := true })
  | .nar => (stdNaR, {})
  | .inf _ => (stdNaR, { ov := true })
  | .ovf _ => (stdNaR, { ov := true })
  | .val z =>
    let p := (z.scale2 240).roundHalfEven
    if p ≤ -(2 ^ 511) ∨ 2 ^ 511 ≤ p then (stdNaR, { ov := true })
    else
      let inx := !((Frac.dyad p (-240)).eq z)
      ((p % 2 ^ 512).toNat, { inx := inx, un := (p == 0 && !z.isZero) })

/-- Merge a standard quire (R97). -/
def Quire.mergeStandard (c : Quire) (p : Nat) : Quire :=
  if p = stdNaR then { c with snar := true }
  else
    let s : Int := if p.testBit 511 then (p : Int) - 2 ^ 512 else p
    c.addInt (s * 2 ^ 80)

/-- A quire as GOPEN and bring-up leave it (R78). -/
def Quire.cleared : Quire := {}

def Tile.slot (t : Tile) (i : Nat) : Quire := SMap.get Quire.cleared t.cistern i
def Tile.setSlot (t : Tile) (i : Nat) (c : Quire) : Tile := { t with cistern := SMap.set Quire.cleared t.cistern i c }

def Group.empty : Group := {}
def Tile.group (t : Tile) (h : Nat) : Group := SMap.get Group.empty t.groups h
def Tile.setGroup (t : Tile) (h : Nat) (g : Group) : Tile := { t with groups := SMap.set Group.empty t.groups h g }
def Group.slots (g : Group) : Nat := g.rows * g.cols
def Group.isOpen (g : Group) : Bool := g.st == .openG
def Group.isFree (g : Group) : Bool := g.st == .freeG
/-- The slot of output element (r, c) (R84). -/
def Group.slot (g : Group) (r c : Nat) : Nat := g.base + r * g.cols + c
def Group.overlaps (g : Group) (lo hi : Nat) : Bool := decide (g.base < hi) && decide (lo < g.base + g.slots)

/-- The handle of the group of a wanted state that holds a slot. -/
def Tile.slotGroup? (t : Tile) (s : Nat) (p : Group → Bool) : Option Nat :=
  (t.groups.find? (fun e => p e.2 && decide (e.2.base ≤ s) && decide (s < e.2.base + e.2.slots))).map (·.1)

/-- Add a term to a slot of the Cistern. -/
def Tile.addTerm (t : Tile) (slot : Nat) (v : Val) (k : Nat) : Tile := t.setSlot slot ((t.slot slot).addVal v k)

end Sys2Proof.Machine
end

