-- ==== Sys2Proof/Machine/Tensor.lean ====
section
/-! DEFINITION. The tile's Basin and auxiliary SRAM as an instruction sees them: tensor records (R220 to R222), quantisation
records (R137, R138), scale grids (R139), zero points (R141), side lists (R148 to R150), and the exact value of an element. -/

namespace Sys2Proof.Machine

def basinSize : Nat := 0x60_0000
def auxSize : Nat := 0x4_0000
def cisternSize : Nat := 0x10_0000

/-! ### Writing the tile's own memory -/

/-- Change the current step, the last of the uncommitted ones. -/
def Tile.mapStep (t : Tile) (f : StepRec → StepRec) : Tile :=
  match t.steps.reverse with
  | [] => t
  | s :: older => { t with steps := (f s :: older).reverse }

/-- A write by the tile's own instruction: the bytes land, BGEN advances (R485), and the step remembers what they replaced
(R287). Space 1 is the Basin, any other the auxiliary SRAM. -/
def Tile.write (t : Tile) (space off : Nat) (bs : List Byte) : Tile :=
  if bs.isEmpty then t
  else
    let m := if space = 1 then t.basin else t.aux
    let old := (List.range bs.length).map (fun i => (space, off + i, m.byte (off + i)))
    let m' := m.setBytes off bs
    let t1 : Tile := if space = 1 then { t with basin := m' } else { t with aux := m' }
    { t1 with bgen := t1.bgen + 1 }.mapStep (fun s => { s with undo := old.reverse ++ s.undo })

def Tile.wrBasin (t : Tile) (off : Nat) (bs : List Byte) : Tile := t.write 1 off bs
def Tile.wrAux (t : Tile) (off : Nat) (bs : List Byte) : Tile := t.write 3 off bs

/-! ### Records -/

/-- A tensor record (R220) that passed R221 and R222; `addr` is where it lies. -/
structure TRec where
  addr    : Nat
  base    : Nat
  fmtd    : Nat
  desc    : Desc
  quse    : Nat
  view    : Nat
  qaddr   : Nat
  rows    : Nat
  cols    : Nat
  rstride : Nat
  vrow0   : Nat
  vcol0   : Nat
  vrows   : Nat
  vcols   : Nat
  deriving DecidableEq, Repr

def TRec.width (t : TRec) : Nat := t.desc.fmt.width
/-- Bytes of one stored row (R40, R221). -/
def TRec.rowBytes (t : TRec) : Nat := (t.cols * t.width + 7) / 8
/-- Stored extents of the tensor whose coordinates hold the quantisation data (R222). -/
def TRec.origRows (t : TRec) : Nat := if t.view = 0 then t.rows else t.vrows
def TRec.origCols (t : TRec) : Nat := if t.view = 0 then t.cols else t.vcols
/-- Original coordinates of element (r, c) (R222). -/
def TRec.orig (t : TRec) (r c : Nat) : Nat × Nat :=
  match t.view with
  | 0 => (r, c)
  | 1 => (t.vrow0 + r, t.vcol0 + c)
  | _ => (t.vrow0 + c, t.vcol0 + r)
/-- The element that lies at original coordinates. -/
def TRec.ofOrig (t : TRec) (ro co : Nat) : Nat × Nat :=
  match t.view with
  | 0 => (ro, co)
  | 1 => (ro - t.vrow0, co - t.vcol0)
  | _ => (co - t.vcol0, ro - t.vrow0)
/-- Bytes the tensor spans. -/
def TRec.range (t : TRec) : Range := ⟨1, t.base, t.base + (t.rows - 1) * t.rstride + t.rowBytes⟩
/-- Whether blocks lie within a stored row of the original tensor, given where they lie in the record's own (R222). -/
def TRec.origBlockInRow (t : TRec) (inRow : Bool) : Bool := if t.view = 2 then !inRow else inRow
def TRec.elems (t : TRec) : Nat := t.rows * t.cols

/-- The reserved bits of a tensor record are zero (R220). -/
def trecReservedOk (w : Nat → Nat) : Bool :=
  w 0 < 2 ^ 23 && w 1 < 2 ^ 20 && w 2 < 2 ^ 23 && w 3 < 2 ^ 20 && w 4 < 2 ^ 20 && w 5 < 2 ^ 23
  && [6, 7, 8, 9].all (fun i => w i < 2 ^ 20) && (List.range 6).all (fun i => w (10 + i) == 0)

/-- The bytes of a scale grid of `R × K` elements (R139). -/
def gridBytes (inRow : Bool) (b r k : Nat) : Nat := if inRow then r * ((k + b - 1) / b) else ((r + b - 1) / b) * k
/-- The byte of the scale of element (r, c) in its grid (R139). -/
def gridIndex (inRow : Bool) (b k r c : Nat) : Nat :=
  if inRow then r * ((k + b - 1) / b) + c / b else (r / b) * k + c

/-- Read the tensor record named by a 16-bit field (R220); none where R221 or R222 makes it invalid (reason 0x02). `grid` says
whether the reading instruction uses block scales, and then whether blocks lie within a stored row of the record. -/
def Tile.trec (t : Tile) (field : Nat) (grid : Option (Desc → Bool)) : Option TRec :=
  let a := field * 128
  let w (i : Nat) := t.basin.word a i
  if field = 0 || basinSize < a + 64 || !trecReservedOk w then none
  else
    match Desc.ofNat (w 1 % 65536) with
    | none => none
    | some d =>
      let r : TRec :=
        { addr := a, base := w 0, fmtd := w 1 % 65536, desc := d, quse := bits (w 1) 16 2, view := bits (w 1) 18 2, qaddr := w 2,
          rows := w 3 + 1, cols := w 4 + 1, rstride := w 5, vrow0 := w 6, vcol0 := w 7, vrows := w 8 + 1, vcols := w 9 + 1 }
      let esz := r.width / 8
      let okShape := (r.width < 16 || (r.base % esz == 0 && r.rstride % esz == 0)) && r.rowBytes ≤ r.rstride
        && r.base + (r.rows - 1) * r.rstride + r.rowBytes ≤ basinSize
      let okQuse := r.quse != 3 && r.view != 3
        && !(r.quse == 0 && (d.bsize != 0 || d.esc)) && !(r.quse == 2 && (d.bsize == 0 || d.esc))
      let okView :=
        match r.view with
        | 0 => true
        | 1 => r.vrow0 + r.rows ≤ r.vrows && r.vcol0 + r.cols ≤ r.vcols
        | _ => r.vrow0 + r.cols ≤ r.vrows && r.vcol0 + r.rows ≤ r.vcols
      let okEscView := r.view == 0 || !d.esc || r.vcol0 % 128 == 0
      let okGrid :=
        match grid with
        | none => true
        | some f => !(r.quse == 2) ||
            r.qaddr + gridBytes (r.origBlockInRow (f d)) d.bsize r.origRows r.origCols ≤ basinSize
      if okShape && okQuse && okView && okEscView && okGrid then some r else none

/-- Blocks of a non-array operand or output lie within a stored row when BDIR = 0 (R139). -/
def plainGrid : Option (Desc → Bool) := some (fun d => !d.bdir)

/-- A quantisation record's fields (R137). `none` of a tensor is `QRec.none`. -/
structure QRec where
  present  : Bool
  addr     : Nat
  zpmode   : Nat
  osmode   : Bool
  sidew    : Bool
  staten   : Bool
  chstaten : Bool
  zpval    : Nat
  scaddr   : Nat
  zpaddr   : Nat
  wccnt    : Nat
  wcidx    : Nat
  wcval    : Nat
  sidecnt  : Nat
  sideaddr : Nat
  diraddr  : Nat
  stataddr : Nat
  chstaddr : Nat
  escthr   : Nat
  sideused : Nat
  deriving DecidableEq, Repr

/-- An operand that names no record: no zero point, no wide channels, no statistics (R137); its grid is at QADDR. -/
def QRec.absent (scaddr : Nat) : QRec :=
  { present := false, addr := 0, zpmode := 0, osmode := false, sidew := false, staten := false, chstaten := false, zpval := 0,
    scaddr := scaddr, zpaddr := 0, wccnt := 0, wcidx := 0, wcval := 0, sidecnt := 0, sideaddr := 0, diraddr := 0,
    stataddr := 0, chstaddr := 0, escthr := 0, sideused := 0 }

/-- Bytes of a side-list entry (R149). -/
def QRec.entry (q : QRec) : Nat := if q.sidew then 4 else 2

/-- The uses of a quantisation record (R138): an input with its reduction axis for wide channels, a REQUANT output, another
output. -/
inductive QUse where
  | input (wideAxisRows : Option Bool)
  | requant
  | output
  deriving DecidableEq, Repr

def QUse.isOutput : QUse → Bool
  | .input _ => false
  | _ => true
def QUse.readsZp : QUse → Bool
  | .requant => false
  | _ => true

/-- Operands that take no wide channels: the 16-bit class and posit32 (R138). -/
def wideClass (d : Desc) : Bool := d.fmt.cls == 16 || d.fmt == .posit32

/-- The wide-channel list: WCCNT strictly ascending coordinates below the extent (R146). -/
def ascendingBelow (ext : Nat) : List Nat → Bool
  | [] => true
  | [a] => decide (a < ext)
  | a :: b :: l => decide (a < b) && ascendingBelow ext (b :: l)

def QRec.wideList (q : QRec) (basin : Mem) : List Nat := (List.range q.wccnt).map (fun i => basin.le (q.wcidx + 4 * i) 4)

/-- Whether a reduction along the record's stored rows runs along the original's stored rows: a transposing view exchanges the
axes (R146, R222). -/
def TRec.origAxis (t : TRec) (rows : Bool) : Bool := if t.view = 2 then !rows else rows

/-- Read the quantisation data of a tensor: none where R138 makes the record illegal (reason 0x03). Range and alignment are
tested for the regions that the modes and counts put in use: a zero-point array with ZPMODE 0b10 or 0b11, a grid with block
scales, wide-channel lists with WCCNT ≠ 0, statistics with STATEN or CHSTATEN. (DEDUCED, log entry 69) -/
def Tile.qrec (t : Tile) (r : TRec) (use : QUse) (inRow : Bool) : Option QRec :=
  if r.quse ≠ 1 then some (QRec.absent r.qaddr)
  else
    let a := r.qaddr
    let w (i : Nat) := t.basin.word a i
    let d := r.desc
    let q : QRec :=
      { present := true, addr := a, zpmode := w 0 % 4, osmode := (w 0).testBit 2, sidew := (w 0).testBit 3,
        staten := (w 0).testBit 4, chstaten := (w 0).testBit 5, zpval := bits (w 0) 8 8, scaddr := bits (w 1) 0 23,
        zpaddr := bits (w 2) 0 23, wccnt := bits (w 3) 0 9, wcidx := bits (w 4) 0 23, wcval := bits (w 5) 0 23,
        sidecnt := bits (w 6) 0 17, sideaddr := bits (w 7) 0 18, diraddr := bits (w 8) 0 23, stataddr := bits (w 9) 0 23,
        chstaddr := bits (w 10) 0 23, escthr := bits (w 11) 0 16, sideused := bits (w 12) 0 17 }
    let okRes := bits (w 0) 6 2 == 0 && bits (w 0) 16 16 == 0 && w 1 < 2 ^ 23 && w 2 < 2 ^ 23 && w 3 < 2 ^ 9 && w 4 < 2 ^ 23
      && w 5 < 2 ^ 23 && w 6 < 2 ^ 17 && w 7 < 2 ^ 18 && w 8 < 2 ^ 23 && w 9 < 2 ^ 23 && w 10 < 2 ^ 23 && w 11 < 2 ^ 16
      && w 12 < 2 ^ 17 && w 13 == 0 && w 14 == 0 && w 15 == 0
    let okZp := !use.readsZp || q.zpmode == 0 || (d.fmt.isInt && d.fmt != .int32
      && (q.zpmode == 1 || q.zpaddr + (if q.zpmode == 2 then r.origRows else r.origCols) ≤ basinSize))
    let okGrid := d.bsize == 0 ||
      q.scaddr + gridBytes (r.origBlockInRow inRow) d.bsize r.origRows r.origCols ≤ basinSize
    let okWide :=
      match use with
      | .input (some rows) =>
        let ext := if r.origAxis rows then r.origRows else r.origCols
        let dd := if r.origAxis rows then r.origCols else r.origRows
        q.wccnt == 0 || (q.wccnt ≤ 256 && !wideClass d && q.wcidx % 4 == 0 && q.wcval % 2 == 0
          && q.wcidx + 4 * q.wccnt ≤ basinSize && q.wcval + 2 * q.wccnt * dd ≤ basinSize
          && ascendingBelow ext (q.wideList t.basin))
      | .input none => q.wccnt == 0 || (q.wccnt ≤ 256 && !wideClass d)
      | _ => q.wccnt == 0 && q.wcidx == 0 && q.wcval == 0
    let segs := (r.origCols + 127) / 128
    let okEsc := !d.esc || (q.sidecnt ≤ 65536 && q.sideaddr % q.entry == 0 && q.sideaddr + q.sidecnt * q.entry ≤ auxSize
      && q.diraddr % 4 == 0 && q.diraddr + 4 * (r.origRows * segs) ≤ basinSize)
    let okStat := !use.isOutput || ((!q.staten || (q.stataddr % 32 == 0 && q.stataddr + 32 ≤ basinSize))
      && (!q.chstaten || (q.chstaddr % 4 == 0 && q.chstaddr + 4 * r.cols ≤ basinSize)))
    if a % 64 == 0 && a + 64 ≤ basinSize && okRes && okZp && okGrid && okWide && okEsc && okStat then some q else none

/-- Whether a side list stays inside the kernel region (R291; reason 0x05 where not). -/
def sideInside (t : Tile) (r : TRec) (q : QRec) : Bool :=
  !r.desc.esc || decide (q.sideaddr + q.sidecnt * q.entry ≤ t.auxDemand) || q.sidecnt == 0

/-! ### Elements -/

/-- Basin byte offset and bit offset of element (r, c) (R40, R221). -/
def TRec.place (t : TRec) (r c : Nat) : Nat × Nat :=
  (t.base + r * t.rstride + c * t.width / 8, c * t.width % 8)

/-- The pattern of element (r, c): the bits of its field that the format uses (R40). -/
def Tile.pattern (t : Tile) (x : TRec) (r c : Nat) : Nat :=
  let (o, b) := x.place r c
  if x.width < 8 then (t.basin.byte o).toNat / 2 ^ b % 2 ^ x.desc.fmt.patBits else t.basin.le o (x.width / 8)

/-- Store the pattern of element (r, c), the neighbours in its byte unchanged; posit3's bit 3 is written as zero (R40). -/
def Tile.setPattern (t : Tile) (x : TRec) (r c p : Nat) : Tile :=
  let (o, b) := x.place r c
  if x.width < 8 then
    let old := (t.basin.byte o).toNat
    let field := old / 2 ^ b % 2 ^ x.width
    t.wrBasin o [BitVec.ofNat 8 (old - field * 2 ^ b + (p % 2 ^ x.desc.fmt.patBits) * 2 ^ b)]
  else t.wrBasin o (leBytes (x.width / 8) p)

/-- The scale code that serves element (r, c); 127, which scales by one, without block scales (R51). -/
def Tile.scaleCode (t : Tile) (x : TRec) (q : QRec) (inRow : Bool) (r c : Nat) : Nat :=
  if x.desc.bsize = 0 then 127
  else
    let (ro, co) := x.orig r c
    (t.basin.byte (q.scaddr + gridIndex (x.origBlockInRow inRow) x.desc.bsize x.origCols ro co)).toNat

/-- The zero point of element (r, c) (R141). -/
def Tile.zeroPoint (t : Tile) (x : TRec) (q : QRec) (r c : Nat) : Int :=
  let w := x.desc.fmt.width
  let rd (p : Nat) : Int := if x.desc.signed then signedOf w (p % 2 ^ w) else (p % 2 ^ w : Nat)
  let (ro, co) := x.orig r c
  match q.zpmode with
  | 0 => 0
  | 1 => rd q.zpval
  | 2 => rd (t.basin.byte (q.zpaddr + ro)).toNat
  | _ => rd (t.basin.byte (q.zpaddr + co)).toNat

/-- The side-list index of an escaped element (R148, R222). -/
def Tile.sideIndex (t : Tile) (x : TRec) (q : QRec) (r c : Nat) : Nat :=
  let (ro, co) := x.orig r c
  let j := co / 128
  let segs := (x.origCols + 127) / 128
  let dir := t.basin.le (q.diraddr + 4 * (ro * segs + j)) 4 % 2 ^ 17
  let before := (List.range (co - 128 * j)).countP (fun i =>
    let (r', c') := x.ofOrig ro (128 * j + i)
    isEscape x.desc (t.pattern x r' c'))
  dir + before

/-- Element (r, c) as the load path, a feeder or another reader forms it. `wideAxisRows` names the reduction axis of an array
operand, along which its wide channels run; none for the inputs of other instructions, which have none. -/
def Tile.elem (t : Tile) (x : TRec) (q : QRec) (inRow : Bool) (wideAxisRows : Option Bool) (r c : Nat) : OElem :=
  let p := t.pattern x r c
  let src : OSrc :=
    let wide : Option OSrc :=
      match wideAxisRows with
      | none => none
      | some rows =>
        let (ro, co) := x.orig r c
        let k := if x.origAxis rows then ro else co
        let d := if x.origAxis rows then co else ro
        let dd := if x.origAxis rows then x.origCols else x.origRows
        match (q.wideList t.basin).idxOf? k with
        | none => none
        | some i => some (.wide (t.basin.le (q.wcval + 2 * (i * dd + d)) 2))
    match wide with
    | some s => s
    | none =>
      if isEscape x.desc p then
        let i := t.sideIndex x q r c
        if i < q.sidecnt then .side q.sidew (some (t.aux.le (q.sideaddr + i * q.entry) q.entry)) else .side q.sidew none
      else .narrow
  { pat := p, zp := t.zeroPoint x q r c, scale := t.scaleCode x q inRow r c, src := src }

/-- A side-list entry's value: a NaR or NaN entry, or none, is NaN (R150). -/
def sideVal (m : NMode) (w32 : Bool) : Option Nat → Val
  | none => .nan
  | some p =>
    let v := if w32 then fpDecode .f32 m.ftz32 p else posit16Val p
    match v with
    | .nar => .nan
    | v => v

/-- The narrow element before its block scale: decoded, zero point subtracted (R141), limb selected (R88). -/
def narrowVal (d : Desc) (m : NMode) (limb : Nat) (e : OElem) : Val :=
  if d.fmt.isInt then
    let p : Int := if d.signed then signedOf d.fmt.width (e.pat % 2 ^ d.fmt.width) else (e.pat % 2 ^ d.fmt.width : Nat)
    let x := p - e.zp
    let y := match limb with
      | 1 => x % 16
      | 2 => x / 16
      | _ => x
    Val.ofFrac (Frac.ofInt y)
  else decodeElem d m.ftz32 e.pat

/-- The exact value of an element under R186: zero point, escape and block scale applied. -/
def elemVal (d : Desc) (m : NMode) (e : OElem) : Val :=
  match e.src with
  | .narrow => scaledVal (narrowVal d m 0 e) e.scale
  | .side w32 p => if e.scale = 255 then .nan else sideVal m w32 p
  | .wide p => posit16Val p

/-- The exact value of element (r, c) of a tensor that no reduction reads (R186). -/
def Tile.value (t : Tile) (m : NMode) (x : TRec) (q : QRec) (r c : Nat) : Val :=
  elemVal x.desc m (t.elem x q (!x.desc.bdir) none r c)

/-- One product of a reduction as R143 forms it, with the limb shift of R81; none where R144 has the pass contribute none. -/
def productTerm (m : NMode) (da db : Desc) (la lb : Nat) (a b : OElem) : Option Val :=
  let whole (d : Desc) (e : OElem) := elemVal d m e
  let li (l : Nat) := if l = 2 then 1 else 0
  match a.src, b.src with
  | .narrow, .narrow =>
    let v (d : Desc) (l : Nat) (e : OElem) := scaledVal (narrowVal d m l e) e.scale
    some ((Val.product (v da la a) (v db lb b)).scale2 ((4 * (li la + li lb) : Nat) : Int))
  | _, _ => if li la + li lb = 0 then some (Val.product (whole da a) (whole db b)) else none

/-! ### Ranges of the footprint (R256, R263) -/

/-- Every place of an `nr × nc` rectangle, row by row in ascending column order. -/
def rect (nr nc : Nat) : List (Nat × Nat) := (List.range nr).flatMap (fun i => (List.range nc).map (fun j => (i, j)))

/-- The bounding interval of rows `r0 .. r0+nr-1`, columns `c0 .. c0+nc-1`. -/
def TRec.slice (x : TRec) (r0 c0 nr nc : Nat) : Range :=
  if nr = 0 || nc = 0 then ⟨1, 0, 0⟩
  else ⟨1, x.base + r0 * x.rstride + c0 * x.width / 8,
        x.base + (r0 + nr - 1) * x.rstride + ((c0 + nc) * x.width + 7) / 8⟩

/-- The ranges that reading an input's quantisation data touches; a side list's entries are counted where they are read
(`sideReads`). -/
def inputRanges (x : TRec) (q : QRec) (inRow : Bool) (wideAxisRows : Option Bool) : List Range :=
  [⟨1, x.addr, x.addr + 64⟩]
  ++ (if x.desc.bsize = 0 then [] else
    [⟨1, q.scaddr, q.scaddr + gridBytes (x.origBlockInRow inRow) x.desc.bsize x.origRows x.origCols⟩])
  ++ (if !q.present then [] else
    [⟨1, q.addr, q.addr + 64⟩]
    ++ (if q.zpmode < 2 then [] else [⟨1, q.zpaddr, q.zpaddr + (if q.zpmode = 2 then x.origRows else x.origCols)⟩])
    ++ (if wideAxisRows.isNone || q.wccnt = 0 then [] else
      [⟨1, q.wcidx, q.wcidx + 4 * q.wccnt⟩,
       ⟨1, q.wcval, q.wcval + 2 * q.wccnt * (if wideAxisRows.elim false x.origAxis then x.origCols else x.origRows)⟩])
    ++ (if !x.desc.esc then [] else [⟨1, q.diraddr, q.diraddr + 4 * (x.origRows * ((x.origCols + 127) / 128))⟩]))

/-- The side-list entries that reading elements takes: one for each escaped element that no wide channel replaces, whose block
scale is not 0xFF and whose index lies below SIDECNT (R148, R150, R167). -/
def Tile.sideReads (t : Tile) (x : TRec) (q : QRec) (inRow : Bool) (wideAxisRows : Option Bool) (rcs : List (Nat × Nat)) : List Range :=
  if !x.desc.esc then [] else
    rcs.flatMap (fun rc =>
      let e := t.elem x q inRow wideAxisRows rc.1 rc.2
      match e.src with
      | .side _ (some _) =>
        if e.scale = 255 then [] else
          let a := q.sideaddr + t.sideIndex x q rc.1 rc.2 * q.entry
          [⟨3, a, a + q.entry⟩]
      | _ => [])

end Sys2Proof.Machine
end

