-- ==== Sys2Proof/Machine/Operands.lean ====
section
/-! DEFINITION. The operand forms of tile instructions (R218, R219): fields of the four words, reserved bits, address registers,
and the three ways an instruction ends at issue. -/

namespace Sys2Proof.Machine

/-- Bits `[lo+n-1 : lo]` of word `i` of an instruction (R218). -/
def fld (w : Word128) (i lo n : Nat) : Nat := bits w.toNat (32 * i + lo) n
def flag (w : Word128) (i b : Nat) : Bool := w.toNat.testBit (32 * i + b)
/-- A field read as a signed number. -/
def sfld (w : Word128) (i lo n : Nat) : Int := signedOf n (fld w i lo n)
def opcode (w : Word128) : Nat := fld w 0 0 8

/-- Every bit outside the four masks of defined fields is zero (R257). -/
def onlyFields (w : Word128) (m0 m1 m2 m3 : Nat) : Bool :=
  (fld w 0 0 32 ||| m0 == m0) && (fld w 1 0 32 ||| m1 == m1) && (fld w 2 0 32 ||| m2 == m2) && (fld w 3 0 32 ||| m3 == m3)

/-- Address register `i`: A0 reads zero (R213). -/
def Tile.areg (t : Tile) (i : Nat) : Addr48 := if i = 0 then 0 else SMap.get 0 t.aregs i
/-- Write an address register; A0 ignores writes (R213). -/
def Tile.setAreg (t : Tile) (i : Nat) (v : Addr48) : Tile := if i = 0 then t else { t with aregs := SMap.set 0 t.aregs i v }
/-- The register a field names, unsigned (R219). -/
def Tile.regNat (t : Tile) (w : Word128) (i lo : Nat) : Nat := (t.areg (fld w i lo 4)).toNat

/-- How an instruction ends at issue: executed (with the ranges of the tile's own memory it read and wrote), illegal with a
reason of R257, failed with a status of R258, or held at issue. -/
inductive TRes where
  | ok (t : Tile) (rd wr : List Range)
  | illegal (reason : Nat)
  | fail (status : Word16)
  | hold (t : Tile)
  deriving DecidableEq, Repr

/-- What an instruction's meaning needs to know beyond its tile: the Channel Scale Table of the
tile's die where its partition owns the entry (R152), and the Jet set's slots and constants. -/
structure TCtx where
  cst   : Nat → Option (BitVec 64)
  jet   : Nat → Option JetSlot
  konst : Nat → Word128

/-- The numeric mode of the launch a tile runs (R43). -/
def Tile.nmode (t : Tile) : NMode := NMode.ofNat t.mode.toNat

end Sys2Proof.Machine
end

