-- ==== Sys2Proof/Machine/Array.lean ====
section
/-! DEFINITION. The tensor array's instructions LOADW, STREAM and PACKCFG, and the reduction they perform: every product exact,
each drained into the quire of its output element (R104 to R135, R143 to R147, R224 to R231). -/

namespace Sys2Proof.Machine

/-- Stationary extents (reduction, outputs) of a class (R105). -/
def classExtents : Nat → Nat × Nat
  | 2 => (256, 128)
  | 4 => (128, 128)
  | 8 => (64, 64)
  | 16 => (32, 32)
  | _ => (16, 16)

/-- The class a descriptor runs at under a limb selection (R225). -/
def passClass (d : Desc) (limb : Nat) : Nat := if d.fmt == .int8 && limb != 0 then 4 else d.fmt.cls

/-- Array operands of R39 and R42. -/
def arrayFormat (d : Desc) : Bool := d.fmt.cls != 0

/-- Whether the blocks of an array operand lie within a stored row: along its reduction axis when BDIR = 0 (R139). `redRows`
says that the reduction runs along the stored rows. -/
def arrayGrid (redRows : Bool) (d : Desc) : Bool := if d.bdir then redRows else !redRows

/-- One loaded slice: `kext × next` elements from (row0, col0), the reduction along the stored rows or columns. -/
def Tile.loadSlice (t : Tile) (x : TRec) (q : QRec) (redRows : Bool) (limb row0 col0 kext next : Nat) : StatOp :=
  let inRow := arrayGrid redRows x.desc
  { fmtd := BitVec.ofNat 16 x.fmtd, limb := limb, kext := kext, next := next,
    k0 := if redRows then row0 else col0, n0 := if redRows then col0 else row0,
    hasWide := q.wccnt != 0, zeroed := q.zpmode != 0,
    elems := (List.range kext).map (fun k => (List.range next).map (fun n =>
      if redRows then t.elem x q inRow (some true) (row0 + k) (col0 + n)
      else t.elem x q inRow (some false) (row0 + n) (col0 + k))) }

/-- LOADW of one operand (R225): its illegal cases in the order of the reasons of R257, then the slice. (DEDUCED, log entry 22) -/
def Tile.loadOne (t : Tile) (trecF : Nat) (redRows : Bool) (limb row0 col0 kext next : Nat) :
    Except Nat (StatOp × List Range) :=
  match t.trec trecF (some (arrayGrid redRows)) with
  | none => .error 0x02
  | some x =>
    let d := x.desc
    let cls := passClass d limb
    let (ek, en) := classExtents cls
    if !arrayFormat d then .error 0x02 else
    match t.qrec x (.input (some redRows)) (arrayGrid redRows d) with
    | none => .error 0x03
    | some q =>
      let (nr, nc) := if redRows then (kext, next) else (next, kext)
      if (limb != 0 && d.fmt != .int8) || ek < kext || en < next then .error 0x04
      else if x.rows < row0 + nr || x.cols < col0 + nc || !sideInside t x q then .error 0x05
      else
        .ok (t.loadSlice x q redRows limb row0 col0 kext next,
          x.slice row0 col0 nr nc :: inputRanges x q (arrayGrid redRows d) (some redRows)
            ++ t.sideReads x q (arrayGrid redRows d) (some redRows)
              ((rect nr nc).map (fun ij => (row0 + ij.1, col0 + ij.2))))

/-- The descriptor of a loaded operand. -/
def StatOp.desc (s : StatOp) : Desc := (Desc.ofNat s.fmtd.toNat).getD (Desc.plain .int4 0)

/-- Whether an operand's scales share along the reduction of a pass: recorded directions exchange in a transposed read (R118). -/
def sharesAlongReduction (d : Desc) (transposed : Bool) : Bool := d.bsize != 0 && (d.bdir == transposed)

/-- The origin rule of R228 for a coordinate `k0` of an operand whose class has the stationary reduction extent `e`. -/
def originOk (d : Desc) (shares : Bool) (cls k0 : Nat) : Bool :=
  !shares || k0 % (Nat.min d.bsize (classExtents cls).1) == 0

/-- The group size of a pass (R75). -/
def groupSize (dw dx : Desc) (transposed : Bool) : Nat :=
  match sharesAlongReduction dw transposed, sharesAlongReduction dx false with
  | true, true => Nat.min dw.bsize dx.bsize
  | true, false => dw.bsize
  | false, true => dx.bsize
  | false, false => 128

/-! ### Group sums (R73 to R76, R81) -/

/-- A product inside the group trees: its reduction index, the exact product under its per-element scales, the exponent of those
scales, and the exponent C of the scales shared along the reduction (R74, R81). -/
structure GTerm where
  k : Nat
  v : Val
  s : Int
  c : Int
  deriving DecidableEq, Repr

/-- A narrow element's scale as exponents: per element, and shared along the reduction. -/
def scaleParts (d : Desc) (shares : Bool) (e : OElem) : Int × Int :=
  if d.bsize = 0 then (0, 0)
  else
    let x : Int := ((e.scale % 256 : Nat) : Int) - 127
    if shares then (0, x) else (x, 0)

/-- A narrow element before the scale its block shares; an element of a block with scale 0xFF is NaN (R51). -/
def groupVal (m : NMode) (d : Desc) (limb : Nat) (e : OElem) : Val := if e.scale % 256 = 255 then .nan else narrowVal d m limb e

/-- The product of two narrow elements as the trees take it. -/
def groupTerm (m : NMode) (da db : Desc) (la lb : Nat) (sa sb : Bool) (a b : OElem) (k : Nat) : GTerm :=
  let pa := scaleParts da sa a
  let pb := scaleParts db sb b
  { k := k, v := (Val.product (groupVal m da la a) (groupVal m db lb b)).scale2 (pa.1 + pb.1), s := pa.1 + pb.1, c := pa.2 + pb.2 }

/-- A group sum (R73): G, its anchor A, the scale exponent C it drains under, its special bits, and SK. -/
structure GroupSum where
  g    : Int
  a    : Int
  c    : Int
  nan  : Bool
  nar  : Bool
  pinf : Bool
  ninf : Bool
  sk   : Option Nat
  deriving DecidableEq, Repr

/-- W of a class (R73). -/
def groupW (cls : Nat) : Nat := if cls = 8 then 119 else 55
/-- The spread a group sum absorbs, and the width of a sub-group's band (R73, R74). -/
def groupSpread (cls : Nat) : Nat := if cls = 2 then 51 else 23
def groupBand (cls : Nat) : Nat := if cls = 2 then 52 else 24

def GTerm.finite (t : GTerm) : Option Frac := match t.v with | .fin q => some q | _ => none
def GTerm.special (t : GTerm) : Bool := match t.v with | .fin _ => false | .zero _ => false | _ => true

/-- The sum of one group or sub-group (R73). -/
def groupSum (w : Nat) (ts : List GTerm) : GroupSum :=
  let qs := ts.filterMap GTerm.finite
  let a : Int := match qs.map Frac.log2 with
    | [] => 0
    | x :: l => l.foldl max x
  let sum := (qs.foldl Frac.add ⟨0, 1⟩).scale2 ((w : Int) - a)
  { g := sum.num / (sum.den : Int), a := a, c := ((ts.find? (fun t => t.finite.isSome)).map (·.c)).getD 0,
    nan := ts.any (fun t => t.v == .nan), nar := ts.any (fun t => t.v == .nar),
    pinf := ts.any (fun t => t.v == .inf false), ninf := ts.any (fun t => t.v == .inf true),
    sk := ((ts.filter GTerm.special).map (·.k)).min? }

/-- The residue path's modulus (R492). -/
def residue (n : Int) : Nat := (n % 65535).toNat
/-- The sum of the residues of a group's aligned products (R492). -/
def residuePath (ps : List Int) : Nat := ps.foldl (fun r p => (r + residue p) % 65535) 0
/-- The residue check (R492): the tree's sum `g` against the residue path. A fault of the tree that it finds comes to the model as an
input (`execTileFaultReplay`); the model's own sums pass it (`Laws.residueCheck_iff`). -/
def residueCheck (ps : List Int) (g : Int) : Bool := residuePath ps == residue g

/-- The sub-groups of a group (R74): one where the spread of its finite non-zero products is within the figure of R73, else one
for each band that holds a product. Products that are not finite go with the first. -/
def subGroups (cls : Nat) (ts : List GTerm) : List (List GTerm) :=
  match (ts.filter (fun t => t.finite.isSome)).map (·.s) with
  | [] => [ts]
  | x :: l =>
    let lo := l.foldl min x
    let hi := l.foldl max x
    if hi - lo ≤ (groupSpread cls : Int) then [ts]
    else
      let band (t : GTerm) : Nat := if t.finite.isSome then ((t.s - lo) / (groupBand cls : Int)).toNat else 0
      ((List.range (((hi - lo) / (groupBand cls : Int)).toNat + 1)).map (fun j => ts.filter (fun t => band t == j))).filter
        (fun l => !l.isEmpty)

/-- `drain` of R81 for a group sum. -/
def Quire.drain (q : Quire) (w limbshift : Nat) (s : GroupSum) : Quire :=
  let l : Int := s.a - w + s.c + 320 + limbshift
  let q1 := q.addInt (if 0 ≤ l then s.g * 2 ^ l.toNat else s.g / 2 ^ (-l).toNat)
  { q1 with snan := q1.snan || s.nan, snar := q1.snar || s.nar, spinf := q1.spinf || s.pinf, sninf := q1.sninf || s.ninf,
            firstk := s.sk.elim q1.firstk (fun k => minK q1.firstk (BitVec.ofNat 48 k)) }

/-- Both elements take the main path of the array (R143). -/
def bothNarrow (a b : OElem) : Bool := a.src == .narrow && b.src == .narrow

/-- The limb index that a LIMB field selects (R88, R224). -/
def limbIndex (l : Nat) : Nat := if l = 2 then 1 else 0

/-- One streamed row against a stationary operand: the terms of one output into its quire. Classes with group trees drain one sum
for each group (R75) or sub-group; Spillway products, the 16-bit class and posit32 drain product by product (R76, R144). The
groups drain first, then the Spillway's products: an order that shows only in a quire whose OVX becomes set (R79).
(DESIGN CHOICE, log entry 72) -/
def streamOutput (m : NMode) (dw dx : Desc) (lw lx : Nat) (transposed : Bool) (kbase : Nat) (row col : List OElem) (c : Quire) :
    Quire :=
  let cls := passClass dx lx
  let trees := cls == 2 || cls == 4 || cls == 8
  let ps := (row.zip col).zipIdx
  let gs := groupSize dw dx transposed
  let c1 := if !trees then c else
    (List.range ((ps.length + gs - 1) / gs)).foldl (fun c i =>
      let ts := ((ps.drop (i * gs)).take gs).filterMap (fun e =>
        if bothNarrow e.1.1 e.1.2 then
          some (groupTerm m dx dw lx lw (sharesAlongReduction dx false) (sharesAlongReduction dw transposed) e.1.1 e.1.2 (kbase + e.2))
        else none)
      (subGroups cls ts).foldl (fun c g => c.drain (groupW cls) (4 * (limbIndex lw + limbIndex lx)) (groupSum (groupW cls) g)) c) c
  ps.foldl (fun c e =>
    if trees && bothNarrow e.1.1 e.1.2 then c
    else match productTerm m dx dw lx lw e.1.1 e.1.2 with
      | none => c
      | some v => c.addVal v (kbase + e.2)) c1

/-- The stationary elements along the reduction for output `n` (R117). -/
def StatOp.column (s : StatOp) (transposed : Bool) (n : Nat) : List OElem :=
  if transposed then (s.elems.getD n []) else s.elems.filterMap (fun r => r[n]?)

/-- An INT operand or ternary counts as signed under R106. -/
def passSigned (d : Desc) (limb : Nat) (zeroed : Bool) : Bool := d.signed || d.fmt == .tern || limb != 0 || zeroed

/-- The pass runs on the fall-back path: two INT operands of different signedness (R106). -/
def fallBack (s : StatOp) (dx : Desc) (lx : Nat) (zx : Bool) : Bool :=
  let int (d : Desc) := d.fmt.isInt || d.fmt == .tern
  int s.desc && int dx && passSigned s.desc s.limb s.zeroed != passSigned dx lx zx

/-- Cycles that one streamed row takes in an unpacked pass or in one band (R106, R119). -/
def Tile.rowCycles (t : Tile) (trecF lx : Nat) (s : StatOp) (transposed : Bool) : Nat :=
  match t.trec trecF (some (arrayGrid false)) with
  | none => 1
  | some x =>
    let zx := match t.qrec x (.input (some false)) (arrayGrid false x.desc) with | some q => q.zpmode != 0 | none => false
    (if fallBack s x.desc lx zx then 2 else 1) * (if transposed && s.desc.fmt.cls == 2 then 2 else 1)

/-- The target count g of a packed pass (R122): the most distinct quires that the bands of one column-band (one row-band in a
transposed read) feed for one row. -/
def targetCount (pack : SMap BandCfg) (transposed : Bool) : Nat :=
  ((List.range 4).map (fun i =>
    ((pack.filter (fun e => (if transposed then e.1 / 4 else e.1 % 4) == i)).map
      (fun e => (e.2.grp, e.2.orow, e.2.ocol))).eraseDups.length)).foldl Nat.max 1

/-- The streamed rows of a pass that have entered when it stops at its `k`-th group boundary (R128); all of them where it does not
stop. -/
def cutRows (rows cycles : Nat) (cut : Option Nat) : Nat := cut.elim rows (fun k => Nat.min rows (k * (128 / cycles)))

/-- A pass over `rows` streamed rows of one band or of the unpacked array: its drains into the group's quires (R227). -/
def Tile.runPass (t : Tile) (x : TRec) (q : QRec) (lx : Nat) (s : StatOp) (transposed : Bool)
    (row0 col0 kbase rows : Nat) (g : Group) (orow ocol : Nat) : Tile :=
  let m := t.nmode
  let e := if transposed then s.next else s.kext
  let o := if transposed then s.kext else s.next
  let inRow := arrayGrid false x.desc
  let cols := (List.range o).map (s.column transposed)
  (List.range rows).foldl (fun t' i =>
    let row := (List.range e).map (fun j => t.elem x q inRow (some false) (row0 + i) (col0 + j))
    (cols.zipIdx).foldl (fun t'' cn =>
      let sl := g.slot (orow + i) (ocol + cn.2)
      t''.setSlot sl (streamOutput m s.desc x.desc s.limb lx transposed kbase row cn.1 (t''.slot sl))) t') t

/-- A streamed operand against a stationary one: its checks in the order of the reasons of R257, and its pass. -/
def Tile.streamOne (t : Tile) (trecF lx : Nat) (s : StatOp) (transposed : Bool)
    (row0 col0 kbase rows grp orow ocol : Nat) (cycles : Nat := 1) (cut : Option Nat := none) : Except Nat (Tile × List Range) :=
  match t.trec trecF (some (arrayGrid false)) with
  | none => .error 0x02
  | some x =>
    let dx := x.desc
    let dw := s.desc
    if !arrayFormat dx then .error 0x02 else
    match t.qrec x (.input (some false)) (arrayGrid false dx) with
    | none => .error 0x03
    | some q =>
      let e := if transposed then s.next else s.kext
      let o := if transposed then s.kext else s.next
      let cls := passClass dx lx
      let g := t.group grp
      if transposed && s.hasWide then .error 0x03
      else if (lx != 0 && dx.fmt != .int8) || cls != passClass dw s.limb then .error 0x04
      else if x.rows < row0 + rows || x.cols < col0 + e || !sideInside t x q then .error 0x05
      else if g.isOpen && (g.rows < orow + rows || g.cols < ocol + o) then .error 0x05
      else if !originOk dw (sharesAlongReduction dw transposed) (passClass dw s.limb) (if transposed then s.n0 else s.k0)
        || !originOk dx (sharesAlongReduction dx false) cls col0 then .error 0x06
      else if !g.isOpen then .error 0x07
      else
        .ok (t.runPass x q lx s transposed row0 col0 kbase (cutRows rows cycles cut) g orow ocol,
          x.slice row0 col0 rows e :: inputRanges x q (arrayGrid false dx) (some false)
            ++ t.sideReads x q (arrayGrid false dx) (some false)
              ((rect rows e).map (fun ij => (row0 + ij.1, col0 + ij.2))))

/-- Run a check over every enabled band, threading the tile, the first failing band's reason ending it. -/
def foldBands {α : Type} (f : Tile → Nat → BandCfg → Except Nat (Tile × α × List Range)) :
    List (Nat × BandCfg) → Tile → Except Nat (Tile × List (Nat × α) × List Range)
  | [], t => .ok (t, [], [])
  | (b, c) :: l, t =>
    match f t b c with
    | .error e => .error e
    | .ok (t', a, rs) =>
      match foldBands f l t' with
      | .error e => .error e
      | .ok (t'', as, rs') => .ok (t'', (b, a) :: as, rs ++ rs')

/-- A block that packs: 2-bit or 4-bit class with a block size of 32 (R38). -/
def packedBlock (d : Desc) : Bool := (d.fmt.cls == 2 || d.fmt.cls == 4) && d.bsize == 32

/-- A LOADW on a tile whose array is enabled and whose shadow set is free (R225, R111). -/
def tileLOADW (t : Tile) (w : Word128) : TRes :=
  let pk := flag w 0 8
  let limb := fld w 0 10 2
  if !onlyFields w 0xFFF 0x00FF_FFFF 0xFFFF 0 || limb == 3 then .illegal 0x01
  else if pk && (fld w 1 0 32 != 0 || fld w 2 0 32 != 0) then .illegal 0x01
  else if !t.arrayOn then .illegal 0x0A
  else if t.shadow.isSome then .illegal 0x08
  else if pk then
    if t.pack.isEmpty || limb != 0 then .illegal 0x09
    else
      let one (t' : Tile) (_ : Nat) (c : BandCfg) : Except Nat (Tile × StatOp × List Range) :=
        match t.loadOne c.wtrec (!c.wkaxis) 0 c.wrow0 c.wcol0 c.kext c.next with
        | .error e => .error e
        | .ok (s, rs) => if s.hasWide || !packedBlock s.desc then .error 0x09 else .ok (t', s, rs)
      match foldBands one t.pack t with
      | .error e => .illegal e
      | .ok (t', ops, rs) =>
        if ops.any (fun a => ops.any (fun b => a.2.desc.fmt.cls != b.2.desc.fmt.cls)) then .illegal 0x09
        else .ok { t' with shadow := some { layout := t.pack, ops := ops } } rs []
  else
    match t.loadOne (fld w 1 0 16) (!flag w 0 9) limb (t.regNat w 1 16) (t.regNat w 1 20) (fld w 2 0 9 + 1) (fld w 2 9 7 + 1) with
    | .error e => .illegal e
    | .ok (s, rs) => .ok { t with shadow := some { layout := [], ops := [(0, s)] } } rs []

/-- Two packed layouts place the same bands over the same stationary blocks (R227). -/
def sameLayout (a b : SMap BandCfg) : Bool :=
  let block (e : Nat × BandCfg) := (e.1, e.2.wtrec, e.2.wkaxis, e.2.wrow0, e.2.wcol0, e.2.kext, e.2.next)
  a.map block == b.map block

/-- What R231 asks of a band's streamed operand in the read that a pass makes, beyond what every pass asks: no wide channels, and a
group size of 32 under the directions of that read (R75, R118). -/
def Tile.bandStreams (t : Tile) (c : BandCfg) (s : StatOp) (transposed : Bool) : Bool :=
  match t.trec c.xtrec (some (arrayGrid false)) with
  | none => false
  | some x => match t.qrec x (.input (some false)) (arrayGrid false x.desc) with
    | none => false
    | some q => q.wccnt == 0 && groupSize s.desc x.desc transposed == 32

/-- STREAM (R227, R231); `cut`: a pre-emption stops the pass at this group boundary (R128, R129). -/
def tileSTREAM (t : Tile) (w : Word128) (cut : Option Nat := none) : TRes :=
  let swap := flag w 0 8
  let transp := flag w 0 9
  let pk := flag w 0 10
  let limb := fld w 0 11 2
  if !onlyFields w 0x3FFFF 0x0FFF_FFFF 0x1FFF_FFFF 0x7F || limb == 3 then .illegal 0x01
  else if pk && (fld w 1 0 32 != 0 || fld w 2 0 32 != 0 || fld w 3 0 32 != 0 || fld w 0 13 5 != 0) then .illegal 0x01
  else if !t.arrayOn then .illegal 0x0A
  else
    match (if swap then t.shadow else t.active) with
    | none => .illegal 0x08
    | some op =>
      if pk != !t.pack.isEmpty || !sameLayout op.layout t.pack || (pk && limb != 0) then .illegal 0x09
      else
        let t0 : Tile := if swap then { t with active := some op, shadow := none } else t
        if pk then
          let cycles := targetCount t.pack transp
            * (t.pack.map (fun e => (op.ops.find? (fun o => o.1 == e.1)).elim 1 (fun o => t.rowCycles e.2.xtrec 0 o.2 transp))).foldl Nat.max 1
          let one (t' : Tile) (b : Nat) (c : BandCfg) : Except Nat (Tile × Unit × List Range) :=
            match op.ops.find? (fun e => e.1 == b) with
            | none => .error 0x09
            | some (_, s) =>
              match t'.streamOne c.xtrec 0 s transp c.xrow0 c.xcol0 c.kbase c.rows c.grp c.orow c.ocol cycles cut with
              | .error e => .error e
              | .ok (t'', rs) => if t'.bandStreams c s transp then .ok (t'', (), rs) else .error 0x09
          match foldBands one t.pack t0 with
          | .error e => .illegal e
          | .ok (t', _, rs) => .ok t' rs []
        else
          match op.ops with
          | (_, s) :: _ =>
            match t0.streamOne (fld w 1 0 16) limb s transp (t.regNat w 1 16) (t.regNat w 1 20) (t.regNat w 1 24)
                (fld w 2 0 16 + 1) (fld w 0 13 5) (fld w 2 16 13) (fld w 3 0 7) (t.rowCycles (fld w 1 0 16) limb s transp) cut with
            | .error e => .illegal e
            | .ok (t', rs) => .ok t' rs []
          | [] => .illegal 0x08

/-- Read one entry of the pack table (R230); none where a reserved bit is set. -/
def readBand (basin : Mem) (a : Nat) : Option BandCfg :=
  let w (i : Nat) := basin.word a i
  if w 0 < 2 ^ 17 && w 1 < 2 ^ 20 && w 2 < 2 ^ 20 && w 3 < 2 ^ 16 && w 4 < 2 ^ 20 && w 5 < 2 ^ 20 && w 6 < 2 ^ 21
      && w 7 < 2 ^ 20 && bits (w 9) 6 2 == 0 && w 9 < 2 ^ 13 && (List.range 6).all (fun i => w (10 + i) == 0) then
    some { wtrec := w 0 % 65536, wkaxis := (w 0).testBit 16, wrow0 := w 1, wcol0 := w 2, xtrec := w 3, xrow0 := w 4, xcol0 := w 5,
           rows := w 6 % 65536 + 1, grp := bits (w 6) 16 5, orow := bits (w 7) 0 13, ocol := bits (w 7) 13 7, kbase := w 8,
           kext := bits (w 9) 0 6 + 1, next := bits (w 9) 8 5 + 1 }
  else none

/-- What of R231 depends on whether the pass reads its stationary blocks transposed: the group size, the streamed columns, and the
origins of R228. -/
def bandRead (xw xx : TRec) (c : BandCfg) (cls : Nat) (transposed : Bool) : Option Nat :=
  let e := if transposed then c.next else c.kext
  let w0 := if c.wkaxis != transposed then c.wcol0 else c.wrow0
  if groupSize xw.desc xx.desc transposed != 32 then some 0x09
  else if xx.cols < c.xcol0 + e then some 0x05
  else if !originOk xw.desc (sharesAlongReduction xw.desc transposed) cls w0
    || !originOk xx.desc (sharesAlongReduction xx.desc false) cls c.xcol0 then some 0x06
  else none

/-- The conditions of R38 and R231 that PACKCFG checks for one band: records, classes, block size, wide channels, extents, slices.
What depends on the read of a later pass makes PACKCFG illegal where neither read could run, and else is left to the STREAM
(R118, R123). Answers the class the band runs at. (DEDUCED, log entry 73) -/
def Tile.bandCheck (t : Tile) (c : BandCfg) : Except Nat Nat :=
  match t.trec c.wtrec (some (arrayGrid (!c.wkaxis))), t.trec c.xtrec (some (arrayGrid false)) with
  | some xw, some xx =>
    match t.qrec xw (.input (some (!c.wkaxis))) (arrayGrid (!c.wkaxis) xw.desc),
          t.qrec xx (.input (some false)) (arrayGrid false xx.desc) with
    | some qw, some qx =>
      let cls := xw.desc.fmt.cls
      let (nr, nc) := if c.wkaxis then (c.next, c.kext) else (c.kext, c.next)
      if !packedBlock xw.desc || xx.desc.fmt.cls != cls then .error 0x09
      else if qw.wccnt != 0 || qx.wccnt != 0 then .error 0x09
      else if (cls == 4 && 32 < c.kext) then .error 0x09
      else if xw.rows < c.wrow0 + nr || xw.cols < c.wcol0 + nc || xx.rows < c.xrow0 + c.rows then .error 0x05
      else match bandRead xw xx c cls false, bandRead xw xx c cls true with
        | some e, some _ => .error e
        | _, _ => .ok cls
    | _, _ => .error 0x03
  | _, _ => .error 0x02

/-- The tensor records that PACKCFG reads for a band. -/
def BandCfg.records (c : BandCfg) : List Range :=
  [⟨1, c.wtrec * 128, c.wtrec * 128 + 64⟩, ⟨1, c.xtrec * 128, c.xtrec * 128 + 64⟩]

/-- PACKCFG (R231): reads the table at issue and sets or clears the layout. -/
def tilePACKCFG (t : Tile) (w : Word128) : TRes :=
  let mask := fld w 0 8 16
  let tab := fld w 1 0 17 * 64
  if !onlyFields w 0x00FF_FFFF 0x1FFFF 0 0 then .illegal 0x01
  else if mask = 0 then .ok { t with pack := [] } [] []
  else if basinSize < tab + 1024 then .illegal 0x05
  else
    let idx := (List.range 16).filter mask.testBit
    let cfgs := idx.map (fun b => (b, readBand t.basin (tab + 64 * b)))
    if cfgs.any (fun e => e.2.isNone) then .illegal 0x01
    else
      let l := cfgs.filterMap (fun e => e.2.map (fun c => (e.1, c)))
      let chk := l.map (fun e => t.bandCheck e.2)
      match chk.findSome? (fun r => match r with | .error e => some e | .ok _ => none) with
      | some e => .illegal e
      | none =>
        let classes := chk.map (fun r => match r with | .ok c => c | .error _ => 0)
        if classes.any (fun c => some c != classes.head?) then .illegal 0x09
        else .ok { t with pack := l } (⟨1, tab, tab + 1024⟩ :: l.flatMap (fun e => e.2.records)) []

end Sys2Proof.Machine
end

