-- ==== Sys2Proof/Machine/Crypto.lean ====
section
/-! DEFINITION. The codes that the manual computes over bytes: CRC-64/ECMA-182 (R471, R472), CRC-32C (R415), SHA-384 (R361, R600)
and ECDSA P-384 verification (R376, R600). -/

namespace Sys2Proof.Machine

/-! ### CRC-64/ECMA-182 (R471) -/

def crc64Poly : Nat := 0x42F0_E1EB_A9EA_3693

def crc64Shift : Nat → Nat → Nat
  | 0, c => c
  | n + 1, c => crc64Shift n (if c.testBit 63 then (2 * c % 2 ^ 64) ^^^ crc64Poly else 2 * c % 2 ^ 64)

/-- Continue a CRC over bytes, most significant bit first. -/
def crc64 (c : Nat) (bs : List Byte) : Nat := bs.foldl (fun c b => crc64Shift 8 (c ^^^ (b.toNat * 2 ^ 56))) c

/-- The product of two polynomials modulo x^64 + the CRC polynomial. -/
def mulmod64 (a b : Nat) : Nat :=
  (List.range 64).foldl (fun acc i => crc64Shift 1 acc ^^^ (if b.testBit (63 - i) then a else 0)) 0

/-- x^n modulo the CRC polynomial, by squaring over the bits of n. -/
def xpow64 (n : Nat) : Nat :=
  ((List.range (n.log2 + 1)).foldl (fun (p : Nat × Nat) i =>
    (if n.testBit i then mulmod64 p.1 p.2 else p.1, mulmod64 p.2 p.2)) (1, 2)).1

/-- The CRC of a concatenation from the CRCs of its parts (R472). -/
def crcCombine (c1 c2 n2 : Nat) : Nat := mulmod64 c1 (xpow64 (8 * n2)) ^^^ c2

/-! ### CRC-32C (R415) -/

def crc32cShift : Nat → Nat → Nat
  | 0, c => c
  | n + 1, c => crc32cShift n (if c.testBit 0 then (c / 2) ^^^ 0x82F6_3B78 else c / 2)

/-- CRC-32C of bytes: reflected polynomial 0x1EDC_6F41, initial value and final XOR all ones. -/
def crc32c (bs : List Byte) : Nat := bs.foldl (fun c b => crc32cShift 8 (c ^^^ b.toNat)) 0xFFFF_FFFF ^^^ 0xFFFF_FFFF

/-! ### SHA-384 -/

def rotr64 (x : BitVec 64) (n : Nat) : BitVec 64 := x.rotateRight n

/-- The integer square root by bits. -/
def natRoot2 (v : Nat) : Nat → Nat → Nat
  | 0, r => r
  | b + 1, r => natRoot2 v b (if (r + 2 ^ b) * (r + 2 ^ b) ≤ v then r + 2 ^ b else r)
def natRoot3 (v : Nat) : Nat → Nat → Nat
  | 0, r => r
  | b + 1, r => natRoot3 v b (if (r + 2 ^ b) * (r + 2 ^ b) * (r + 2 ^ b) ≤ v then r + 2 ^ b else r)

/-- The first 80 primes. -/
def primes80 : List Nat :=
  [2, 3, 5, 7, 11, 13, 17, 19, 23, 29, 31, 37, 41, 43, 47, 53, 59, 61, 67, 71]
    ++ [73, 79, 83, 89, 97, 101, 103, 107, 109, 113, 127, 131, 137, 139, 149, 151, 157, 163, 167, 173]
    ++ [179, 181, 191, 193, 197, 199, 211, 223, 227, 229, 233, 239, 241, 251, 257, 263, 269, 271, 277, 281]
    ++ [283, 293, 307, 311, 313, 317, 331, 337, 347, 349, 353, 359, 367, 373, 379, 383, 389, 397, 401, 409]

/-- The 64 fraction bits of the cube roots of the first 80 primes. -/
def sha512K : List (BitVec 64) := primes80.map (fun p => BitVec.ofNat 64 (natRoot3 (p * 2 ^ 192) 68 0))
/-- The 64 fraction bits of the square roots of the ninth to sixteenth primes. -/
def sha384H : List (BitVec 64) := ((primes80.drop 8).take 8).map (fun p => BitVec.ofNat 64 (natRoot2 (p * 2 ^ 128) 70 0))

/-- A message with its padding, as 64-bit big-endian words. -/
def shaPad (bs : List Byte) : List (BitVec 64) :=
  let n := bs.length
  let z := (239 - n % 128) % 128
  let all := bs ++ [0x80#8] ++ List.replicate z 0 ++ (leBytes 16 (8 * n)).reverse
  (List.range (all.length / 8)).map (fun i => BitVec.ofNat 64 (leNat ((all.drop (8 * i)).take 8).reverse))

/-- The message schedule, newest word first. -/
def shaSchedule : Nat → List (BitVec 64) → List (BitVec 64)
  | 0, w => w
  | n + 1, w =>
    let g (i : Nat) := w.getD i 0
    let s0 := rotr64 (g 14) 1 ^^^ rotr64 (g 14) 8 ^^^ (g 14 >>> 7)
    let s1 := rotr64 (g 1) 19 ^^^ rotr64 (g 1) 61 ^^^ (g 1 >>> 6)
    shaSchedule n ((g 15 + s0 + g 6 + s1) :: w)

def shaRound (h : List (BitVec 64)) (kw : BitVec 64 × BitVec 64) : List (BitVec 64) :=
  match h with
  | [a, b, c, d, e, f, g, hh] =>
    let s1 := rotr64 e 14 ^^^ rotr64 e 18 ^^^ rotr64 e 41
    let t1 := hh + s1 + ((e &&& f) ^^^ (~~~e &&& g)) + kw.1 + kw.2
    let s0 := rotr64 a 28 ^^^ rotr64 a 34 ^^^ rotr64 a 39
    let t2 := s0 + ((a &&& b) ^^^ (a &&& c) ^^^ (b &&& c))
    [t1 + t2, a, b, c, d + t1, e, f, g]
  | _ => h

def shaBlocks : Nat → List (BitVec 64) → List (BitVec 64) → List (BitVec 64)
  | 0, _, h => h
  | n + 1, ws, h =>
    let sched := (shaSchedule 64 (ws.take 16).reverse).reverse
    let h' := (sha512K.zip sched).foldl shaRound h
    shaBlocks n (ws.drop 16) (List.zipWith (· + ·) h h')

/-- SHA-384, 48 bytes in the order the standard prints them. -/
def sha384 (bs : List Byte) : List Byte :=
  let ws := shaPad bs
  ((shaBlocks (ws.length / 16) ws sha384H).take 6).flatMap (fun w => (leBytes 8 w.toNat).reverse)

/-! ### ECDSA P-384 (R17) -/

def p384P : Nat := 2 ^ 384 - 2 ^ 128 - 2 ^ 96 + 2 ^ 32 - 1
def p384N : Nat := 0xFFFFFFFFFFFFFFFFFFFFFFFFFFFFFFFFFFFFFFFFFFFFFFFFC7634D81F4372DDF581A0DB248B0A77AECEC196ACCC52973
def p384B : Nat := 0xB3312FA7E23EE7E4988E056BE3F82D19181D9C6EFE8141120314088F5013875AC656398D8A2ED19D2A85C8EDD3EC2AEF
def p384G : Nat × Nat :=
  (0xAA87CA22BE8B05378EB1C71EF320AD746E1D3B628BA79B9859F741E082542A385502F25DBF55296C3A545E3872760AB7,
   0x3617DE4A96262C6F5D9E98BF9292DC29F8F41DBD289A147CE9DA3113B5F0B8C00A60B1CE1D7E819D7A431D7C90EA0E5F)

def powmod (b m : Nat) : Nat → Nat → Nat
  | 0, _ => 1 % m
  | n + 1, e =>
    let h := powmod (b * b % m) m n (e / 2)
    if e % 2 = 1 then b * h % m else h
/-- The inverse modulo a prime. -/
def invmod (a p : Nat) : Nat := powmod (a % p) p 400 (p - 2)

/-- A point of the curve in affine form; none is the point at infinity. -/
abbrev EPoint := Option (Nat × Nat)

def eAdd (a b : EPoint) : EPoint :=
  match a, b with
  | none, q => q
  | q, none => q
  | some (x1, y1), some (x2, y2) =>
    let P := p384P
    if x1 = x2 ∧ (y1 + y2) % P = 0 then none
    else
      let l := if x1 = x2 then (3 * x1 * x1 + (P - 3)) % P * invmod (2 * y1) P % P
        else (y2 + P - y1) % P * invmod (x2 + P - x1) P % P
      let x3 := (l * l + 2 * P - x1 - x2) % P
      some (x3, (l * ((x1 + P - x3) % P) + P - y1) % P)

def eMul : Nat → Nat → EPoint → EPoint
  | 0, _, _ => none
  | n + 1, k, q =>
    let h := eMul n (k / 2) (eAdd q q)
    if k % 2 = 1 then eAdd q h else h

def beNat (bs : List Byte) : Nat := leNat bs.reverse

/-- Verification of a 96-byte signature (r then s) over a message under a 96-byte key (x then y), all big-endian. -/
def ecdsaVerify (key sig msg : List Byte) : Bool :=
  let r := beNat (sig.take 48)
  let s := beNat ((sig.drop 48).take 48)
  let x := beNat (key.take 48)
  let y := beNat ((key.drop 48).take 48)
  let onCurve := decide (x < p384P) && decide (y < p384P)
    && (y * y) % p384P == (x * x * x + (p384P - 3) * x + p384B) % p384P
  if key.length != 96 || sig.length != 96 || !onCurve || r = 0 || s = 0 || p384N ≤ r || p384N ≤ s then false
  else
    let e := beNat (sha384 msg)
    let w := invmod s p384N
    match eAdd (eMul 384 (e * w % p384N) (some p384G)) (eMul 384 (r * w % p384N) (some (x, y))) with
    | none => false
    | some (px, _) => px % p384N == r

end Sys2Proof.Machine
end

