-- ==== Sys2Proof/Machine/Reals.lean ====
section
/-! DEFINITION. Rational enclosures of the real functions the Jet evaluates (R183), and the exact number that stands for an
irrational result in every later encode: no number of 71 significant bits lies between it and the result, so that both round
alike in every format of R39 under every block scale. -/

namespace Sys2Proof.Machine

/-- Rounded to nearest, ties to even, to `p` significant bits. -/
def Frac.near (p : Nat) (x : Frac) : Frac :=
  if x.isZero then ⟨0, 1⟩ else let s := (p : Int) - 1 - x.log2; Frac.dyad (x.scale2 s).roundHalfEven (-s)

/-- An enclosure: the real lies strictly between the ends, or at both when they are equal. -/
structure Ival where
  lo : Frac
  hi : Frac
  deriving DecidableEq, Repr

/-- Round toward minus (plus) infinity to `p` significant bits. -/
def Frac.rdn (p : Nat) (x : Frac) : Frac :=
  if x.isZero then ⟨0, 1⟩ else let s := (p : Int) - x.log2; Frac.dyad (x.scale2 s).floor (-s)
def Frac.rup (p : Nat) (x : Frac) : Frac := (x.neg.rdn p).neg

def Ival.pt (x : Frac) : Ival := ⟨x, x⟩
def Ival.add (p : Nat) (a b : Ival) : Ival := ⟨(a.lo.add b.lo).rdn p, (a.hi.add b.hi).rup p⟩
def Ival.neg (a : Ival) : Ival := ⟨a.hi.neg, a.lo.neg⟩
def Ival.mul (p : Nat) (a b : Ival) : Ival :=
  let c := [a.lo.mul b.lo, a.lo.mul b.hi, a.hi.mul b.lo, a.hi.mul b.hi]
  ⟨((c.tail.foldl Frac.min (c.headD ⟨0, 1⟩))).rdn p, ((c.tail.foldl Frac.max (c.headD ⟨0, 1⟩))).rup p⟩
/-- The reciprocal of an enclosure of a positive real. -/
def Ival.inv (p : Nat) (a : Ival) : Ival :=
  ⟨(Frac.div ⟨1, 1⟩ a.hi).rdn p, (Frac.div ⟨1, 1⟩ a.lo).rup p⟩
def Ival.scale2 (a : Ival) (e : Int) : Ival := ⟨a.lo.scale2 e, a.hi.scale2 e⟩

/-- Integer square root by bits: the largest `r` below `2^n` with `r × r ≤ v`. -/
def isqrtBits (v : Nat) : Nat → Nat → Nat
  | 0, r => r
  | n + 1, r => let r' := r + 2 ^ n; isqrtBits v n (if r' * r' ≤ v then r' else r)

/-- The square root of an enclosure of a positive real. -/
def Ival.sqrt (p : Nat) (a : Ival) : Ival :=
  let root (x : Frac) (up : Nat) : Frac :=
    let e := x.log2 / 2 - (p : Int)                  -- unit of the result
    let v := (x.scale2 (-2 * e)).floor.toNat
    Frac.dyad (isqrtBits v (p + 2) 0 + up : Nat) e
  ⟨root a.lo 0, root a.hi 1⟩

/-- `Σ z^(2i+1)/(2i+1)` (alternating when `alt`) over `n` terms from `i`, fixed point at `2^P`, each term truncated. -/
def atanSeries (alt : Bool) (z2 P : Nat) : Nat → Nat → Nat → Int → Int
  | 0, _, _, acc => acc
  | n + 1, i, pw, acc =>
    let t : Int := (pw / (2 * i + 1) : Nat)
    atanSeries alt z2 P n (i + 1) (pw * z2 / 2 ^ P) (if alt && i % 2 == 1 then acc - t else acc + t)

/-- atanh (or arctan) of a rational in (0, 1/2], to about `P` significant bits. -/
def atanIval (alt : Bool) (P : Nat) (z : Frac) : Ival :=
  let q := (P : Int) + 24 - z.log2                   -- absolute precision that gives P bits of the result
  let Q := q.toNat
  let zf := (z.scale2 Q).floor.toNat
  let n := Q / (2 * (-z.log2).toNat) + 4
  let s := atanSeries alt (zf * zf / 2 ^ Q) Q n 0 zf 0
  ⟨Frac.dyad (s - 8 * (n : Int)) (-q), Frac.dyad (s + 8 * (n : Int)) (-q)⟩

/-- ln 2 = 2 atanh(1/3). -/
def ln2Ival (P : Nat) : Ival := (atanIval false P ⟨1, 3⟩).scale2 1

/-- π by Machin's formula. -/
def piIval (P : Nat) : Ival :=
  Ival.add P ((atanIval true P ⟨1, 5⟩).scale2 4) ((atanIval true P ⟨1, 239⟩).scale2 2).neg

/-- ln(1 + z) of a rational z with |z| ≤ 1/2, relative precision kept for small z. -/
def ln1pIval (P : Nat) (z : Frac) : Ival :=
  if z.isZero then .pt ⟨0, 1⟩
  else
    let w := z.div (z.add ⟨2, 1⟩)
    let a := (atanIval false P w.abs).scale2 1
    if w.isNeg then a.neg else a

/-- ln x of a positive rational. -/
def lnIval (P : Nat) (x : Frac) : Ival :=
  let e0 := x.log2
  let m0 := x.scale2 (-e0)
  let e := if Frac.lt m0 ⟨4, 3⟩ then e0 else e0 + 1
  let m := x.scale2 (-e)                             -- in [2/3, 4/3)
  let l := ln1pIval P (m.sub ⟨1, 1⟩)
  if e = 0 then l else Ival.add P (Ival.mul P (.pt (Frac.ofInt e)) (ln2Ival (P + 16))) l

/-- `Σ r^i/i!` over `n` terms, fixed point at `2^P`, each term truncated. -/
def expSeries (r P : Nat) : Nat → Nat → Nat → Nat → Nat
  | 0, _, _, acc => acc
  | n + 1, i, term, acc => expSeries r P n (i + 1) (term * r / (2 ^ P * (i + 1))) (acc + term)

/-- Magnitudes beyond which a result lies outside every format under every scale: |log2 y| above this is held here. -/
def hugeLog : Nat := 33000

/-- e^x of a rational, from below and above; beyond ±2^hugeLog the enclosure stops there. -/
def expIval (P : Nat) (x : Frac) : Ival :=
  if Frac.lt ⟨22800, 1⟩ x then .pt (Frac.dyad 1 hugeLog)
  else if Frac.lt x ⟨-22800, 1⟩ then .pt (Frac.dyad 1 (-(hugeLog : Int)))
  else
    let l := ln2Ival (P + 32)
    let n := (x.div l.lo).floor
    let r := Ival.add (P + 32) (.pt x) (Ival.mul (P + 32) (.pt (Frac.ofInt (-n))) l)
    let Q := P + 24
    let fix (y : Frac) : Nat := (y.scale2 Q).floor.toNat
    let k := P / 4 + 24
    let lo := expSeries (fix r.lo) Q k 0 (2 ^ Q) 0
    let hi := expSeries (fix r.hi + 1) Q k 0 (2 ^ Q) 0 + 4 * k
    ⟨Frac.dyad lo (n - Q), Frac.dyad hi (n - Q)⟩

/-- e^x of an enclosed real. -/
def expOf (P : Nat) (a : Ival) : Ival := ⟨(expIval P a.lo).lo, (expIval P a.hi).hi⟩

/-- 2^x of a rational. -/
def exp2Ival (P : Nat) (x : Frac) : Ival :=
  if Frac.lt ⟨(hugeLog : Int), 1⟩ x then .pt (Frac.dyad 1 hugeLog)
  else if Frac.lt x ⟨-(hugeLog : Int), 1⟩ then .pt (Frac.dyad 1 (-(hugeLog : Int)))
  else
    let n := x.floor
    let f := x.sub (Frac.ofInt n)
    (expOf P (Ival.mul (P + 8) (.pt f) (ln2Ival (P + 8)))).scale2 n

/-- 1 / (1 + e^-x) of an enclosed real. -/
def sigmoidIval (P : Nat) (a : Ival) : Ival := Ival.inv P (Ival.add P (.pt ⟨1, 1⟩) (expOf P a.neg))

/-- The exact number that stands for a positive irrational real in an enclosure: the middle of the one 71-bit step that holds
the enclosure; none where the enclosure straddles a step. -/
def standIn (a : Ival) : Option Frac :=
  if a.lo.isZero || a.lo.isNeg then none
  else
    let s : Int := 70 - a.lo.log2
    let f := (a.lo.scale2 s).floor
    let c := (a.hi.scale2 s).ceil - 1
    if f = c then some (Frac.dyad (2 * f + 1) (-s - 1)) else none

/-- The stand-in at the first of three working precisions that settles it; the sign of an enclosed negative real is kept. -/
def standInOf (extra : Nat) (f : Nat → Ival) : Option Frac :=
  let one (p : Nat) : Option Frac :=
    let a := f (p + extra)
    if a.hi.isNeg then (standIn a.neg).map Frac.neg else standIn a
  match one 160 with
  | some x => some x
  | none => match one 400 with
    | some x => some x
    | none => one 1600

end Sys2Proof.Machine
end

