-- ==== Sys2Proof/Config.lean ====
section
/-! DEFINITION. What the spec leaves open: constants without a body, so that no proof can see their values. Each is named in
notes/assumptions. A key is the list of numbers the value depends on. -/

namespace Sys2Proof.Config

/-- A free value for a draw of the free counter (State.draws), where the spec leaves a value undefined. (DESIGN CHOICE, log entry 10) -/
opaque free : Nat → Nat

/-- Where, between two adjacent patterns, the faithfully rounded results of a function change from the lower to the upper (R176, R178):
a 64-bit fraction of the gap, by slot, tier, formats and gap. (DESIGN CHOICE, log entry 11) -/
opaque jetCut : List Int → Nat
/-- Whether the Jet raises inexact beside an exactly representable result (R171), by slot, tier and inputs. (DESIGN CHOICE, log entry 11) -/
opaque jetInexact : List Int → Bool
/-- The distance of the working result of a microprogram that the manual does not print from the exact value (R163, R187), by slot, tier
and inputs. (DESIGN CHOICE, log entry 11) -/
opaque jetWork : List Int → Nat
/-- How the 72-bit quantities inside an EXP2 or LOG2 step are rounded (R172). (DESIGN CHOICE, log entry 12) -/
opaque hold : Nat
/-- The reciprocal table of the LOG2 step (R173), by segment. (DESIGN CHOICE, log entry 12) -/
opaque rcp : Nat → Nat
/-- The low bits of the result of an EXP2C or LOG2C step (R180), by step and source. (DESIGN CHOICE, log entry 12) -/
opaque jetStepC : List Int → Nat
/-- The end an enclosure is settled at where 1,600 bits do not settle it. (DESIGN CHOICE, log entry 14) -/
opaque hardCase : List Int → Bool
/-- MAXLOG of a magnitude whose logarithm does not fit its 16 bits (R163). -/
opaque maxLog : Int → Nat
/-- The words of slot `i` of the standard set image, and the constants they name, which the firmware image carries (R183, R190). (DESIGN CHOICE, log entry 15) -/
opaque stdSlot : Nat → List Nat

/-- The device certificate chain (R372), in DER. -/
opaque certChain : List Byte

/-- FLOW of a packet that the device originates (R413), by destination and class. (DESIGN CHOICE, log entry 17) -/
opaque flow : List Nat → Nat

/-- The Kelkuen public keys (R190, R600): X then Y, big-endian, for Jet sets and for firmware. (DESIGN CHOICE, log entry 16) -/
opaque jetKey : List Byte
opaque firmwareKey : List Byte

end Sys2Proof.Config
end

