-- ==== Sys2Proof/Machine/Flags.lean ====
section
/-! DEFINITION. Sticky flags of the five engines, the special-value and quire-overflow records, and the numeric status record
(R98 to R101). -/

namespace Sys2Proof.Machine

/-- The five engines of R98. -/
inductive Eng where
  | req | cvt | jet | rsu | cis
  deriving DecidableEq, Repr

def orFlags (a : BitVec 4) (f : NFlags) : BitVec 4 := a ||| BitVec.ofNat 4 f.bits

/-- Raise flags in one engine (R98). -/
def EngFlags.raise (e : EngFlags) (g : Eng) (f : NFlags) : EngFlags :=
  match g with
  | .req => { e with req := orFlags e.req f }
  | .cvt => { e with cvt := orFlags e.cvt f }
  | .jet => { e with jet := orFlags e.jet f }
  | .rsu => { e with rsu := orFlags e.rsu f }
  | .cis => { e with cis := orFlags e.cis f }

def EngFlags.or (a b : EngFlags) : EngFlags :=
  { req := a.req ||| b.req, cvt := a.cvt ||| b.cvt, jet := a.jet ||| b.jet, rsu := a.rsu ||| b.rsu, cis := a.cis ||| b.cis }
def EngFlags.any (a : EngFlags) : Bool := a != {}

/-- The lexicographic order of (tag, row, column) (R99). -/
def PosRec.before (a b : PosRec) : Bool :=
  decide (a.tag < b.tag) || (a.tag == b.tag && (decide (a.row < b.row) || (a.row == b.row && decide (a.col < b.col))))

/-- The lesser of two records (R99). Of two writes of one (tag, row, column) with different FIRSTK the first written stays: the spec does
not say which. (DESIGN CHOICE, log entry 71) -/
def minPos (a b : Option PosRec) : Option PosRec :=
  match a, b with
  | none, b => b
  | a, none => a
  | some x, some y => if y.before x then some y else some x

def StepRec.raise (s : StepRec) (g : Eng) (f : NFlags) : StepRec := { s with flags := s.flags.raise g f }
def StepRec.noteSv (s : StepRec) (p : PosRec) : StepRec := { s with sv := minPos s.sv (some p) }
def StepRec.noteQo (s : StepRec) (p : PosRec) : StepRec := { s with qo := minPos s.qo (some p) }

/-- The numeric status record's eight words (R100). -/
def NumRec.words (n : NumRec) : List Nat :=
  let sv := n.sv.getD ⟨0, 0, 0, 0xFFFF_FFFF_FFFF⟩
  let qo := n.qo.getD ⟨0, 0, 0, 0⟩
  [n.flags.req.toNat + 16 * n.flags.cvt.toNat + 256 * n.flags.jet.toNat + 4096 * n.flags.rsu.toNat
      + 65536 * n.flags.cis.toNat + n.sv.isSome.toNat * 2 ^ 20 + n.qo.isSome.toNat * 2 ^ 21,
   sv.tag % 65536 + 65536 * (qo.tag % 65536), sv.row, sv.col, sv.k.toNat % 2 ^ 32, sv.k.toNat / 2 ^ 32, qo.row, qo.col]

def NumRec.image (n : NumRec) : List Byte := wordsBytes n.words

/-- A numeric status record from its eight words (R100). -/
def NumRec.ofWords (ws : List Nat) : NumRec :=
  let w (i : Nat) : Nat := ws.getD i 0
  let f (i : Nat) : BitVec 4 := BitVec.ofNat 4 (bits (w 0) (4 * i) 4)
  { flags := { req := f 0, cvt := f 1, jet := f 2, rsu := f 3, cis := f 4 },
    sv := if (w 0).testBit 20 then some ⟨w 1 % 65536, w 2, w 3, BitVec.ofNat 48 (w 4 + w 5 * 2 ^ 32)⟩ else none,
    qo := if (w 0).testBit 21 then some ⟨w 1 / 65536, w 6, w 7, 0⟩ else none }

/-- A committed step's flags and records join the record (R98, R99). -/
def NumRec.absorb (n : NumRec) (s : StepRec) : NumRec :=
  { flags := n.flags.or s.flags, sv := minPos n.sv s.sv, qo := minPos n.qo s.qo }

end Sys2Proof.Machine
end

