-- ==== Sys2Proof/Machine/Output.lean ====
section
/-! DEFINITION. Writing an output tensor: one encode per element, output block scales, escapes, statistics, records and the
digest stream (R65, R66, R98, R99, R155 to R166, R470). Shared by REQUANT, CVT, JET, NEAR and RSTAT. -/

namespace Sys2Proof.Machine

/-- What an output element is encoded from: an exact value, or a quire overflow of a sign (R93). -/
inductive YVal where
  | v (v : Val)
  | ovf (neg : Bool)
  deriving DecidableEq, Repr

/-- One output element in write order: its place, its value, the FIRSTK that goes with it (R99), its zero point (R155) and the
headroom of its channel's entry (R157). -/
structure OutEl where
  r    : Nat
  c    : Nat
  y    : YVal
  k    : BitVec 48 := 0xFFFF_FFFF_FFFF
  ozp  : Int := 0
  head : Option Int := none
  exact : Option Val := none           -- the value whose encode is written, where it is not `y` (R176, R187)
  gap   : Option (List Int) := none    -- a faithfully rounded result: what its choice of a neighbour depends on (R176)
  deriving DecidableEq, Repr

/-- The finite magnitude of a value, where it is finite and not zero. -/
def YVal.mag? : YVal → Option Frac
  | .v (.fin q) => some q.abs
  | _ => none

/-- The escape threshold of R159: |T| of a posit16; none where no element is escaped. -/
def escThreshold (d : Desc) (q : QRec) : Option Frac :=
  if !d.esc || q.escthr = 0 then none
  else match posit16Val q.escthr with
    | .fin x => some x.abs
    | _ => none

/-- Whether R159 has an element escaped. -/
def wantsEscape (thr : Option Frac) (y : YVal) : Bool :=
  match thr, y.mag? with
  | some t, some m => t.lt m
  | _, _ => false

/-- The block an output element belongs to, by its scale's index in the grid (R139, R222). -/
def TRec.blockOf (x : TRec) (r c : Nat) : Nat :=
  let (ro, co) := x.orig r c
  gridIndex (x.origBlockInRow (!x.desc.bdir)) x.desc.bsize x.origCols ro co

/-- Elements a block of the original tensor holds (R140). -/
def TRec.blockFull (x : TRec) (r c : Nat) : Nat :=
  let (ro, co) := x.orig r c
  let b := x.desc.bsize
  if x.origBlockInRow (!x.desc.bdir) then Nat.min b (x.origCols - co / b * b) else Nat.min b (x.origRows - ro / b * b)

/-- The distinct blocks of the elements, in the order of their first elements (R470). -/
def outBlocks (x : TRec) (els : List OutEl) : List (Nat × List OutEl) :=
  els.foldl (fun acc e =>
    let b := x.blockOf e.r e.c
    if acc.any (fun p => p.1 == b) then acc.map (fun p => if p.1 == b then (p.1, p.2 ++ [e]) else p) else acc ++ [(b, [e])]) []

/-- Given scales need a quantisation record with OSMODE = 1 (R156). -/
def QRec.given (q : QRec) : Bool := q.present && q.osmode

/-- The reason for which a set of output elements is illegal (R160, R241, R242): a segment or block cut is 0x06. -/
def outReason (x : TRec) (q : QRec) (els : List OutEl) : Option Nat :=
  if els.any (fun e => x.rows ≤ e.r || x.cols ≤ e.c) then some 0x05
  else if x.desc.esc && els.any (fun e =>
      let (ro, co) := x.orig e.r e.c
      let seg := co / 128
      let want := Nat.min 128 (x.origCols - 128 * seg)
      els.countP (fun f => let (ro', co') := x.orig f.r f.c; ro' == ro && co' / 128 == seg) != want) then some 0x06
  else if x.desc.bsize != 0 && !q.given && (outBlocks x els).any (fun b =>
      match b.2 with
      | e :: _ => b.2.length != x.blockFull e.r e.c
      | [] => false) then some 0x06
  else none

/-- `computed_scale` of R157 for a block's elements. -/
def computedScale (d : Desc) (thr : Option Frac) (els : List OutEl) : Nat :=
  let ms := els.filterMap (fun e => if wantsEscape thr e.y then none else e.y.mag?)
  match ms with
  | [] => 0x7F
  | m :: rest =>
    let mx := rest.foldl Frac.max m
    let h := match els with
      | e :: _ => e.head.getD (defaultHeadroom d)
      | [] => defaultHeadroom d
    let s := mx.log2 - h + 127
    if s < 0 then 0 else if 0xFE < s then 0xFE else s.toNat

/-- Running counts for the statistics record (R163). -/
structure OutStat where
  maxabs   : Nat := 0
  maxlog   : Option Int := none
  sidefull : Bool := false
  clipped  : Nat := 0
  minpos   : Nat := 0
  zeroed   : Nat := 0
  nonfin   : Nat := 0
  escaped  : Nat := 0
  elems    : Nat := 0
  chmax    : List (Nat × Nat) := []
  deriving DecidableEq, Repr

/-- What writing outputs gathers. -/
structure OutAcc where
  t      : Tile
  used   : Nat
  side   : List Byte := []
  dirs   : List (Nat × Nat) := []
  fl     : NFlags := {}
  sfl    : NFlags := {}             -- flags of side-list encodes (R160)
  sv     : Option PosRec := none
  qo     : Option PosRec := none
  st     : OutStat := {}
  pats   : List Nat := []
  nanBlk : List Nat := []
  invBlk : List Nat := []

/-- |y| rounded once to binary32, as a pattern (R163). -/
def b32Mag (m : NMode) (q : Frac) : Nat := (encodeVal (Desc.plain .f32 0) m (.fin q.abs)).pat

/-- The statistics of one value before it is encoded (R163, R164). -/
def OutStat.see (s : OutStat) (m : NMode) (c : Nat) (y : YVal) : OutStat :=
  let s := { s with elems := s.elems + 1 }
  match y with
  | .v (.fin q) =>
    let p := b32Mag m q
    let ch := match s.chmax.find? (fun e => e.1 == c) with
      | some e => s.chmax.map (fun f => if f.1 == c then (c, Nat.max p e.2) else f)
      | none => s.chmax ++ [(c, p)]
    { s with maxabs := Nat.max s.maxabs p, maxlog := some (match s.maxlog with | none => q.log2 | some l => max l q.log2),
             chmax := ch }
  | .v (.zero _) => s
  | _ => { s with nonfin := s.nonfin + 1 }

/-- The statistics of the element as encoded: clipped, minpos or zeroed (R163). -/
def OutStat.encoded (s : OutStat) (d : Desc) (m : NMode) (e : Enc) (ozp : Int) (y : YVal) : OutStat :=
  match y with
  | .v (.fin _) =>
    if e.fl.ov then { s with clipped := s.clipped + 1 }
    else if d.fmt.isPosit && e.fl.un then { s with minpos := s.minpos + 1 }
    else
      let z : Bool :=
        match decodeElem d m.ftz32 e.pat with
        | .zero _ => ozp == 0
        | .fin x => x.eq (Frac.ofInt ozp) && ozp != 0
        | _ => false
      if z && !d.fmt.isPosit then { s with zeroed := s.zeroed + 1 } else s
  | _ => s

/-- The encode of a value under an output block scale and zero point (R155, R156). -/
def encodeOut (d : Desc) (m : NMode) (scale : Nat) (ozp : Int) (y : YVal) : Enc :=
  match y with
  | .ovf neg => encodeQuireOverflow d neg
  | .v v =>
    let v' := v.scale2 (127 - (scale : Int))
    if d.fmt.isInt then
      match v'.frac? with
      | some x => encodeVal d m (Val.ofFrac (x.add (Frac.ofInt ozp)))
      | none => encodeVal d m v'
    else encodeVal d m v'

/-- The pattern next above (below) in value, among finite values; itself at the end of the range. -/
def nextPat (d : Desc) (m : NMode) (up : Bool) (p : Nat) : Nat :=
  let w := if d.fmt == .posit3 then 3 else d.fmt.width
  if d.fmt.isFloat then
    let s := d.fmt.signBit
    let neg := s ≤ p
    let mg := p % s
    let least := if d.fmt == .f32 && !m.ftz32 then 1 else 2 ^ d.fmt.fp.2.1      -- least magnitude written
    if neg == up then (if mg = 0 then p else if mg ≤ least then fpZero d.fmt m neg else p - 1)
    else if mg = 0 then (if up then least else s + least)
    else if mg = fpMaxPat d.fmt then p else p + 1
  else
    let v := signedOf w (p % 2 ^ w)
    let (lo, hi) : Int × Int := if d.fmt.isPosit then (-(2 ^ (w - 1) : Int) + 1, 2 ^ (w - 1) - 1) else intRange d
    let v := if d.fmt.isPosit || d.signed || d.fmt == .tern then v else (p : Int)
    let v' := if up then min (v + 1) hi else max (v - 1) lo
    (v' % (2 ^ w : Int)).toNat

/-- A faithfully rounded encode (R176): of the two patterns around an exact value, the upper one where the value lies at or above a free
point between them, which depends on the patterns and on `key` alone, so that the choice is monotone (R178). A value that a pattern
represents, saturates or flushes has its one encode. (DESIGN CHOICE, log entry 11) -/
def faithful (d : Desc) (m : NMode) (scale : Nat) (ozp : Int) (y : YVal) (key : List Int) (en : Enc) : Enc :=
  if !en.fl.inx || en.fl.ov || en.fl.un || en.special then en
  else
    let num (p : Nat) : Frac := (decodeElem d m.ftz32 p).frac?.getD ⟨0, 1⟩
    match y with
    | .v (.fin q) =>
      let x0 := q.scale2 (127 - (scale : Int))
      let x := if d.fmt.isInt then x0.add (Frac.ofInt ozp) else x0
      let up := (num en.pat).lt x
      let other := nextPat d m up en.pat
      let (lo, hi) := if up then (en.pat, other) else (other, en.pat)
      let k : Nat := Config.jetCut (key ++ [(scale : Int), ozp, (lo : Int), (hi : Int)]) % (2 ^ 64 + 1)
      let cut := (num lo).add (((num hi).sub (num lo)).mul ⟨k, 2 ^ 64⟩)
      { en with pat := if cut.le x then hi else lo }
    | _ => en

/-- The pattern that stands for an escape in an output (R160). -/
def escOut (d : Desc) : Nat := escapePat d.fmt

/-- Write one output element. Choices of the model: a value escaped to a binary32 side list whose encode is an infinity sets no
special-value record, since that record is of output tensors (R66); SIDEUSED above SIDECNT counts as a full side list, as
equality does (R161); in a block with a given scale of 0xFF a quire overflow writes its record but raises no overflow flag,
since nothing is encoded (R94, R156), and the elements written as zero are not counted in ZEROED (R163). (DEDUCED, log entry 69) -/
def writeElem (m : NMode) (x : TRec) (q : QRec) (tag : Nat) (thr : Option Frac) (scales : List (Nat × Nat))
    (a : OutAcc) (e : OutEl) : OutAcc :=
  let d := x.desc
  let blk := if d.bsize = 0 then 0 else x.blockOf e.r e.c
  let scale := ((scales.find? (fun p => p.1 == blk)).map (·.2)).getD 127
  let pos : PosRec := ⟨tag, e.r, e.c, e.k⟩
  let a := { a with st := a.st.see m e.c e.y }
  -- R160: the directory entry at the first element of each segment
  let (ro, co) := x.orig e.r e.c
  let seg := (ro, co / 128)
  let a := if d.esc && !a.dirs.contains seg then
      { a with dirs := seg :: a.dirs,
               t := a.t.wrBasin (q.diraddr + 4 * (ro * ((x.origCols + 127) / 128) + co / 128)) (leBytes 4 a.used) }
    else a
  let put (a : OutAcc) (p : Nat) : OutAcc := { a with t := a.t.setPattern x e.r e.c p, pats := p :: a.pats }
  let isNanY := match e.y with | .v .nan => true | .v .nar => true | _ => false
  if d.bsize != 0 && q.given && scale == 255 then
    -- R156: a given scale of 0xFF
    let a := if a.invBlk.contains blk then a
      else { a with invBlk := blk :: a.invBlk, fl := a.fl.or { inv := true }, sv := minPos a.sv (some pos) }
    let a := match e.y with | .ovf _ => { a with qo := minPos a.qo (some pos) } | _ => a
    put a 0
  else if d.esc && isNanY then
    -- R162
    put { a with fl := a.fl.or { inv := true }, sv := minPos a.sv (some pos), nanBlk := blk :: a.nanBlk } 0
  else
    match e.y with
    | .ovf neg =>
      if d.esc then put { a with fl := a.fl.or { ov := true }, qo := minPos a.qo (some pos), nanBlk := blk :: a.nanBlk } 0
      else
        let en := encodeQuireOverflow d neg
        put { a with fl := a.fl.or en.fl, qo := minPos a.qo (some pos),
                     sv := if en.special then minPos a.sv (some pos) else a.sv,
                     nanBlk := if en.nan then blk :: a.nanBlk else a.nanBlk } en.pat
    | .v v =>
      if wantsEscape thr e.y && a.used < q.sidecnt then
        -- R160
        let en := encodeVal (if q.sidew then Desc.plain .f32 0 else Desc.plain .posit16 2) m v
        let bs := leBytes q.entry en.pat
        put { a with sfl := a.sfl.or en.fl, used := a.used + 1, side := a.side ++ bs,
                     t := a.t.wrAux (q.sideaddr + a.used * q.entry) bs,
                     st := { a.st with escaped := a.st.escaped + 1 } } (escOut d)
      else
        let z : YVal := e.exact.elim e.y .v
        let en0 := encodeOut d m scale e.ozp z
        let en := e.gap.elim en0 (fun k => faithful d m scale e.ozp z k en0)
        let st := a.st.encoded d m en (if d.fmt.isInt then e.ozp else 0) e.y
        put { a with fl := a.fl.or en.fl, sv := if en.special then minPos a.sv (some pos) else a.sv,
                     nanBlk := if en.nan then blk :: a.nanBlk else a.nanBlk,
                     st := { st with sidefull := st.sidefull || wantsEscape thr e.y } } en.pat

/-- Element patterns packed into a stream (R40, R470). -/
def packPats (w : Nat) (ps : List Nat) : List Byte :=
  if 8 ≤ w then ps.flatMap (leBytes (w / 8))
  else
    let v := ps.foldr (fun p acc => acc * 2 ^ w + p % 2 ^ w) 0
    leBytes ((ps.length * w + 7) / 8) v

def satAdd32 (a b : Nat) : Nat := Nat.min (a + b) 0xFFFF_FFFF

/-- Update the statistics record and the per-channel maxima in the Basin (R163, R164). A record whose MAXV is 0 holds no maximum,
so the first one replaces whatever MAXABS and MAXLOG hold. (DEDUCED, log entry 69) -/
def Tile.putStats (t : Tile) (q : QRec) (s : OutStat) : Tile :=
  let a := q.stataddr
  let w (i : Nat) := t.basin.word a i
  let t1 :=
    if !q.staten then t
    else
      let mv := (w 1).testBit 16
      let ml := signedOf 16 (w 1 % 65536)
      let (maxabs, maxlog, mv') : Nat × Int × Bool :=
        match s.maxlog with
        | none => (w 0, ml, mv)
        | some l =>
          let l := if l < -32768 ∨ 32767 < l then signedOf 16 (Config.maxLog l % 65536) else l
          if mv then (Nat.max (w 0) s.maxabs, max ml l, true) else (s.maxabs, l, true)
      t.wrBasin a (wordsBytes
        [maxabs, (maxlog % 65536).toNat + mv'.toNat * 65536 + ((w 1).testBit 17 || s.sidefull).toNat * 131072,
         satAdd32 (w 2) s.clipped, satAdd32 (w 3) s.minpos, satAdd32 (w 4) s.zeroed, satAdd32 (w 5) s.nonfin,
         satAdd32 (w 6) s.escaped, satAdd32 (w 7) s.elems])
  if !q.chstaten then t1
  else s.chmax.foldl (fun t e =>
    let o := q.chstaddr + 4 * e.1
    if t.basin.le o 4 < e.2 then t.wrBasin o (leBytes 4 e.2) else t) t1

/-- The ranges that an output's records take in as inputs: both records, a zero-point array, and a given grid. SIDEUSED, the escape
directory and the statistics are no inputs: the journal holds images of them (R262). `zp`: the record's zero point is read. -/
def outputReads (x : TRec) (q : QRec) (zp : Bool) : List Range :=
  [⟨1, x.addr, x.addr + 64⟩]
  ++ (if !q.present then [] else
    (if x.desc.esc then [⟨1, q.addr, q.addr + 48⟩, ⟨1, q.addr + 52, q.addr + 64⟩] else [⟨1, q.addr, q.addr + 64⟩])
    ++ (if zp && decide (2 ≤ q.zpmode) then
        [⟨1, q.zpaddr, q.zpaddr + (if q.zpmode = 2 then x.origRows else x.origCols)⟩] else []))
  ++ (if q.given && x.desc.bsize != 0 then
    [⟨1, q.scaddr, q.scaddr + gridBytes (x.origBlockInRow (!x.desc.bdir)) x.desc.bsize x.origRows x.origCols⟩] else [])

/-- The ranges an output's bookkeeping writes; a given grid is written only where R65 overrides a scale. -/
def outputRanges (x : TRec) (q : QRec) : List Range :=
  (if x.desc.bsize = 0 || q.given then [] else
    [⟨1, q.scaddr, q.scaddr + gridBytes (x.origBlockInRow (!x.desc.bdir)) x.desc.bsize x.origRows x.origCols⟩])
  ++ (if q.staten then [⟨1, q.stataddr, q.stataddr + 32⟩] else [])
  ++ (if q.chstaten then [⟨1, q.chstaddr, q.chstaddr + 4 * x.cols⟩] else [])
  ++ (if x.desc.esc then
    [⟨1, q.addr + 48, q.addr + 52⟩, ⟨3, q.sideaddr, q.sideaddr + q.sidecnt * q.entry⟩,
     ⟨1, q.diraddr, q.diraddr + 4 * (x.origRows * ((x.origCols + 127) / 128))⟩] else [])

/-- The journal takes the images of regions that an instruction is about to write, at most once in a step (R262). -/
def Tile.imagesOf (t : Tile) (rs : List Range) : Tile :=
  { t with images := rs.foldl (fun l r =>
      if l.any (fun i => i.step == t.stepNo && i.off == r.lo && i.bytes.length == r.hi - r.lo) then l
      else l ++ [⟨t.stepNo, r.lo, t.basin.bytes r.lo (r.hi - r.lo)⟩]) t.images }

/-- The regions of an output that replay restores: the statistics record, per-channel maxima, SIDEUSED, the escape directory (R262). -/
def imageRanges (x : TRec) (q : QRec) : List Range :=
  (if q.staten then [⟨1, q.stataddr, q.stataddr + 32⟩] else [])
  ++ (if q.chstaten then [⟨1, q.chstaddr, q.chstaddr + 4 * x.cols⟩] else [])
  ++ (if x.desc.esc && q.present then
    [⟨1, q.addr + 48, q.addr + 52⟩, ⟨1, q.diraddr, q.diraddr + 4 * (x.origRows * ((x.origCols + 127) / 128))⟩] else [])

/-- Element `p` begins a new output block: no block has elements on both sides of it; 128 elements without block scales (R167). -/
def blockEdge (x : TRec) (els : List OutEl) (p : Nat) : Bool :=
  if x.desc.bsize = 0 then p % 128 == 0
  else
    let after := (els.drop p).map (fun e => x.blockOf e.r e.c)
    !(els.take p).any (fun e => after.contains (x.blockOf e.r e.c))

/-- The output elements written when an instruction stops inside it: up to the last edge of a block at or before element `n`
(R167, R194); all of them where it does not stop. -/
def cutEls (x : TRec) (els : List OutEl) (cut : Option Nat) : List OutEl :=
  cut.elim els (fun n =>
    els.take (((List.range (Nat.min n els.length + 1)).filter (blockEdge x els)).foldl Nat.max 0))

/-- The engine that raises the flags of side-list encodes: the Requantiser for conversions too (R160); the Jet and the Row Statistics
Unit raise their own (R187, R196, R205). (DEDUCED, log entry 69) -/
def sideEngine : Eng → Eng
  | .cvt => .req
  | e => e

/-- The scale codes of the blocks that a set of output elements touches, before any element is written (R156, R157). -/
def Tile.outScales (t : Tile) (x : TRec) (q : QRec) (els : List OutEl) : List (Nat × Nat) :=
  if x.desc.bsize = 0 then [] else
    (outBlocks x els).map (fun b =>
      (b.1, if q.given then (t.basin.byte (q.scaddr + b.1)).toNat else computedScale x.desc (escThreshold x.desc q) b.2))

/-- Write a whole set of output elements in order: patterns, scales, side entries, statistics; flags of an engine, records and
the digest stream join the current step (R260). `extra` is a flag the engine raises beside the encodes' own (R171). Answers the
tile and the bytes of a given grid that R65 has overwritten. -/
def Tile.writeOutputsR (t : Tile) (eng : Eng) (tag : Nat) (x : TRec) (q : QRec) (extra : NFlags) (els : List OutEl) :
    Tile × List Range :=
  let m := t.nmode
  let d := x.desc
  let scales := t.outScales x q els
  let a := els.foldl (writeElem m x q tag (escThreshold d q) scales) { t := t.imagesOf (imageRanges x q), used := q.sideused, fl := extra }
  let final := scales.map (fun s => (s.1, if a.nanBlk.contains s.1 then 255 else s.2))
  -- computed scales go to the grid; a given one changes only where R65 overrides it
  let t1 := final.foldl (fun t s =>
    if q.given && !a.nanBlk.contains s.1 then t else t.wrBasin (q.scaddr + s.1) [BitVec.ofNat 8 s.2]) a.t
  let t2 := if d.esc && q.present then
      t1.wrBasin (q.addr + 48) (leBytes 4 (t1.basin.word q.addr 12 / 2 ^ 17 * 2 ^ 17 + a.used)) else t1
  let t3 := t2.putStats q a.st
  let stream := packPats x.width a.pats.reverse ++ final.map (fun s => BitVec.ofNat 8 s.2) ++ a.side
  (t3.mapStep (fun s =>
    { s with flags := (s.flags.raise eng a.fl).raise (sideEngine eng) a.sfl, sv := minPos s.sv a.sv, qo := minPos s.qo a.qo,
             folds := if tag = 0 then s.folds else s.folds ++ [(tag, stream)] }),
   if q.given then (final.filter (fun s => a.nanBlk.contains s.1)).map (fun s => ⟨1, q.scaddr + s.1, q.scaddr + s.1 + 1⟩) else [])

def Tile.writeOutputs (t : Tile) (eng : Eng) (tag : Nat) (x : TRec) (q : QRec) (extra : NFlags) (els : List OutEl) : Tile :=
  (t.writeOutputsR eng tag x q extra els).1

end Sys2Proof.Machine
end

