-- ==== Sys2Proof/Machine/Cistern.lean ====
section
/-! DEFINITION. Cistern-slot instructions on the tile's own memory: GOPEN, GCLOSE, DRAIN, QEXPORT, and MOVE's MERGE and STATUS
modes (R83 to R86, R96, R97, R232 to R238). -/

namespace Sys2Proof.Machine

/-- Release a CLOSED group, or leave it (R84). What BASE, ROWSM1 and COLSM1 of a FREE entry hold is open: the model returns them to
their reset values. (DESIGN CHOICE, log entry 70) -/
def Tile.release (t : Tile) (h : Nat) : Tile := t.setGroup h Group.empty

/-- Checkpoints that uncommitted steps hold for groups that end: they are none of the group that takes the handle next. -/
def Tile.dropCkpts (t : Tile) (hs : List Nat) : Tile :=
  { t with steps := t.steps.map (fun x => { x with ckpts := x.ckpts.filter (fun c => !hs.contains c.1) }) }

/-- GOPEN (R84, R232). -/
def tileGOPEN (t : Tile) (w : Word128) : TRes :=
  let h := fld w 0 8 5
  let base := fld w 1 0 13
  let rows := fld w 1 13 13 + 1
  let cols := fld w 2 0 7 + 1
  let hi := base + rows * cols
  if !onlyFields w 0x1FFF 0x03FF_FFFF 0x7F 0 then .illegal 0x01
  else if 8192 < hi then .illegal 0x05
  else if (t.group h).isOpen || t.groups.any (fun e => e.2.isOpen && e.2.overlaps base hi) then .illegal 0x07
  else
    let dead := (t.groups.filter (fun e => e.2.st == .closedG && e.2.overlaps base hi)).map (·.1)
    let t1 := dead.foldl Tile.release t
    let t2 : Tile := { t1 with cistern := t1.cistern.filter (fun e => e.1 < base || hi ≤ e.1),
                               badSlots := t1.badSlots.filter (fun s => s < base || hi ≤ s) }
    .ok ((t2.dropCkpts (h :: dead)).setGroup h { base := base, rows := rows, cols := cols, st := .openG, anchored := true, origin := t2.stepNo }) [] []

/-- GCLOSE (R85). -/
def tileGCLOSE (t : Tile) (w : Word128) : TRes :=
  let h := fld w 0 8 5
  if !onlyFields w 0x1FFF 0 0 0 then .illegal 0x01
  else if !(t.group h).isOpen then .illegal 0x07
  else .ok (t.setGroup h { t.group h with st := .closedG }) [] []

/-- DRAIN (R233, R234). -/
def tileDRAIN (t : Tile) (w : Word128) : TRes :=
  let g := t.group (fld w 0 8 5)
  let row0 := t.regNat w 1 16
  let col0 := t.regNat w 1 20
  let k := t.regNat w 1 24
  let nr := fld w 2 0 13 + 1
  let nc := fld w 2 13 7 + 1
  let orow := fld w 3 0 13
  let ocol := fld w 3 13 7
  if !onlyFields w 0x1FFF 0x0FFF_FFFF 0xFFFFF 0xFFFFF then .illegal 0x01
  else
    match t.trec (fld w 1 0 16) plainGrid with
    | none => .illegal 0x02
    | some x =>
      if x.desc.fmt == .int32 then .illegal 0x02
      else match t.qrec x (.input none) (!x.desc.bdir) with
      | none => .illegal 0x03
      | some q =>
        if q.wccnt != 0 then .illegal 0x03
        else if x.rows < row0 + nr || x.cols < col0 + nc || !sideInside t x q then .illegal 0x05
        else if !g.isOpen then .illegal 0x07
        else if g.rows < orow + nr || g.cols < ocol + nc then .illegal 0x05
        else
          let m := t.nmode
          .ok ((rect nr nc).foldl (fun t' ij =>
              t'.addTerm (g.slot (orow + ij.1) (ocol + ij.2)) (t.value m x q (row0 + ij.1) (col0 + ij.2)) k) t)
            (x.slice row0 col0 nr nc :: inputRanges x q (!x.desc.bdir) none
              ++ t.sideReads x q (!x.desc.bdir) none ((rect nr nc).map (fun ij => (row0 + ij.1, col0 + ij.2)))) []

/-- The four words of a row-state entry (R197). -/
def RowState.words (r : RowState) : List Nat :=
  [r.msnap.toNat, r.minblk.toNat, r.lslot.toNat + r.ogrp.toNat * 2 ^ 13 + r.orow.toNat * 2 ^ 18,
   r.mv.toNat + 2 * r.rnan.toNat + 4 * r.rnar.toNat + 8 * r.far.toNat + r.gen.toNat * 2 ^ 16]

/-- A row state from its entry (R197). -/
def RowState.ofWords (ws : List Nat) : RowState :=
  let w (i : Nat) := ws.getD i 0
  { bound := true, msnap := BitVec.ofNat 32 (w 0), minblk := BitVec.ofNat 32 (w 1), lslot := BitVec.ofNat 13 (w 2),
    ogrp := BitVec.ofNat 5 (bits (w 2) 13 5), orow := BitVec.ofNat 13 (bits (w 2) 18 13), mv := (w 3).testBit 0,
    rnan := (w 3).testBit 1, rnar := (w 3).testBit 2, far := (w 3).testBit 3, gen := BitVec.ofNat 16 (bits (w 3) 16 16) }

def RowState.empty : RowState := {}
def Tile.row (t : Tile) (i : Nat) : RowState := SMap.get RowState.empty t.rows i
def Tile.setRow (t : Tile) (i : Nat) (r : RowState) : Tile := { t with rows := SMap.set RowState.empty t.rows i r }

/-- The row states bound to a group, in ascending index (R480). -/
def Tile.boundRows (t : Tile) (h : Nat) (g : Group) : List (Nat × RowState) :=
  t.rows.filter (fun e => e.2.bound &&
    (e.2.ogrp.toNat == h || (decide (g.base ≤ e.2.lslot.toNat) && decide (e.2.lslot.toNat < g.base + g.slots))))

/-- The 16-byte entries of the row states bound to a group, padded to a multiple of 128 bytes (R480). -/
def Tile.boundRowBytes (t : Tile) (h : Nat) (g : Group) : List Byte :=
  let bs := (t.boundRows h g).flatMap (fun e => wordsBytes e.2.words)
  bs ++ List.replicate ((128 - bs.length % 128) % 128) 0

/-- QEXPORT (R96, R235, R236). -/
def tileQEXPORT (t : Tile) (w : Word128) : TRes :=
  let h := fld w 0 8 5
  let g := t.group h
  let std := flag w 0 13
  let ck := flag w 0 14
  let r0 := fld w 1 0 13
  let nr := fld w 1 13 13 + 1
  let c0 := fld w 2 0 7
  let nc := fld w 2 7 7 + 1
  let dst := fld w 3 0 23
  let sz := if std then 64 else 128
  if !onlyFields w 0x7FFF 0x03FF_FFFF 0x3FFF 0x7F_FFFF || (ck && std) then .illegal 0x01
  else if g.isFree then .illegal 0x07
  else if g.rows < r0 + nr || g.cols < c0 + nc then .illegal 0x05
  else if dst % sz != 0 then .illegal 0x06
  else if ck && !(r0 == 0 && c0 == 0 && nr == g.rows && nc == g.cols) then .illegal 0x07
  else
    let qs := (rect nr nc).map (fun ij => t.slot (g.slot (r0 + ij.1) (c0 + ij.2)))
    let imgs := if std then qs.flatMap (fun c => leBytes 64 (c.standard).1) else qs.flatMap Quire.image
    let fl := if std then qs.foldl (fun f c => f.or (c.standard).2) {} else {}
    let bs := imgs ++ (if ck then t.boundRowBytes h g else [])
    if basinSize < dst + bs.length then .illegal 0x05
    else
      let t1 := t.wrBasin dst bs
      .ok (t1.mapStep (fun s => { s with flags := s.flags.raise .cis fl, ckpts := if ck then s.ckpts ++ [(h, dst, bs.length)] else s.ckpts }))
        [] [⟨1, dst, dst + bs.length⟩]

/-! ### MOVE (R237, R238) -/

/-- A device address's parts (R273). -/
def daSpace (a : Nat) : Nat := a / 2 ^ 44 % 16
def daLog (a : Nat) : Bool := a.testBit 43
def daTile (a : Nat) : Nat := bits a 24 8
def daOff (a : Nat) : Nat := a % 2 ^ 24
/-- Bits [42:32] of a tile-space address are reserved (R273). -/
def daReservedOk (a : Nat) : Bool := bits a 32 11 == 0

/-- Source and destination addresses of a MOVE (R238), modulo 2^48 (R219). -/
def moveSrc (t : Tile) (w : Word128) : Nat := (t.areg (fld w 3 0 4) + BitVec.ofInt 48 (sfld w 1 0 32)).toNat
def moveDst (t : Tile) (w : Word128) : Nat := (t.areg (fld w 3 4 4) + BitVec.ofInt 48 (sfld w 2 0 32)).toNat
def moveLen (w : Word128) : Nat := fld w 3 8 24
/-- Defined fields of MOVE. -/
def moveFields (w : Word128) : Bool := onlyFields w 0x7FF 0xFFFF_FFFF 0xFFFF_FFFF 0xFFFF_FFFF

/-- An address of the executing tile's own memory of a space (R274, R275). -/
def Tile.ownAddr (t : Tile) (a space : Nat) : Bool := daSpace a == space && daLog a && daReservedOk a && daTile a == t.ltile

/-- The reason for which a MOVE's merge between permitted addresses may not run, or none: source in the own Basin or Cistern,
destination in the own Cistern within one OPEN group, no overlap (R238). -/
def mergeReason (t : Tile) (src dst len unit : Nat) : Option Nat :=
  let n := len / unit
  let dlen := n * 128
  if !((t.ownAddr src 1 || t.ownAddr src 2) && t.ownAddr dst 2) then some 0x0E
  else if len % unit != 0 || daOff dst % 128 != 0 || (daSpace src == 2 && daOff src % 128 != 0) then some 0x06
  else if daSpace src == 2 && daOff src < daOff dst + dlen && daOff dst < daOff src + len then some 0x0E
  else
    let s0 := daOff dst / 128
    match t.slotGroup? s0 Group.isOpen with
    | none => some 0x0E
    | some h => if (t.group h).base + (t.group h).slots < s0 + n then some 0x0E else none

/-- Bytes of the tile's own Cistern: the slot images. -/
def Tile.cisternByte (t : Tile) (o : Nat) : Byte := ((t.slot (o / 128)).image).getD (o % 128) 0
def Tile.ownBytes (t : Tile) (space off n : Nat) : List Byte :=
  match space with
  | 1 => t.basin.bytes off n
  | 2 => (List.range ((n + 127) / 128)).flatMap (fun i => (t.slot (off / 128 + i)).image) |>.take n
  | _ => t.aux.bytes off n

/-- The Cistern slots that `n` bytes of an offset touch. -/
def slotsOf (off n : Nat) : List Nat := (List.range ((off % 128 + n + 127) / 128)).map (fun i => off / 128 + i)

/-- The range of an own address, for footprints. -/
def ownRange (da len : Nat) : List Range := [⟨daSpace da, daOff da, daOff da + len⟩]

/-- The MERGE modes of MOVE: native images (R89) or standard quires (R97). A source slot of no group with an uncorrectable error is
not read (R102). -/
def tileMERGE (t : Tile) (w : Word128) (std : Bool) : TRes :=
  let src := moveSrc t w
  let dst := moveDst t w
  let len := moveLen w
  let unit := if std then 64 else 128
  if !moveFields w then .illegal 0x01
  else if len = 0 then .ok t [] []
  else
    match mergeReason t src dst len unit with
    | some r => .illegal r
    | none =>
      if daSpace src == 2 && (slotsOf (daOff src) len).any t.badSlots.contains then .fail 0x0011 else
      let bs := t.ownBytes (daSpace src) (daOff src) len
      let s0 := daOff dst / 128
      .ok ((List.range (len / unit)).foldl (fun t' i =>
          let img := (bs.drop (i * unit)).take unit
          let c := t'.slot (s0 + i)
          t'.setSlot (s0 + i) (if std then c.mergeStandard (leNat img) else c.merge (Quire.ofImage img))) t)
        (ownRange src len) []

/-- The STATUS mode of MOVE: the committed record into the tile's own Basin (R238). -/
def tileSTATUS (t : Tile) (w : Word128) : TRes :=
  let dst := moveDst t w
  let len := moveLen w
  if !moveFields w then .illegal 0x01
  else if len = 0 then .ok t [] []
  else if len != 32 || !t.ownAddr dst 1 then .illegal 0x0E
  else .ok (t.wrBasin (daOff dst) t.status.image) [] [⟨1, daOff dst, daOff dst + 32⟩]

end Sys2Proof.Machine
end

