-- ==== Sys2Proof/Machine/Requant.lean ====
section
/-! DEFINITION. REQUANT, CVT, the near-memory operations and TLOAD (R154, R240 to R247). -/

namespace Sys2Proof.Machine

/-- The fields of a Channel Scale Table entry (R151). -/
def cstScale (e : BitVec 64) : Nat := bits e.toNat 0 16
def cstOzp (e : BitVec 64) : Int := signedOf 8 (bits e.toNat 16 8)
def cstHeadroom (e : BitVec 64) : Option Int :=
  let h := bits e.toNat 24 8
  if h = 0x80 then none else some (signedOf 8 h)
def cstBias (e : BitVec 64) : Nat := bits e.toNat 48 16

/-- `requant_value` of R154. -/
def requantValue (c : Quire) (e : BitVec 64) : YVal :=
  let s := posit16Val (cstScale e)
  let b := posit16Val (cstBias e)
  match c.resolve with
  | .nan => .v .nan
  | .nar => .v .nar
  | r =>
    if s == .nar || b == .nar then .v .nar
    else match r with
    | .inf neg => if s.isZero then .v .nan else .v (.inf (neg != s.isNeg))
    | .ovf neg => .ovf (neg != s.isNeg)
    | .val z =>
      let sf := s.frac?.getD ⟨0, 1⟩
      let bf := b.frac?.getD ⟨0, 1⟩
      .v (Val.ofFrac ((z.mul sf).add bf))
    | _ => .v .nan

/-- Use a line of the Channel Scale Table cache: 512 lines of 8 entries, the least recently used replaced (R152). -/
def touchLine (c : List Nat) (entry : Nat) : List Nat :=
  let l := entry / 8
  (l :: c.filter (· != l)).take 512

/-- REQUANT (R241); `cut`: it stops inside (R167). -/
def tileREQUANT (cx : TCtx) (t : Tile) (w : Word128) (cut : Option Nat := none) : TRes :=
  let g := t.group (fld w 0 8 5)
  let rowsAxis := flag w 0 13
  let tag := fld w 0 16 16
  let r0 := fld w 1 0 13
  let nr := fld w 1 13 13 + 1
  let c0 := fld w 2 0 7
  let nc := fld w 2 7 7 + 1
  let base := fld w 2 14 17
  let row0 := t.regNat w 3 16
  let col0 := t.regNat w 3 20
  let nch := if rowsAxis then nr else nc
  if !onlyFields w 0xFFFF_3FFF 0x03FF_FFFF 0x7FFF_FFFF 0x00FF_FFFF then .illegal 0x01
  else if g.isFree then .illegal 0x07
  else
    match t.trec (fld w 3 0 16) plainGrid with
    | none => .illegal 0x02
    | some x =>
      match t.qrec x .requant (!x.desc.bdir) with
      | none => .illegal 0x03
      | some q =>
        let entry (n : Nat) := base + n
        if g.rows < r0 + nr || g.cols < c0 + nc || x.rows < row0 + nr || x.cols < col0 + nc || !sideInside t x q then .illegal 0x05
        else
          let skeleton := (rect nr nc).map (fun ij => ({ r := row0 + ij.1, c := col0 + ij.2, y := .v (.zero false) } : OutEl))
          match outReason x q skeleton with
          | some r => .illegal r
          | none =>
            if 131072 < base + nch then .illegal 0x0F
            else
              let es := (List.range nch).map (fun n => cx.cst (entry n))
              if es.any Option.isNone then .fail 0x0006
              else
                let els := (rect nr nc).map (fun ij =>
                  let n := if rowsAxis then ij.1 else ij.2
                  let e := (es.getD n none).getD 0
                  let qr := t.slot (g.slot (r0 + ij.1) (c0 + ij.2))
                  ({ r := row0 + ij.1, c := col0 + ij.2, y := requantValue qr e, k := qr.firstk, ozp := cstOzp e,
                     head := cstHeadroom e } : OutEl))
                let t1 := t.writeOutputsR .req tag x q {} (cutEls x els cut)
                .ok { t1.1 with cstCache := (List.range nch).foldl (fun l n => touchLine l (entry n)) t1.1.cstCache }
                  (outputReads x q false) (x.slice row0 col0 nr nc :: outputRanges x q ++ t1.2)

/-! ### Element ranges (R242) -/

/-- Row and column of element `e` in a tensor's raster order. -/
def TRec.rc (x : TRec) (e : Nat) : Nat × Nat := (e / x.cols, e % x.cols)

/-- The byte range of `n` elements from `e0` in raster order, as a bounding interval. -/
def TRec.elemRange (x : TRec) (e0 n : Nat) : Range :=
  if n = 0 then ⟨1, 0, 0⟩
  else
    let (r0, c0) := x.rc e0
    let (r1, c1) := x.rc (e0 + n - 1)
    if r0 = r1 then x.slice r0 c0 1 (c1 - c0 + 1) else x.slice r0 0 (r1 - r0 + 1) x.cols

/-- The ranges that reading elements `e0 … e0+n-1` of an input takes. -/
def Tile.inRanges (t : Tile) (x : TRec) (q : QRec) (e0 n : Nat) : List Range :=
  x.elemRange e0 n :: inputRanges x q (!x.desc.bdir) none
    ++ t.sideReads x q (!x.desc.bdir) none ((List.range n).map (fun i => x.rc (e0 + i)))

/-- An input tensor of an element-range instruction: its record and quantisation record, or a reason. -/
def Tile.inTensor (t : Tile) (field : Nat) : Except Nat (TRec × QRec) :=
  match t.trec field plainGrid with
  | none => .error 0x02
  | some x =>
    if x.desc.fmt == .int32 then .error 0x02
    else match t.qrec x (.input none) (!x.desc.bdir) with
    | none => .error 0x03
    | some q => if sideInside t x q then .ok (x, q) else .error 0x05

/-- An output tensor under the CVT rules (R138, R187). -/
def Tile.outTensor (t : Tile) (field : Nat) : Except Nat (TRec × QRec) :=
  match t.trec field plainGrid with
  | none => .error 0x02
  | some x =>
    match t.qrec x .output (!x.desc.bdir) with
    | none => .error 0x03
    | some q => if sideInside t x q then .ok (x, q) else .error 0x05

/-- The output elements of a range, each from its index, with the output's own zero point (R155). -/
def Tile.rangeEls (t : Tile) (x : TRec) (q : QRec) (e0 n : Nat) (f : Nat → Val) : List OutEl :=
  (List.range n).map (fun i =>
    let (r, c) := x.rc (e0 + i)
    { r := r, c := c, y := .v (f (e0 + i)), ozp := t.zeroPoint x q r c })

/-- Write an element range of an output: bounds and cuts checked, then the shared writer. -/
def Tile.writeRange (t : Tile) (eng : Eng) (tag : Nat) (x : TRec) (q : QRec) (e0 n : Nat) (extra : NFlags) (f : Nat → Val)
    (rd : List Range) (cut : Option Nat := none) : TRes :=
  let els := t.rangeEls x q e0 n f
  match outReason x q els with
  | some r => .illegal r
  | none =>
    let a := t.writeOutputsR eng tag x q extra (cutEls x els cut)
    .ok a.1 (rd ++ outputReads x q true) (x.elemRange e0 n :: outputRanges x q ++ a.2)

/-- CVT (R243): one rounding of each element. -/
def tileCVT (t : Tile) (w : Word128) (cut : Option Nat := none) : TRes :=
  let e0 := t.regNat w 2 0
  let n := t.regNat w 2 4
  if !onlyFields w 0xFFFF_00FF 0xFFFF_FFFF 0xFF 0 then .illegal 0x01
  else if n = 0 then .ok t [] []
  else
    match t.inTensor (fld w 1 0 16), t.outTensor (fld w 1 16 16) with
    | .error e, _ => .illegal e
    | _, .error e => .illegal e
    | .ok (xi, qi), .ok (xo, qo) =>
      if xi.elems < e0 + n || xo.elems < e0 + n then .illegal 0x05
      else
        let m := t.nmode
        t.writeRange .cvt (fld w 0 16 16) xo qo e0 n {} (fun e => let (r, c) := xi.rc e; t.value m xi qi r c)
          (t.inRanges xi qi e0 n) cut

/-- The near-memory operations of R246. -/
inductive NearOp where
  | copy | add | sub | mul | max | min | fma | normrow | affcol | neg | abs
  deriving DecidableEq, Repr

/-- Which of a, b, c an operation takes. -/
def NearOp.arity : NearOp → Nat
  | .copy | .neg | .abs => 1
  | .add | .sub | .mul | .max | .min => 2
  | _ => 3

/-- The lesser of two values as R180 compares: −0 below +0, NaN before NaR (R170). -/
def Val.less (a b : Val) : Bool :=
  match a, b with
  | .inf n, .inf m => n && !m
  | .inf n, _ => n
  | _, .inf m => !m
  | .zero n, .zero m => n && !m
  | a, b =>
    match a.frac?, b.frac? with
    | some x, some y => x.lt y
    | _, _ => false

def Val.minmax (wantMax : Bool) (a b : Val) : Val :=
  match a, b with
  | .nan, _ => .nan
  | _, .nan => .nan
  | .nar, _ => .nar
  | _, .nar => .nar
  | a, b => if wantMax then (if a.less b then b else a) else (if b.less a then b else a)

/-- The exact result of an operation (R246). -/
def NearOp.eval (o : NearOp) (a b c : Val) : Val :=
  match o with
  | .copy => a
  | .add => a.plus b
  | .sub => a.plus b.neg
  | .mul => a.product b
  | .max => Val.minmax true a b
  | .min => Val.minmax false a b
  | .fma => (a.product b).plus c
  | .normrow => (a.plus b.neg).product c
  | .affcol => (a.product b).plus c
  | .neg => a.neg
  | .abs => a.abs

/-- A near-memory operation over an element range (R245, R246). -/
def tileNEAR (o : NearOp) (t : Tile) (w : Word128) (cut : Option Nat := none) : TRes :=
  let fa := fld w 1 0 16
  let fb := fld w 1 16 16
  let fc := fld w 2 0 16
  let e0 := t.regNat w 3 0
  let n := t.regNat w 3 4
  let used (i : Nat) := i < o.arity
  if !onlyFields w 0xFFFF_1FFF 0xFFFF_FFFF 0xFFFF_FFFF 0xFF then .illegal 0x01
  else if (fa != 0) != used 0 || (fb != 0) != used 1 || (fc != 0) != used 2 then .illegal 0x01
  else if n = 0 then .ok t [] []
  else
    let opt (i f : Nat) : Except Nat (Option (TRec × QRec)) :=
      if used i then (match t.inTensor f with | .error e => .error e | .ok p => .ok (some p)) else .ok none
    match t.inTensor fa, opt 1 fb, opt 2 fc, t.outTensor (fld w 2 16 16) with
    | .error e, _, _, _ => .illegal e
    | _, .error e, _, _ => .illegal e
    | _, _, .error e, _ => .illegal e
    | _, _, _, .error e => .illegal e
    | .ok (xa, qa), .ok pb, .ok pc, .ok (xo, qo) =>
      let vector := o == .normrow || o == .affcol
      -- the index of a vector operand: the row or the column of element e in a
      let vi (e : Nat) := if o == .normrow then (xa.rc e).1 else (xa.rc e).2
      let need := (List.range n).foldl (fun k i => Nat.max k (vi (e0 + i) + 1)) 0
      let bad (p : Option (TRec × QRec)) : Bool :=
        match p with
        | none => false
        | some (x, _) => if vector then x.rows != 1 || x.cols < need else x.elems < e0 + n
      if xa.elems < e0 + n || xo.elems < e0 + n || bad pb || bad pc then .illegal 0x05
      else
        let m := t.nmode
        let rd (p : Option (TRec × QRec)) (e : Nat) : Val :=
          match p with
          | none => .zero false
          | some (x, q) => if vector then t.value m x q 0 (vi e) else (let (r, c) := x.rc e; t.value m x q r c)
        let rng (p : Option (TRec × QRec)) : List Range :=
          match p with
          | none => []
          | some (x, q) =>
            if vector then
              x.slice 0 0 1 need :: inputRanges x q (!x.desc.bdir) none
                ++ t.sideReads x q (!x.desc.bdir) none ((List.range need).map (fun i => (0, i)))
            else t.inRanges x q e0 n
        t.writeRange .cvt (fld w 0 16 16) xo qo e0 n {} 
          (fun e => o.eval (let (r, c) := xa.rc e; t.value m xa qa r c) (rd pb e) (rd pc e))
          (t.inRanges xa qa e0 n ++ rng pb ++ rng pc) cut

/-- TLOAD (R247): unchanged patterns, rows and columns exchanged. INT32 is reserved as an input (R42). -/
def tileTLOAD (t : Tile) (w : Word128) (cut : Option Nat := none) : TRes :=
  let nr := fld w 3 0 16 + 1
  let nc := fld w 3 16 16 + 1
  let sr := t.regNat w 2 0
  let sc := t.regNat w 2 4
  let dr := t.regNat w 2 8
  let dc := t.regNat w 2 12
  if !onlyFields w 0xFF 0xFFFF_FFFF 0xFFFF 0xFFFF_FFFF then .illegal 0x01
  else
    match t.trec (fld w 1 0 16) none, t.trec (fld w 1 16 16) none with
    | some xs, some xd =>
      if xs.fmtd != xd.fmtd || xs.desc.fmt == .int32 then .illegal 0x02
      else if xs.rows < sr + nr || xs.cols < sc + nc || xd.rows < dr + nc || xd.cols < dc + nr then .illegal 0x05
      else
        .ok ((cut.elim (rect nc nr) (rect nc nr).take).foldl (fun t' ji => t'.setPattern xd (dr + ji.1) (dc + ji.2) (t.pattern xs (sr + ji.2) (sc + ji.1))) t)
          [⟨1, xs.addr, xs.addr + 64⟩, ⟨1, xd.addr, xd.addr + 64⟩, xs.slice sr sc nr nc] [xd.slice dr dc nc nr]
    | _, _ => .illegal 0x02

end Sys2Proof.Machine
end

