-- ==== Sys2Proof/Machine/Jet.lean ====
section
/-! DEFINITION. The Jet: tiers, the standard set's functions, microprograms step by step, and the JET instruction (R168 to R195,
R244). -/

namespace Sys2Proof.Machine

/-! ### Tiers (R174, R175) -/

/-- The three tiers. -/
inductive Tier where
  | a | b | c
  deriving DecidableEq, Repr

def Tier.code : Tier → Int
  | .a => 0 | .b => 1 | .c => 2
/-- Iterations of an EXP2 or LOG2 step (R174). -/
def Tier.iter : Tier → Nat
  | .a => 3 | .b => 5 | .c => 8
/-- Bits of relative accuracy that R174 states of an EXP2 or LOG2 step before its rounding. -/
def Tier.bits : Tier → Nat
  | .a => 36 | .b => 52 | .c => 70

/-- The tier and whether the result is exactly rounded (R175), from the widths of the inputs and of the output. -/
def jetTier (ins : List Nat) (out : Nat) : Tier × Bool :=
  if ins.any (fun w => w == 32) then (.c, false)
  else if out == 32 then (.c, false)
  else if out ≤ 8 then (.a, true)
  else if ins.length == 1 then (.b, true)
  else if ins.all (fun w => w ≤ 8) then (.b, true)
  else (.b, false)

/-- The width that counts for an input: its side list's where it is escaped (R175). -/
def inputWidth (d : Desc) (q : QRec) : Nat := if d.esc then (if q.sidew then 32 else 16) else d.fmt.width

/-! ### The standard set (R183, R184) -/

/-- The functions of the standard set. -/
inductive JFun where
  | exp2 | log2 | exp | log | recip | sqrt | rsqrt | sigmoid | tanh | silu | gelu | softplus
  | gsigmoid | gsilu | ggelu
  deriving DecidableEq, Repr

def JFun.ofSlot : Nat → Option JFun
  | 0 => some .exp2 | 1 => some .log2 | 2 => some .exp | 3 => some .log | 4 => some .recip | 5 => some .sqrt | 6 => some .rsqrt
  | 7 => some .sigmoid | 8 => some .tanh | 9 => some .silu | 10 => some .gelu | 11 => some .softplus
  | 32 => some .gsigmoid | 33 => some .gsilu | 34 => some .ggelu
  | _ => none

/-- The activation a fused form applies to its first input; itself for the others. -/
def JFun.act : JFun → JFun
  | .gsigmoid => .sigmoid
  | .gsilu => .silu
  | .ggelu => .gelu
  | f => f
def JFun.fused : JFun → Bool
  | .gsigmoid | .gsilu | .ggelu => true
  | _ => false

/-- Special values of R184: the result for a zero, an infinity or a negative finite input; none where the function is evaluated. -/
def JFun.special (f : JFun) (x : Val) : Option Val :=
  match f.act, x with
  | .exp2, .zero _ | .exp, .zero _ => some (.fin ⟨1, 1⟩)
  | .exp2, .inf n | .exp, .inf n => some (if n then .zero false else .inf false)
  | .log2, .zero _ | .log, .zero _ => some (.inf true)
  | .log2, .inf n | .log, .inf n => some (if n then .nan else .inf false)
  | .log2, .fin q | .log, .fin q => if q.isNeg then some .nan else none
  | .recip, .zero n => some (.inf n)
  | .recip, .inf n => some (.zero n)
  | .sqrt, .zero n => some (.zero n)
  | .sqrt, .inf n => some (if n then .nan else .inf false)
  | .sqrt, .fin q => if q.isNeg then some .nan else none
  | .rsqrt, .zero n => some (.inf n)
  | .rsqrt, .inf n => some (if n then .nan else .zero false)
  | .rsqrt, .fin q => if q.isNeg then some .nan else none
  | .sigmoid, .zero _ => some (.fin ⟨1, 2⟩)
  | .sigmoid, .inf n => some (if n then .zero false else .fin ⟨1, 1⟩)
  | .tanh, .zero n => some (.zero n)
  | .tanh, .inf n => some (.fin ⟨if n then -1 else 1, 1⟩)
  | .silu, .zero n | .gelu, .zero n => some (.zero n)
  | .silu, .inf n | .gelu, .inf n => some (if n then .zero true else .inf false)
  | .softplus, .inf n => some (if n then .zero false else .inf false)
  | _, _ => none

/-- The exponent `e` of a power of two `2^e`, if the number is one. -/
def Frac.pow2? (q : Frac) : Option Int := if q.eq (Frac.dyad 1 q.log2) then some q.log2 else none

/-- The square root of a rational with a rational root. -/
def Frac.exactSqrt (q : Frac) : Option Frac :=
  let v := q.num.natAbs * q.den
  let r := isqrtBits v (Nat.log2 v / 2 + 2) 0
  if r * r = v then some ⟨r, q.den⟩ else none

/-- Rational results of a function at a finite non-zero input outside the special table; none where the result is irrational. -/
def JFun.exact (f : JFun) (q : Frac) : Option Frac :=
  match f.act with
  | .exp2 => if q.num % (q.den : Int) = 0 then
      let n := q.floor
      some (Frac.dyad 1 (if (hugeLog : Int) < n then hugeLog else if n < -(hugeLog : Int) then -(hugeLog : Int) else n))
    else none
  | .log2 => q.pow2?.map Frac.ofInt
  | .log => if q.eq ⟨1, 1⟩ then some ⟨0, 1⟩ else none
  | .recip => some (Frac.div ⟨1, 1⟩ q)
  | .sqrt => q.exactSqrt
  | .rsqrt => q.exactSqrt.map (Frac.div ⟨1, 1⟩)
  | _ => none

/-- An enclosure of a function's irrational value at working precision `p`. -/
def JFun.ival (f : JFun) (q : Frac) (p : Nat) : Ival :=
  match f.act with
  | .exp2 => exp2Ival p q
  | .log2 => Ival.mul p (lnIval p q) (Ival.inv p (ln2Ival p))
  | .exp => expIval p q
  | .log => lnIval p q
  | .sqrt => Ival.sqrt p (.pt q)
  | .rsqrt => Ival.inv p (Ival.sqrt p (.pt q))
  | .sigmoid => sigmoidIval p (.pt q)
  | .silu => Ival.mul p (.pt q) (sigmoidIval p (.pt q))
  | .tanh =>
    let z := expIval p (q.abs.scale2 1).neg
    let r := Ival.mul p (Ival.add p (.pt ⟨1, 1⟩) z.neg) (Ival.inv p (Ival.add p (.pt ⟨1, 1⟩) z))
    if q.isNeg then r.neg else r
  | .gelu =>
    let s := Ival.sqrt p (Ival.mul p (.pt ⟨2, 1⟩) (Ival.inv p (piIval p)))
    let cube := q.add ((q.mul (q.mul q)).mul ⟨44715, 1000000⟩)
    Ival.mul p (.pt q) (sigmoidIval p (Ival.mul p (s.scale2 1) (.pt cube)))
  | .softplus =>
    -- ln(1 + e^x) = max(x, 0) + ln(1 + e^-|x|)
    let z := expIval p q.abs.neg
    let l (y : Frac) : Ival := (atanIval false p (y.div (y.add ⟨2, 1⟩))).scale2 1
    let r : Ival := ⟨(l z.lo).lo, (l z.hi).hi⟩
    if q.isNeg then r else Ival.add p (.pt q) r
  | _ => .pt q

/-- What a function gives: its value, whether it is irrational (so that some step rounded, R171), and the exact stand-in. -/
structure JRes where
  v   : Val
  irr : Bool
  deriving DecidableEq, Repr

/-- The stand-in of an irrational value, an end of the enclosure where 1,600 bits do not settle it. -/
def settle (key : List Int) (extra : Nat) (f : Nat → Ival) : Frac :=
  match standInOf extra f with
  | some x => x
  | none => let a := f (1600 + extra); if Config.hardCase key then a.hi else a.lo

/-- Working precision added for inputs and results of small magnitude. -/
def extraBits (q : Frac) : Nat := if q.log2 < 0 then 2 * (-q.log2).toNat + 16 else 16

/-- A standard function at exact inputs (R176, R184, R186): NaN before NaR, then the table, then the mathematical value. -/
def JFun.eval (f : JFun) (x u : Val) : JRes :=
  let key : List Int := match x.frac? with | some q => [q.num, q.den] | none => []
  if x == .nan || (f.fused && u == .nan) then ⟨.nan, false⟩
  else if x == .nar || (f.fused && u == .nar) then ⟨.nar, false⟩
  else
    let act : Val × Option (Nat → Ival) :=
      match f.special x with
      | some v => (v, none)
      | none =>
        match x with
        | .zero _ => (.zero false, some (fun p => f.ival ⟨0, 1⟩ p))         -- SOFTPLUS of zero is ln 2
        | .fin q => match f.exact q with
          | some r => (Val.ofFrac r, none)
          | none => (.fin q, some (fun p => f.ival q p))
        | v => (v, none)
    let xf := x.frac?.getD ⟨1, 1⟩
    let ex := if xf.isZero then 16 else extraBits xf
    match act with
    | (v, none) => ⟨if f.fused then v.product u else v, false⟩
    | (_, some g) =>
      if !f.fused then ⟨.fin (settle key ex g), true⟩
      else match u with
      | .fin w =>
        let h (p : Nat) : Ival := Ival.mul p (g p) (.pt w)
        ⟨.fin (settle (key ++ [w.num, w.den]) ex h), true⟩
      | u => ⟨(Val.fin (settle key ex g)).product u, true⟩

/-! ### The working format and microprograms (R169 to R181) -/

/-- A working value (R169): `sig` lies in [2^63, 2^64), and a finite value is `± 2^exp × sig / 2^63`. -/
inductive WVal where
  | zero (neg : Bool)
  | fin (neg : Bool) (exp : Int) (sig : Nat)
  | inf (neg : Bool)
  | nan | nar
  | huge (neg : Bool)
  | tiny (neg : Bool)
  deriving DecidableEq, Repr

def WVal.neg? : WVal → Bool
  | .zero n | .fin n _ _ | .inf n | .huge n | .tiny n => n
  | _ => false
def WVal.setNeg (n : Bool) : WVal → WVal
  | .zero _ => .zero n
  | .fin _ e s => .fin n e s
  | .inf _ => .inf n
  | .huge _ => .huge n
  | .tiny _ => .tiny n
  | v => v

/-- A signed integer times `2^e`, rounded to the working format (R170), with whether it rounded. -/
def wRound (m e : Int) : WVal × Bool :=
  if m = 0 then (.zero false, false)
  else
    let a := m.natAbs
    let t : Int := (Nat.log2 a : Nat)
    let drop := t - 63
    let (s, inx) : Nat × Bool :=
      if drop ≤ 0 then (a * 2 ^ (-drop).toNat, false)
      else
        let r := (Frac.dyad a (-drop)).roundHalfEven.toNat
        (r, r * 2 ^ drop.toNat != a)
    let (s, x) : Nat × Int := if s = 2 ^ 64 then (2 ^ 63, e + t + 1) else (s, e + t)
    let n := decide (m < 0)
    if 2 ^ 31 - 1 < x then (.huge n, true) else if x < -(2 ^ 31) then (.tiny n, true) else (.fin n x s, inx)

/-- An exact value into the working format (R186): never rounds for a value of R39. -/
def WVal.ofVal : Val → WVal
  | .zero n => .zero n
  | .inf n => .inf n
  | .nan => .nan
  | .nar => .nar
  | .fin q =>
    let s : Int := 63 - q.log2
    match wRound ((q.scale2 s).floor) (-s) with
    | (v, _) => v

/-- A working value as the final encode takes it (R171): HUGE above every range, TINY below it. -/
def WVal.toVal : WVal → Val
  | .zero n => .zero n
  | .inf n => .inf n
  | .nan => .nan
  | .nar => .nar
  | .huge n => .fin (Frac.dyad (if n then -1 else 1) hugeLog)
  | .tiny n => .fin (Frac.dyad (if n then -1 else 1) (-(hugeLog : Int)))
  | .fin n e s =>
    if (hugeLog : Int) < e then .fin (Frac.dyad (if n then -1 else 1) hugeLog)
    else if e < -(hugeLog : Int) then .fin (Frac.dyad (if n then -1 else 1) (-(hugeLog : Int)))
    else .fin (Frac.dyad (if n then -(s : Int) else s) (e - 63))

/-- Signed significand of a finite working value. -/
def WVal.sm (n : Bool) (s : Nat) : Int := if n then -(s : Int) else s

/-- The class a step sees: HUGE as an infinity, TINY as a zero (R170). -/
def WVal.seen : WVal → WVal
  | .huge n => .inf n
  | .tiny n => .zero n
  | v => v
def WVal.isHuge : WVal → Bool
  | .huge _ => true
  | _ => false
def WVal.isTiny : WVal → Bool
  | .tiny _ => true
  | _ => false

/-- A result derived from HUGE or TINY keeps that class where it would be an infinity or a zero (R170); a true infinity or zero
among the operands that by itself gives the result stays one. -/
def keepClass (derived trueInf trueZero : Bool) : WVal → WVal
  | .inf n => if derived && !trueInf then .huge n else .inf n
  | .zero n => if derived && !trueZero then .tiny n else .zero n
  | v => v

/-- NaN before NaR among operands (R170). -/
def nanOf (vs : List WVal) : Option WVal :=
  if vs.contains .nan then some .nan else if vs.contains .nar then some .nar else none

/-- The exact sum of two finite numbers `m × 2^e`, the smaller replaced by a sticky unit where it lies far below. -/
def addFar (m1 e1 m2 e2 : Int) : Int × Int :=
  if m1 = 0 then (m2, e2) else if m2 = 0 then (m1, e1)
  else
    let t1 := (Nat.log2 m1.natAbs : Int) + e1
    let t2 := (Nat.log2 m2.natAbs : Int) + e2
    if t1 - t2 > 400 then (m1 * 2 ^ 70 + (if m2 < 0 then -1 else 1), e1 - 70)
    else if t2 - t1 > 400 then (m2 * 2 ^ 70 + (if m1 < 0 then -1 else 1), e2 - 70)
    else
      let e := min e1 e2
      (m1 * 2 ^ (e1 - e).toNat + m2 * 2 ^ (e2 - e).toNat, e)

/-- The product of two working values before rounding: a class, or an exact `m × 2^e`. -/
def wProd (a b : WVal) : WVal ⊕ (Int × Int) :=
  match nanOf [a, b] with
  | some v => .inl v
  | none =>
    let n := a.neg? != b.neg?
    let d := a.isHuge || b.isHuge || a.isTiny || b.isTiny
    match a.seen, b.seen with
    | .fin n1 e1 s1, .fin n2 e2 s2 => .inr (WVal.sm n1 s1 * WVal.sm n2 s2, e1 + e2 - 126)
    | .inf _, .zero _ | .zero _, .inf _ => .inl .nan
    | .inf _, _ | _, .inf _ =>
      .inl (keepClass d (a == .inf false || a == .inf true || b == .inf false || b == .inf true) false (.inf n))
    | _, _ =>
      .inl (keepClass d false (a == .zero false || a == .zero true || b == .zero false || b == .zero true) (.zero n))

/-- Add an exact finite term or a class to a working value, one rounding (R170). A result that is HUGE or TINY, or in which TINY stood for
a zero, raises inexact (R171). -/
def wAddTo (p : WVal ⊕ (Int × Int)) (c : WVal) : WVal × Bool :=
  let far (v : WVal) : WVal × Bool := (v, v.isHuge || v.isTiny)
  match p with
  | .inr (m, e) =>
    match nanOf [c] with
    | some v => (v, false)
    | none =>
      match c.seen with
      | .inf n => far (keepClass c.isHuge (!c.isHuge) false (.inf n))
      | .fin n e2 s2 =>
        let (m', e') := addFar m e (WVal.sm n s2) (e2 - 63)
        wRound m' e'
      | _ => let r := wRound m e; (r.1, r.2 || c.isTiny)
  | .inl a =>
    match nanOf [a, c] with
    | some v => (v, false)
    | none =>
      let d := a.isHuge || c.isHuge || a.isTiny || c.isTiny
      match a.seen, c.seen with
      | .inf n, .inf k => if n = k then far (keepClass d (!(a.isHuge && c.isHuge)) false (.inf n)) else (.nan, false)
      | .inf n, _ => far (keepClass d (!a.isHuge) false (.inf n))
      | _, .inf n => far (keepClass d (!c.isHuge) false (.inf n))
      | .zero n, .zero k => far (keepClass d false (!(a.isTiny || c.isTiny)) (.zero (n && k)))
      | .zero _, .fin n e s => (.fin n e s, a.isTiny)
      | .fin n e s, _ => (.fin n e s, c.isTiny)
      | _, _ => (.nan, false)

/-- A working value as the addend form of `wAddTo`. -/
def WVal.term : WVal → WVal ⊕ (Int × Int)
  | .fin n e s => .inr (WVal.sm n s, e - 63)
  | v => .inl v

def WVal.flip (v : WVal) : WVal := v.setNeg (!v.neg?)

/-- The lesser of two working values; −0 counts as less than +0 (R180). -/
def wLess (a b : WVal) : Bool :=
  let rank : WVal → Int
    | .inf n | .huge n => if n then -2 else 2
    | .fin n _ _ => if n then -1 else 1
    | _ => 0
  let fineInf : WVal → Int
    | .inf n => if n then -1 else 1
    | _ => 0
  let fineZero : WVal → Int
    | .tiny n => if n then -2 else 2
    | .zero n => if n then -1 else 0
    | _ => 0
  if rank a != rank b then decide (rank a < rank b)
  else match a, b with
  | .fin n e s, .fin _ e' s' =>
    let mag := decide (e < e') || (e == e' && decide (s < s'))
    let gt := decide (e' < e) || (e == e' && decide (s' < s))
    if n then gt else mag
  | a, b => decide (fineInf a + fineZero a < fineInf b + fineZero b)

/-- ⌊x⌋ of a working value. -/
def wFloor (v : WVal) : WVal :=
  match v with
  | .fin n e s =>
    if 63 ≤ e then v
    else if e < 0 then (if n then .fin true 0 (2 ^ 63) else .zero false)
    else
      let u := 2 ^ (63 - e).toNat
      let fl := s / u
      let q : Int := if n then -(fl : Int) - (if s % u = 0 then 0 else 1) else fl
      (wRound q 0).1
  | v => v

/-! ### The built-in steps (R172, R173, R180) -/

/-- An internal quantity of a step, held to 72 bits; the direction in which a bit is dropped is one for the whole device and left open
(R172). (DESIGN CHOICE, log entry 12) -/
def hold72 (x : Frac) : Frac :=
  match Config.hold % 4 with
  | 0 => x.rdn 72
  | 1 => x.rup 72
  | 2 => x.near 72
  | _ => if x.isNeg then x.rup 72 else x.rdn 72

/-- A constant of the ROM "to 66 bits": 66 significant bits, rounded to nearest (R172, R173). (DEDUCED, log entry 12) -/
def rom66 (f : Nat → Ival) : Frac :=
  match standInOf 0 f with
  | some x => x.near 66
  | none => (f 1600).lo.near 66

/-- LN2 and LOG2E (R172, R173). -/
def romLn2 : Frac := rom66 ln2Ival
def romLog2e : Frac := rom66 (fun p => Ival.inv p (ln2Ival p))

/-- SEED_EXP: 2^(j/256), of segment `j` (R172). -/
def seedExp (j : Nat) : Frac := if j % 256 = 0 then ⟨2 ^ (j / 256), 1⟩ else rom66 (fun p => exp2Ival p ⟨j, 256⟩)

/-- RCP: a 12-bit approximation of 1/(1 + j/256), in units of 2^-12, one of those for which |u| < 2^-8 throughout segment `j` (R173);
1 in segment 0. (DESIGN CHOICE, log entry 12) -/
def romRcp (j : Nat) : Nat :=
  if j = 0 then 4096
  else
    let lo := 255 * 4096 / (256 + j) + 1
    let hi := 257 * 4096 / (257 + j)
    lo + Config.rcp j % (hi - lo + 1)

/-- SEED_LOG: −log2 RCP, of segment `j` (R173). -/
def seedLog (j : Nat) : Frac :=
  if romRcp j = 4096 then ⟨0, 1⟩
  else rom66 (fun p => (Ival.mul p (lnIval p ⟨romRcp j, 4096⟩) (Ival.inv p (ln2Ival p))).neg)

/-- The Horner iterations for e^t (R172). -/
def hornerExp (t : Frac) : Nat → Frac → Frac
  | 0, p => p
  | i + 1, p => hornerExp t i (hold72 (Frac.add ⟨1, 1⟩ (hold72 ((hold72 (p.mul t)).div ⟨(i : Int) + 1, 1⟩))))

/-- The series for ln(1 + u) (R173). -/
def seriesLog (u : Frac) : Nat → Frac → Frac
  | 0, s => s
  | i + 1, s => seriesLog u i (hold72 (u.mul (hold72 ((hold72 ⟨1, i + 1⟩).sub s))))

/-- A dyadic number rounded to the working format. -/
def wOfDyad (x : Frac) : WVal × Bool := wRound x.num (-(Nat.log2 x.den : Int))

/-- `step_exp2` on an exact dyadic number (R172). A fraction below 2^-200 gives the bits of 2^-200. A result stops at the next segment's
seed, so that it never decreases across a seam (R178). (DEDUCED, log entry 12) -/
def stepExp2 (tier : Tier) (x : Frac) : WVal × Bool :=
  if (Frac.ofInt (2 ^ 31)).le x then (.huge false, true)
  else if x.lt (Frac.ofInt (-(2 ^ 31))) then (.tiny false, true)
  else
    let x := if !x.isZero && decide (x.log2 < -200) then Frac.dyad (if x.isNeg then -1 else 1) (-200) else x
    let n := x.floor
    let f := x.sub (Frac.ofInt n)
    if f.isZero then (.fin false n (2 ^ 63), false)
    else
      let j := (f.scale2 8).floor.toNat
      let t := hold72 ((f.sub ⟨j, 256⟩).mul romLn2)
      let y := (seedExp j).mul (hornerExp t tier.iter ⟨1, 1⟩)
      match wOfDyad (y.min (seedExp (j + 1))) with
      | (.fin _ e s, _) => (.fin false (e + n) s, true)
      | w => w

/-- The sum that segment `j` gives for a significand `m` in [1, 2) (R173). -/
def logSegment (tier : Tier) (j : Nat) (m : Frac) : Frac :=
  let u := (m.mul ⟨romRcp j, 4096⟩).sub ⟨1, 1⟩
  (seedLog j).add (hold72 ((seriesLog u tier.iter ⟨0, 1⟩).mul romLog2e))

/-- `step_log2` on `2^e × m`, `m` in [1, 2) (R173). A result stops at the first of the next segment (R178). (DEDUCED, log entry 12) -/
def stepLog2 (tier : Tier) (e : Int) (m : Frac) : WVal × Bool :=
  if m.eq ⟨1, 1⟩ then (WVal.ofVal (Val.ofFrac (Frac.ofInt e)), false)
  else
    let j := ((m.sub ⟨1, 1⟩).scale2 8).floor.toNat
    let next : Frac := if j = 255 then ⟨1, 1⟩ else logSegment tier (j + 1) ⟨257 + j, 256⟩
    ((wOfDyad ((Frac.ofInt e).add ((logSegment tier j m).min next))).1, true)

/-- EXP2 (R172). TINY is seen as a zero; 2 to it is 1 only nearly (R171). -/
def wExp2 (tier : Tier) (v : WVal) : WVal × Bool :=
  match v with
  | .nan => (.nan, false)
  | .nar => (.nar, false)
  | .zero _ => (.fin false 0 (2 ^ 63), false)
  | .tiny _ => (.fin false 0 (2 ^ 63), true)
  | .inf n => (if n then .zero false else .inf false, false)
  | .huge n => (if n then .tiny false else .huge false, true)
  | .fin n e s =>
    if 32 ≤ e then (if n then .tiny false else .huge false, true)
    else stepExp2 tier (if e < -200 then Frac.dyad (if n then -1 else 1) (-200) else Frac.dyad (WVal.sm n s) (e - 63))

/-- LOG2 (R173). -/
def wLog2 (tier : Tier) (v : WVal) : WVal × Bool :=
  match v with
  | .nan => (.nan, false)
  | .nar => (.nar, false)
  | .zero _ => (.inf true, false)
  | .tiny _ => (.huge true, true)
  | .inf n => (if n then .nan else .inf false, false)
  | .huge n => (if n then .nan else .huge false, true)
  | .fin true _ _ => (.nan, false)
  | .fin false e s => stepLog2 tier e ⟨s, 2 ^ 63⟩

/-- A result with a 32-bit significand near an exact value: the manual prints neither the 64-segment table nor the steps that use it,
so the low 12 bits are open. (DESIGN CHOICE, log entry 12) -/
def nearC (key : List Int) (x : Frac) : Frac :=
  if x.isZero then x
  else
    let s := 31 - x.log2
    let base := (x.abs.scale2 s).roundHalfEven + ((Config.jetStepC key % 8193 : Nat) - 4096 : Int)
    (Frac.dyad (if x.isNeg then -base else base) (-s)).near 32

/-- EXP2C (R180): a 32-bit significand; exact powers of two and the special values as EXP2. -/
def wExp2C (v : WVal) : WVal × Bool :=
  match v with
  | .fin n e s =>
    let x := Frac.dyad (WVal.sm n s) (e - 63)
    if 31 ≤ e then wExp2 .c v
    else if e < -200 then (((wOfDyad (nearC [1, if n then 1 else 0, e, s] ⟨1, 1⟩)).1), true)
    else
      let f := x.sub (Frac.ofInt x.floor)
      if f.isZero then wExp2 .c v
      else
        match wOfDyad (nearC [1, if n then 1 else 0, e, s] (settle [1, f.num, f.den] 8 (fun p => exp2Ival p f))) with
        | (.fin _ e' s', _) => (.fin false (e' + x.floor) s', true)
        | w => w
  | v => wExp2 .c v

/-- LOG2C (R180): a 32-bit significand; exact powers of two and the special values as LOG2. -/
def wLog2C (v : WVal) : WVal × Bool :=
  match v with
  | .fin false e s =>
    if s = 2 ^ 63 then wLog2 .c v
    else
      let g (p : Nat) : Ival :=
        let l := Ival.mul p (lnIval p ⟨s, 2 ^ 63⟩) (Ival.inv p (ln2Ival p))
        if e = 0 then l else Ival.add p (.pt (Frac.ofInt e)) l
      ((wOfDyad (nearC [2, e, s] (settle [2, e, s] 80 g))).1, true)
  | v => wLog2 .c v

/-- Fields of a microinstruction (R179). -/
def uop (u : Word32) : Nat := bits u.toNat 0 6
def uDst (u : Word32) : Nat := bits u.toNat 6 3
def uSa (u : Word32) : Nat := bits u.toNat 9 3
def uSb (u : Word32) : Nat := bits u.toNat 12 3
def uSc (u : Word32) : Nat := bits u.toNat 15 3
def uK (u : Word32) : Nat := bits u.toNat 18 8

/-- A constant of the pool in its 16-byte layout (R169). -/
def wConst (c : Word128) : WVal :=
  let n := c.toNat.testBit 96
  match bits c.toNat 97 3 with
  | 0 => .zero n
  | 1 => .fin n (signedOf 32 (bits c.toNat 64 32)) (bits c.toNat 0 64)
  | 2 => .inf n
  | 3 => .nan
  | 4 => .nar
  | 5 => .huge n
  | _ => .tiny n

/-- One microinstruction (R180) on the eight working registers; the flag says that a result was rounded. -/
def uStep (konst : Nat → Word128) (tier : Tier) (j : List WVal) (u : Word32) : List WVal × Bool :=
  let g (i : Nat) := j.getD i (.zero false)
  let a := g (uSa u)
  let b := g (uSb u)
  let c := g (uSc u)
  let put (r : WVal × Bool) : List WVal × Bool := (j.set (uDst u) r.1, r.2)
  let sel (v w : WVal) : WVal := match nanOf [a, b] with | some x => x | none => if wLess v w then v else w
  match uop u with
  | 0x01 => put (a, false)
  | 0x02 => put (wConst (konst (uK u)), false)
  | 0x03 => put (wAddTo a.term b)
  | 0x04 => put (wAddTo a.term (match b with | .nan => .nan | .nar => .nar | v => v.flip))
  | 0x05 => put (match wProd a b with | .inl v => (v, v.isHuge || v.isTiny) | .inr (m, e) => wRound m e)
  | 0x06 => put (match nanOf [a, b, c] with | some v => (v, false) | none => wAddTo (wProd a b) c)
  | 0x07 => put (match a with
      | .fin n e s => wRound (WVal.sm n s) (e - 63 + signedOf 8 (uK u))
      | v => (v, v.isHuge || v.isTiny))
  | 0x08 => put (a.flip, false)
  | 0x09 => put (a.setNeg false, false)
  | 0x0A => put (sel a b, false)
  | 0x0B => put (match nanOf [a, b] with | some x => x | none => if wLess a b then b else a, false)
  | 0x0C => put (match nanOf [a] with
      | some x => x
      | none => match nanOf [b, c] with | some x => x | none => if a.neg? then b else c, false)
  | 0x0D => put (wFloor a, false)
  | 0x0E => put (wExp2 tier a)
  | 0x0F => put (wLog2 tier a)
  | 0x10 => put (wExp2C a)
  | 0x11 => put (wLog2C a)
  | _ => (j, false)

/-- Run a microprogram (R181): the result and whether any step rounded. -/
def uRun (konst : Nat → Word128) (tier : Tier) : List Word32 → List WVal → Bool → WVal × Bool
  | [], _, r => (.zero false, r)
  | u :: us, j, r =>
    if uop u = 0 then (j.getD (uSa u) (.zero false), r)
    else
      let (j', i) := uStep konst tier j u
      uRun konst tier us j' (r || i)

/-- The rising (0) or falling (1) side of an activation with one minimum, SILU and GELU, at a finite input: where it falls its derivative
`σ(s) (1 + s' x (1 − σ(s)))` is negative. -/
def JFun.falling (f : JFun) (x : Val) : Bool :=
  let fall (q : Frac) (arg lead : Ival) : Bool :=
    (Ival.add 200 (.pt ⟨1, 1⟩) (Ival.mul 200 lead (sigmoidIval 200 arg.neg))).hi.isNeg && q.isNeg
  match f.act, x with
  | .silu, .fin q => fall q (.pt q) (.pt q)
  | .gelu, .fin q =>
    let s := Ival.sqrt 200 (Ival.mul 200 (.pt ⟨8, 1⟩) (Ival.inv 200 (piIval 200)))
    let cube (a : Int) : Ival := .pt (q.add ((q.mul (q.mul q)).mul ⟨a, 1000000⟩))
    fall q (Ival.mul 200 s (cube 44715)) (Ival.mul 200 s (cube 134145))
  | _, _ => false

/-- What a function slot answers for one element: the working result, which statistics, escapes and computed scales see (R187); whether
some step rounded (R171); whether the program made a NaR or NaN of inputs that were none (R186); the exact value, where the pattern
written is its encode or a neighbour of it (R176). -/
structure JetOut where
  y     : Val
  inx   : Bool := false
  made  : Bool := false
  exact : Option Val := none
  deriving DecidableEq, Repr

/-- A working result of a program that the manual does not print: the exact value moved by a free distance of at most 2^8 times the
error of an EXP2 or LOG2 step at the tier. (DESIGN CHOICE, log entry 11) -/
def workNear (key : List Int) (tier : Tier) (v : Val) : Val :=
  match v with
  | .fin q =>
    if q.isZero then v
    else
      let s := 63 - q.log2
      let w : Nat := 2 ^ (71 - tier.bits)
      let base := (q.abs.scale2 s).roundHalfEven + ((Config.jetWork key % (2 * w + 1) : Nat) - (w : Int))
      .fin (Frac.dyad (if q.isNeg then -base else base) (-s))
  | v => v

/-- A function slot at exact inputs (R180, R183, R184, R186). EXP2 and LOG2 of the standard set are one step each (R183), so their
working results are that step's. -/
def jetEval (konst : Nat → Word128) (slot : Nat) (js : JetSlot) (compat : Bool) (tier : Tier) (x u : Val) : JetOut :=
  let prog : Option (List Word32) := if compat then js.compat.getD none else js.prog
  let nanIn := x == .nan || (js.arity == 2 && u == .nan)
  let narIn := x == .nar || (js.arity == 2 && u == .nar)
  match prog with
  | some p =>
    let j := [WVal.ofVal x, if js.arity = 2 then WVal.ofVal u else .zero false] ++ List.replicate 6 (.zero false)
    let (w, r) := uRun konst tier p j false
    if nanIn then { y := .nan, inx := r } else if narIn then { y := .nar, inx := r }
    else { y := w.toVal, inx := r, made := w == .nan || w == .nar }
  | none =>
    match JFun.ofSlot slot with
    | none => { y := .nan }
    | some f =>
      let r := f.eval x u
      let k (v : Val) : List Int := match v with | .fin q => [q.num, q.den] | .zero n => [if n then 1 else 0] | _ => []
      let key := (slot : Int) :: (if compat then 1 else 0) :: tier.code :: k x ++ k u
      let zero : Bool := match r.v with | .zero _ => true | .fin q => q.isZero | _ => false
      if slot < 2 && !compat then
        let w := if slot = 0 then wExp2 tier (WVal.ofVal x) else wLog2 tier (WVal.ofVal x)
        { y := w.1.toVal, inx := w.2, exact := some r.v }
      else
        let inx := r.irr || (!zero && r.v.frac?.isSome && Config.jetInexact key)
        { y := if inx then workNear key tier r.v else r.v, inx := inx, exact := some r.v }

/-- An output element of a JET instruction. At an exactly rounded tier the exact value is encoded; at a faithful one EXP2 and LOG2 write
their step's result, and another function one of two neighbours, by the side of a free point between them, which keeps the output
monotone (R176, R178, R192). (DESIGN CHOICE, log entry 11) -/
def jetEl (fmtKey : List Int) (slot : Nat) (exactly compat : Bool) (x u : Val) (e : OutEl) (r : JetOut) : OutEl :=
  if exactly && !compat then { e with y := .v r.y, exact := r.exact }
  else if slot < 2 && !compat then { e with y := .v r.y }
  else
    let side := match JFun.ofSlot slot with | some f => f.falling x | none => false
    { e with y := .v r.y, exact := r.exact,
             gap := r.exact.map (fun _ => fmtKey ++ [if side then 1 else 0, if u.isNeg then 1 else 0]) }

/-- JET (R244, R185 to R187, R192). -/
def tileJET (cx : TCtx) (t : Tile) (w : Word128) (cut : Option Nat := none) : TRes :=
  let slot := fld w 0 8 8
  let f1 := fld w 1 0 16
  let f2 := fld w 1 16 16
  let fo := fld w 2 0 16
  let e0 := t.regNat w 2 16
  let n := t.regNat w 2 20
  if !onlyFields w 0xFFFF_FFFF 0xFFFF_FFFF 0x00FF_FFFF 0 then .illegal 0x01
  else
    match cx.jet slot with
    | none => .illegal 0x0B
    | some js =>
      if (f2 != 0) != (js.arity == 2) || f1 = 0 || fo = 0 then .illegal 0x0B
      else if n = 0 then .ok t [] []
      else
        let second : Except Nat (Option (TRec × QRec)) :=
          if f2 = 0 then .ok none else (match t.inTensor f2 with | .error e => .error e | .ok p => .ok (some p))
        match t.inTensor f1, second, t.outTensor fo with
        | .error e, _, _ => .illegal e
        | _, .error e, _ => .illegal e
        | _, _, .error e => .illegal e
        | .ok (x1, q1), .ok p2, .ok (xo, qo) =>
          let short : Bool := match p2 with | some (x2, _) => x2.elems < e0 + n | none => false
          if x1.elems < e0 + n || xo.elems < e0 + n || short then .illegal 0x05
          else
            let m := t.nmode
            let ins := inputWidth x1.desc q1 :: (match p2 with | some (x2, q2) => [inputWidth x2.desc q2] | none => [])
            let (tier, exactly) := jetTier ins xo.desc.fmt.width
            let cf (d : Desc) : Bool := (d.fmt == .posit8 || d.fmt == .int8 || d.fmt == .f16) && !d.esc
            let compat := m.compat && js.compat.isSome && cf x1.desc && cf xo.desc
              && (match p2 with | some (x2, _) => cf x2.desc | none => true)
            let ops (e : Nat) : Val × Val :=
              let (r, c) := x1.rc e
              (t.value m x1 q1 r c, match p2 with | some (x2, q2) => (let (r', c') := x2.rc e; t.value m x2 q2 r' c') | none => .zero false)
            let rs := (List.range n).map (fun i =>
              let v := ops (e0 + i)
              (v, jetEval cx.konst slot js compat tier v.1 v.2))
            let els0 := t.rangeEls xo qo e0 n (fun _ => .zero false)
            let key : List Int := [slot, tier.code, if compat then 1 else 0, xo.fmtd, t.mode.toNat]
            let els := (els0.zip rs).map (fun p => jetEl key slot exactly compat p.2.1.1 p.2.1.2 p.1 p.2.2)
            match outReason xo qo els with
            | some r => .illegal r
            | none =>
              let a := t.writeOutputsR .jet (fld w 0 16 16) xo qo { inx := rs.any (fun r => r.2.inx), inv := rs.any (fun r => r.2.made) } (cutEls xo els cut)
              .ok a.1
                (t.inRanges x1 q1 e0 n ++ (match p2 with | some (x2, q2) => t.inRanges x2 q2 e0 n | none => []) ++ outputReads xo qo true)
                (xo.elemRange e0 n :: outputRanges xo qo ++ a.2)

end Sys2Proof.Machine
end

