-- ==== Sys2Proof/Machine/Rsu.lean ====
section
/-! DEFINITION. The Row Statistics Unit: row states, the soft maximum and the exact normalisation statistics (R196 to R212, R248,
R249). -/

namespace Sys2Proof.Machine

def rowStates : Nat := 512

/-- Correct every quire of a row by a right shift (R202); beyond 1,408 bits a shift changes nothing more. -/
def Tile.shiftQuires (t : Tile) (slots : List Nat) (n : Nat) : Tile :=
  slots.foldl (fun t s => t.setSlot s ((t.slot s).shiftRight (Nat.min n 1408))) t

/-- The output slots of a row state, in column order. -/
def Tile.rowOut (t : Tile) (r : RowState) : List Nat :=
  let g := t.group r.ogrp.toNat
  (List.range g.cols).map (g.slot r.orow.toNat)

/-- The conditions of R198 on a named entry. -/
def Tile.rowBound (t : Tile) (i : Nat) : Bool :=
  let r := t.row i
  let g := t.group r.ogrp.toNat
  r.bound && (t.slotGroup? r.lslot.toNat Group.isOpen).isSome && g.isOpen && decide (r.orow.toNat < g.rows)

/-- Reserved fields of word 0 (R248): PRESCALE, MODE and TAG where the operation has none. -/
def rstatWord0 (prescale mode tag : Bool) : Nat :=
  0x7FF + (if prescale then 0x800 else 0) + (if mode then 0x1000 else 0) + (if tag then 0xFFFF_0000 else 0)

/-- SMINIT (R198). -/
def tileSMINIT (t : Tile) (w : Word128) : TRes :=
  let first := fld w 1 0 9
  let count := fld w 1 9 10
  let lslot := fld w 2 0 13
  let orow := fld w 2 13 13
  if !onlyFields w (rstatWord0 false false false) 0x00FF_FFFF 0x03FF_FFFF 0 then .illegal 0x01
  else if count = 0 then .ok t [] []
  else if rowStates < first + count || 8192 < lslot + count || 8192 < orow + count then .illegal 0x0C
  else
    .ok ((List.range count).foldl (fun t i =>
      t.setRow (first + i) { bound := true, lslot := BitVec.ofNat 13 (lslot + i), ogrp := BitVec.ofNat 5 (fld w 1 19 5),
                             orow := BitVec.ofNat 13 (orow + i) }) t) [] []

/-! ### SMTERM -/

/-- A score after R199. -/
inductive Score where
  | fin (u : Frac)
  | out                -- excluded: its term is exactly zero
  | nan | nar
  deriving DecidableEq, Repr

def scoreOf (prescale : Bool) (v : Val) : Score :=
  match v with
  | .nan => .nan
  | .nar => .nar
  | .inf neg => if neg then .out else .nan
  | v =>
    let x := v.frac?.getD ⟨0, 1⟩
    let u := if prescale then (x.mul romLog2e).near 64 else x
    if u.le (Frac.ofInt (-(2 ^ 31))) then .out else if (Frac.ofInt (2 ^ 31)).le u then .nan else .fin u

/-- The least positive posit as an exact value. -/
def minposOf (d : Desc) : Frac := (positDecode 1 d.fmt.positBits d.es).frac?.getD ⟨1, 1⟩

/-- The encode of R201: a posit term below minpos goes to the nearer of 0 and minpos, a tie to 0. -/
def termEncode (d : Desc) (m : NMode) (x : Frac) : Enc :=
  let e := encodeVal d m (.fin x)
  if d.fmt.isPosit && x.lt (minposOf d) then
    { e with pat := if (minposOf d).lt (x.scale2 1) then e.pat else 0, fl := { un := true, inx := true } }
  else e

/-- `exp2` of an exact difference as a term of P (R201): the working result of slot 0's one step on it, at the tier (R172, R188).
(DEDUCED, log entry 13) -/
def termOf (d : Desc) (m : NMode) (tier : Tier) (x : Frac) : Enc :=
  let w := stepExp2 tier x
  let e := match w.1.toVal with | .fin v => termEncode d m v | v => encodeVal d m v
  { e with fl := e.fl.or { inx := w.2 } }

/-- What SMTERM gathers over one row state. -/
structure TermAcc where
  t     : Tile
  pats  : List Nat := []
  scs   : List Byte := []
  fl    : NFlags := {}
  sv    : Option PosRec := none
  deriving DecidableEq, Repr

/-- What one SMTERM writes under: mode, tier, tag, P's records, and whether its scales are given. -/
structure TermCtx where
  m     : NMode
  tier  : Tier
  tag   : Nat
  p     : TRec
  pq    : QRec
  deriving DecidableEq, Repr

/-- The greatest finite score of a block, rounded up (R200). -/
def blockMax (us : List Score) : Option Int :=
  us.foldl (fun a u => match u with
    | .fin x => some (match a with | none => x.ceil | some y => max x.ceil y)
    | _ => a) none

def maxInt? (l : List (Option Int)) : Option Int :=
  l.foldl (fun a m => match a, m with
    | none, m => m
    | a, none => a
    | some x, some y => some (max x y)) none

/-- One element of a block: its pattern, its part in ℓ, its flags (R199 to R201). -/
def termElem (c : TermCtx) (row col i : Nat) (scale : Nat) (ref : Int) (a : TermAcc × Bool) (u : Score) : TermAcc × Bool :=
  let (a, bad) := a
  let d := c.p.desc
  let slot := (a.t.row i).lslot.toNat
  let special (v : Val) (r : RowState) : TermAcc × Bool :=
    let e := encodeVal d c.m v
    ({ a with t := ((a.t.setRow i r).addTerm slot v col).setPattern c.p row col e.pat, pats := e.pat :: a.pats,
              fl := a.fl.or e.fl, sv := minPos a.sv (some ⟨c.tag, row, col, 0xFFFF_FFFF_FFFF⟩) }, true)
  match u with
  | .out => ({ a with t := a.t.setPattern c.p row col 0, pats := 0 :: a.pats }, bad)
  | .nan => special .nan { a.t.row i with rnan := true }
  | .nar => special .nar { a.t.row i with rnar := true }
  | .fin x =>
    let e := termOf d c.m c.tier (x.sub (Frac.ofInt ref))
    let v := (decodeElem d c.m.ftz32 e.pat).scale2 ((scale : Int) - 127)
    ({ a with t := (a.t.addTerm slot v col).setPattern c.p row col e.pat, pats := e.pat :: a.pats, fl := a.fl.or e.fl }, bad)

/-- One block of one row: `us` are its scores, `c0` its first column (R200, R201). -/
def termBlock (c : TermCtx) (row i : Nat) (a : TermAcc) (b : Nat × List Score) : TermAcc :=
  let (c0, us) := b
  let m := blockMax us
  let at_ := c.pq.scaddr + gridIndex (c.p.origBlockInRow true) c.p.desc.bsize c.p.origCols (c.p.orig row c0).1 (c.p.orig row c0).2
  let r := a.t.row i
  let r1 : RowState := match m with
    | none => r
    | some v => { r with minblk := BitVec.ofInt 32 (min r.minblk.toInt v) }
  let t1 := a.t.setRow i r1
  if c.pq.given && (t1.basin.byte at_).toNat = 255 then
    -- R156, R201: a given scale of 0xFF
    let t2 := t1.setRow i { r1 with rnan := true }
    let t3 := us.zipIdx.foldl (fun t p =>
      (t.addTerm r1.lslot.toNat .nan (c0 + p.2)).setPattern c.p row (c0 + p.2) 0) t2
    { a with t := t3, pats := List.replicate us.length 0 ++ a.pats, scs := a.scs ++ [255], fl := a.fl.or { inv := true },
             sv := minPos a.sv (some ⟨c.tag, row, c0, 0xFFFF_FFFF_FFFF⟩) }
  else
    let big := r1.msnap.toInt
    let (scale, ref) : Nat × Int := match m with
      | none => (0x7F, 0)
      | some v => if v - big < -127 then (0, big - 127) else ((127 + (v - big)).toNat, v)
    let (a2, bad) := us.zipIdx.foldl (fun a p => termElem c row (c0 + p.2) i scale ref a p.1) ({ a with t := t1 }, false)
    let s : Byte := if bad then 255 else BitVec.ofNat 8 scale
    { a2 with t := a2.t.wrBasin at_ [s], scs := a2.scs ++ [s] }

/-- `n` scores cut into blocks of `b` from column `c0`. -/
def cutBlocks (b : Nat) : Nat → Nat → List Score → List (Nat × List Score)
  | 0, _, _ => []
  | fuel + 1, c0, us => if us.isEmpty then [] else (c0, us.take b) :: cutBlocks b fuel (c0 + b) (us.drop b)

/-- `smterm_row` of R200; `cut`: it stops after so many of the row's blocks (R211). -/
def termRow (c : TermCtx) (row i c0 : Nat) (us : List Score) (a : TermAcc) (cut : Option Nat := none) : TermAcc :=
  let blocks := cutBlocks c.p.desc.bsize us.length c0 us
  let done := cut.elim blocks blocks.take
  let r := a.t.row i
  if done.isEmpty && !blocks.isEmpty then a else
  match maxInt? (blocks.map (fun b => blockMax b.2)) with
  | none => done.foldl (termBlock c row i) a
  | some m =>
    let big := if r.mv then max r.msnap.toInt m else m
    let t1 := if r.mv && decide (r.msnap.toInt < big) then
        (a.t.shiftQuires (r.lslot.toNat :: a.t.rowOut r) (big - r.msnap.toInt).toNat).setRow i { r with gen := r.gen + 1 }
      else a.t
    let t2 := t1.setRow i { t1.row i with msnap := BitVec.ofInt 32 big, mv := true }
    done.foldl (termBlock c row i) { a with t := t2 }

/-- The original coordinate, along the axis of a record's stored rows, of column `c` of a row of it (R222): where the blocks of R200
lie. A span covers whole blocks of the tensor whose scales they are. -/
def TRec.alongRow (x : TRec) (c : Nat) : Nat :=
  match x.view with
  | 0 => c
  | 1 => x.vcol0 + c
  | _ => x.vrow0 + c
/-- The original tensor's extent along that axis. -/
def TRec.alongExtent (x : TRec) : Nat := if x.view = 2 then x.origRows else x.origCols

/-- SMTERM (R199 to R202, R249). (DEDUCED, log entry 24) -/
def tileSMTERM (t : Tile) (w : Word128) (cut : Option Nat := none) : TRes :=
  let first := fld w 2 0 9
  let count := fld w 2 9 10
  let r0 := t.regNat w 2 19
  let c0 := t.regNat w 2 23
  let n := t.regNat w 2 27
  if !onlyFields w (rstatWord0 true false true) 0xFFFF_FFFF 0x7FFF_FFFF 0 then .illegal 0x01
  else if count = 0 then .ok t [] []
  else if rowStates < first + count then .illegal 0x0C
  else
    match t.inTensor (fld w 1 0 16), t.outTensor (fld w 1 16 16) with
    | .error e, _ => .illegal e
    | _, .error e => .illegal e
    | .ok (xs, qs), .ok (xp, qp) =>
      let d := xp.desc
      let okFmt := d.fmt == .posit3 || d.fmt == .posit4 || d.fmt == .posit8 || d.fmt == .e4m3 || d.fmt == .e5m2
      if !okFmt || d.bsize == 0 || d.bdir || d.esc then .illegal 0x0C
      else if xs.rows < r0 + count || xp.rows < r0 + count || xs.cols < c0 + n || xp.cols < c0 + n then .illegal 0x05
      else if xp.alongRow c0 % d.bsize != 0
          || (xp.alongRow (c0 + n) % d.bsize != 0 && xp.alongRow (c0 + n) != xp.alongExtent) then .illegal 0x0C
      else if (List.range count).any (fun i => !t.rowBound (first + i)) then .illegal 0x0C
      else
        let c : TermCtx := { m := t.nmode, tier := (jetTier [inputWidth xs.desc qs] d.fmt.width).1, tag := fld w 0 16 16,
                             p := xp, pq := qp }
        let scores (i : Nat) := (List.range n).map (fun j => scoreOf (flag w 0 11) (t.value c.m xs qs (r0 + i) (c0 + j)))
        let nb := (n + d.bsize - 1) / d.bsize
        let a := (List.range count).foldl (fun a i =>
          termRow c (r0 + i) (first + i) c0 (scores i) a (cut.map (fun k => k - i * nb))) { t := t }
        let stream := packPats xp.width a.pats.reverse ++ a.scs
        .ok (a.t.mapStep (fun s =>
              { s with flags := s.flags.raise .rsu a.fl, sv := minPos s.sv a.sv,
                       folds := if c.tag = 0 then s.folds else s.folds ++ [(c.tag, stream)] }))
          (xs.slice r0 c0 count n :: inputRanges xs qs (!xs.desc.bdir) none
            ++ t.sideReads xs qs (!xs.desc.bdir) none ((rect count n).map (fun ij => (r0 + ij.1, c0 + ij.2)))
            ++ outputReads xp qp false)
          [xp.slice r0 c0 count n,
           ⟨1, qp.scaddr, qp.scaddr + gridBytes (xp.origBlockInRow true) d.bsize xp.origRows xp.origCols⟩]

/-! ### SMMERGE -/

/-- R204 for one pair of row states. -/
def mergeRow (t : Tile) (src dst : Nat) : Tile :=
  let s := t.row src
  let d := t.row dst
  let d1 : RowState := { d with rnan := d.rnan || s.rnan, rnar := d.rnar || s.rnar }
  if !s.mv then t.setRow dst d1
  else
    let ds := d.lslot.toNat :: t.rowOut d
    let ss := s.lslot.toNat :: t.rowOut s
    let big := if d.mv then max s.msnap.toInt d.msnap.toInt else s.msnap.toInt
    let t1 := if d.mv && decide (d.msnap.toInt < big) then t.shiftQuires ds (big - d.msnap.toInt).toNat else t
    let gen := if d.mv && decide (d.msnap.toInt < big) then d.gen + 1 else d.gen
    let sh := Nat.min (big - s.msnap.toInt).toNat 1408
    let t2 := (ds.zip ss).foldl (fun t p => t.setSlot p.1 ((t.slot p.1).mergeShift (t.slot p.2) sh)) t1
    let mb := if d.mv then min d.minblk.toInt s.minblk.toInt else s.minblk.toInt
    t2.setRow dst { d1 with mv := true, msnap := BitVec.ofInt 32 big, minblk := BitVec.ofInt 32 mb, gen := gen,
                            far := decide (mb < big - 127) }

/-- SMMERGE (R204). -/
def tileSMMERGE (t : Tile) (w : Word128) (cut : Option Nat := none) : TRes :=
  let src := fld w 1 0 9
  let dst := fld w 1 9 9
  let count := fld w 1 18 10
  if !onlyFields w (rstatWord0 false false false) 0x0FFF_FFFF 0 0 then .illegal 0x01
  else if count = 0 then .ok t [] []
  else if rowStates < src + count || rowStates < dst + count || (src < dst + count && dst < src + count) then .illegal 0x0C
  else if (List.range count).any (fun i => !t.rowBound (src + i) || !t.rowBound (dst + i)
      || (t.group (t.row (src + i)).ogrp.toNat).cols != (t.group (t.row (dst + i)).ogrp.toNat).cols) then .illegal 0x0C
  else .ok ((List.range (cut.elim count (Nat.min count))).foldl (fun t i => mergeRow t (src + i) (dst + i)) t) [] []

/-! ### SMNORM -/

/-- The exact window of R203. -/
def RowState.outside (r : RowState) : Bool := r.mv && decide (r.minblk.toInt < r.msnap.toInt - 127)

/-- One output of R205. -/
def normValue (r : RowState) (l o : Quire) : YVal :=
  if r.rnan then .v .nan
  else if r.rnar then .v .nar
  else if !r.mv then .v (.zero false)
  else
    match l.resolve with
    | .val zl =>
      if zl.isZero || zl.isNeg then .v .nan
      else match o.resolve with
        | .val zo => .v (Val.ofFrac (Frac.div zo zl))
        | .nan => .v .nan
        | .nar => .v .nar
        | .inf neg => .v (.inf neg)
        | .ovf neg => .ovf neg
    | _ => .v .nan

/-- The status byte of R205. -/
def RowState.status (r : RowState) : Byte :=
  BitVec.ofNat 8 ((!r.mv).toNat + 2 * r.far.toNat + 4 * r.rnan.toNat + 8 * r.rnar.toNat)

/-- SMNORM (R205, R249). The special-value record of an element takes FIRSTK of the output quire, also where the row state or the sum
quire made the NaN: R99 does not say whose it is. (DESIGN CHOICE, log entry 71) -/
def tileSMNORM (t : Tile) (w : Word128) (cut : Option Nat := none) : TRes :=
  let first := fld w 1 0 9
  let count := fld w 1 9 10
  let r0 := t.regNat w 1 19
  let c0 := t.regNat w 1 23
  let st := fld w 3 0 23
  if !onlyFields w (rstatWord0 false false true) 0x07FF_FFFF 0xFFFF 0x7F_FFFF then .illegal 0x01
  else if count = 0 then .ok t [] []
  else if rowStates < first + count then .illegal 0x0C
  else
    match t.outTensor (fld w 2 0 16) with
    | .error e => .illegal e
    | .ok (x, q) =>
      if (List.range count).any (fun i => !t.rowBound (first + i)) then .illegal 0x0C
      else
        let t1 := (List.range count).foldl (fun t i =>
          t.setRow (first + i) { t.row (first + i) with far := (t.row (first + i)).far || (t.row (first + i)).outside }) t
        let els := (List.range count).flatMap (fun i =>
          let r := t1.row (first + i)
          let l := t1.slot r.lslot.toNat
          (t1.rowOut r).zipIdx.map (fun p =>
            let o := t1.slot p.1
            ({ r := r0 + i, c := c0 + p.2, y := normValue r l o, k := o.firstk,
               ozp := if x.rows ≤ r0 + i || x.cols ≤ c0 + p.2 then 0 else t.zeroPoint x q (r0 + i) (c0 + p.2) } : OutEl)))
        match outReason x q els with
        | some e => .illegal e
        | none =>
          if st != 0 && basinSize < st + count then .illegal 0x05
          else
            let a := t1.writeOutputsR .rsu (fld w 0 16 16) x q {}
              (cutEls x (cut.elim els (fun k => els.filter (fun e => decide (e.r < r0 + k)))) (cut.map (fun _ => els.length)))
            let t2 := a.1
            let t3 := if st = 0 then t2 else
              t2.wrBasin st ((List.range count).map (fun i => (t2.row (first + i)).status))
            let wide := els.foldl (fun m e => Nat.max m (e.c + 1 - c0)) 0
            .ok t3 (outputReads x q true)
              (x.slice r0 c0 count wide :: outputRanges x q ++ a.2 ++ (if st = 0 then [] else [⟨1, st, st + count⟩]))

/-! ### NSTAT and NVAR -/

/-- The three values an element adds to S1, S2 and N (R206). -/
def nstatTerms (v : Val) : Val × Val × Val :=
  let one : Val := .fin ⟨1, 1⟩
  match v with
  | .inf true => (.inf true, .inf false, one)
  | .fin x => (v, .fin (x.mul x), one)
  | v => (v, v, one)

/-- Add an element to the three quires of a row; N counts every element and takes no reduction index of its own. -/
def Tile.nstatAdd (t : Tile) (slot : Nat) (v : Val) (col : Nat) : Tile :=
  let (a, b, c) := nstatTerms v
  ((t.addTerm slot a col).addTerm (slot + 1) b col).addTerm (slot + 2) c col

/-- NSTAT (R206, R249). -/
def tileNSTAT (t : Tile) (w : Word128) (cut : Option Nat := none) : TRes :=
  let g := t.group (fld w 2 0 5)
  let q0 := fld w 2 5 13
  let nr := fld w 2 18 13 + 1
  let r0 := t.regNat w 1 16
  let c0 := t.regNat w 1 20
  let n := t.regNat w 1 24
  if !onlyFields w (rstatWord0 false false false) 0x0FFF_FFFF 0x7FFF_FFFF 0 then .illegal 0x01
  else
    match t.inTensor (fld w 1 0 16) with
    | .error e => .illegal e
    | .ok (x, q) =>
      if x.rows < r0 + nr || x.cols < c0 + n then .illegal 0x05
      else if !g.isOpen then .illegal 0x07
      else if g.cols != 3 then .illegal 0x0C
      else if g.rows < q0 + nr then .illegal 0x05
      else
        let m := t.nmode
        .ok ((rect (cut.elim nr (Nat.min nr)) n).foldl (fun t' ij =>
            t'.nstatAdd (g.slot (q0 + ij.1) 0) (t.value m x q (r0 + ij.1) (c0 + ij.2)) (c0 + ij.2)) t)
          (x.slice r0 c0 nr n :: inputRanges x q (!x.desc.bdir) none
            ++ t.sideReads x q (!x.desc.bdir) none ((rect nr n).map (fun ij => (r0 + ij.1, c0 + ij.2)))) []

/-- The three results of R208 for one row. -/
def nvarRow (s1 s2 n : Quire) (rms : Bool) (eps : Frac) : List YVal :=
  let all (y : YVal) : List YVal := [y, y, y]
  let rsqrt (x : Frac) : YVal := .v (JFun.eval .rsqrt (Val.ofFrac x) (.zero false)).v
  let nv := n.value
  if s1.snan || s2.snan || n.snan || s2.spinf then all (.v .nan)
  else if s1.snar || s2.snar || n.snar then all (.v .nar)
  else if s1.ovx || s2.ovx || n.ovx || s1.x != 0 || s2.x != 0 || n.x != 0
      || nv.isNeg || (Frac.ofInt (2 ^ 64)).le nv || nv.num % (nv.den : Int) != 0 then all (.ovf false)
  else if nv.isZero then [.v (.zero false), .v (.zero false), rsqrt eps]
  else
    let a := s1.value
    let b := s2.value
    let k := Frac.ofInt nv.floor
    let var := if rms then Frac.div b k else Frac.div ((k.mul b).sub (a.mul a)) (k.mul k)
    [.v (Val.ofFrac (Frac.div a k)), .v (Val.ofFrac var), rsqrt (var.add eps)]

/-- The last `k` streams of the current step joined into one, as one instruction's (R470). -/
def StepRec.joinFolds (s : StepRec) (k : Nat) : StepRec :=
  let l := s.folds.reverse
  match l.take k with
  | [] => s
  | (tag, b) :: rest => { s with folds := (l.drop k).reverse ++ [(tag, (rest.reverse.flatMap (·.2)) ++ b)] }

/-- NVAR (R208, R209, R249). The special-value record of an element takes the least FIRSTK of the three quires: R99 does not say
whose it is. (DESIGN CHOICE, log entry 71) -/
def tileNVAR (t : Tile) (w : Word128) (cut : Option Nat := none) : TRes :=
  let g := t.group (fld w 1 0 5)
  let q0 := t.regNat w 1 5
  let n := t.regNat w 1 9
  let tag := fld w 0 16 16
  let fmtd := fld w 2 16 16
  if !onlyFields w (rstatWord0 false true true) 0x1FFF_FFFF 0xFFFF_FFFF 0xFFFF_FFFF then .illegal 0x01
  else
    match Desc.ofNat fmtd with
    | none => .illegal 0x02
    | some d =>
      if d.bsize != 0 || d.esc then .illegal 0x0C
      else
        let eps := posit16Val (fld w 2 0 16)
        if eps == .nar || eps.isNeg then .illegal 0x0C
        else if n = 0 then .ok t [] []
        else if g.isFree then .illegal 0x07
        else if g.cols != 3 then .illegal 0x0C
        else if g.rows < q0 + n then .illegal 0x05
        else
          let bytes := (n * d.fmt.width + 7) / 8
          let vec (v : Nat) : TRec :=
            { addr := 0, base := 128 * v, fmtd := fmtd, desc := d, quse := 0, view := 0, qaddr := 0, rows := 1, cols := n, rstride := bytes,
              vrow0 := 0, vcol0 := 0, vrows := 1, vcols := n }
          let vs := [(0, fld w 3 0 16), (1, fld w 3 16 16), (2, fld w 1 13 16)].filter (fun p => p.2 != 0)
          if vs.any (fun p => basinSize < 128 * p.2 + bytes) then .illegal 0x05
          else
            let e := eps.frac?.getD ⟨0, 1⟩
            let rows := (List.range n).map (fun i =>
              let s := g.slot (q0 + i) 0
              let (a, b, c) := (t.slot s, t.slot (s + 1), t.slot (s + 2))
              (minK a.firstk (minK b.firstk c.firstk), nvarRow a b c (flag w 0 12) e))
            let els (j : Nat) : List OutEl := (cut.elim rows rows.take).zipIdx.map (fun p =>
              { r := 0, c := p.2, y := p.1.2.getD j (.v .nan), k := p.1.1 })
            let t1 := vs.foldl (fun t p => t.writeOutputs .rsu tag (vec p.2) (QRec.absent 0) {} (els p.1)) t
            .ok (if tag = 0 then t1 else t1.mapStep (fun s => s.joinFolds vs.length)) []
              (vs.map (fun p => ⟨1, 128 * p.2, 128 * p.2 + bytes⟩))

end Sys2Proof.Machine
end

