-- ==== Sys2Proof/Machine/DeviceState.lean ====
section
/-! DEFINITION. Plain data of the device outside the tiles: functions and mailboxes, queues, sync objects, slots, partitions,
Sluice channels, Rill links, Cascade, reliability, Weir, telemetry, security, flash, management ports and test access (R23). -/

namespace Sys2Proof.Machine

/-! ### Functions and mailboxes (R337, R338, R533, R541 to R549) -/

/-- A mailbox: MBX_STATE and its two pages. -/
structure Mbx where
  seq     : BitVec 16 := 0
  busy    : Bool := false
  taken   : Bool := false
  done    : Bool := false
  overrun : Bool := false
  ready   : Bool := false
  req     : Mem := []
  resp    : Mem := []
  deriving DecidableEq, Repr

/-- A PCIe function: its registers, its MSI-X state and the configuration bits that act on it. (PRESUMED, log entry 5) -/
structure Func where
  present   : Bool := false             -- a VF exists while VF Enable = 1 and n ≤ NumVFs (R533)
  bound     : Option Nat := none        -- partition
  mbx       : Mbx := {}
  irqStatus : BitVec 3 := 0
  irqEnable : BitVec 3 := 6
  badAccess : Option (BitVec 24 × BitVec 2) := none
  badOld    : BitVec 24 × BitVec 2 := (0, 0)   -- OFFSET and KIND as they stand (kept when VALID is cleared)
  scratch   : BitVec 64 := 0
  ctrSel    : BitVec 32 := 0
  timeHi    : BitVec 32 := 0            -- the latched high half of GLB_TIME (R543)
  vecOpen   : List Nat := []            -- MSI-X vectors whose mask bit is 0, ascending
  pba       : List Nat := []            -- pending bits, ascending
  table     : Mem := []                 -- MSI-X table bytes without the mask bits
  sent      : List Nat := []            -- MSI-X messages sent, newest first
  bme       : Bool := false             -- Bus Master Enable
  mse       : Bool := false             -- Memory Space Enable
  deriving DecidableEq, Repr

/-- A mailbox command taken and not yet committed (R340, R350): the copied request words. -/
structure Taken where
  fn    : Nat
  seq   : BitVec 16
  words : List Nat
  time  : Nat
  lost  : Bool := false                  -- its function has been reset: no response (R377)
  deriving DecidableEq, Repr

/-- A deferred activity accepted and still running (R354). -/
inductive ActKind where
  | link (link action lane : Nat)
  | maint (resource activity : Nat)
  | stage (bank : Bool) (image : List Byte)
  deriving DecidableEq, Repr

structure Act where
  fn     : Option Nat                    -- none: started by the device itself
  opcode : Nat
  seq    : BitVec 16
  kind   : ActKind
  deriving DecidableEq, Repr

/-! ### Queues (R301 to R323) -/

inductive QState where
  | uncreated | active | halted | suspended
  deriving DecidableEq, Repr

def QState.code : QState → Nat
  | .uncreated => 0 | .active => 1 | .halted => 2 | .suspended => 3

/-- A queue: its context (R306), its two indices, the packets fetched ahead, the records that wait for space, and what its
vector has not yet reported (R322, R323). -/
structure Queue where
  st        : QState := .uncreated
  qtype     : Nat := 0
  log2      : Nat := 0
  prio      : Nat := 0
  haltOnErr : Bool := false
  base      : Nat := 0
  cq        : Nat := 0
  dlq       : Nat := 0
  dlv       : Bool := false
  vector    : Nat := 0
  vecv      : Bool := false
  coalcnt   : Nat := 0
  coaltime  : Nat := 0
  pktseq    : BitVec 32 := 0
  hostIdx   : Nat := 0
  devIdx    : Nat := 0
  owner     : Nat := 0
  bells     : List Nat := []                             -- arrival times of the doorbells covering the unfetched entries
  fetched   : List (BitVec 32 × List Nat × Nat) := []    -- PKTSEQ, 16 words, arrival time of the doorbell
  waiting   : List (List Byte) := []                     -- records held for a full ring, oldest first
  unrep     : Nat := 0
  lost      : Nat := 0
  retries   : Nat := 0                                   -- reissues of a failed fetch (R613)
  fetchErr  : Bool := false                              -- a fetch met a bus error and will be reissued
  remErr    : Word16 := 0                                -- status of a remote write that failed and no FENCE has reported
  deriving DecidableEq, Repr

/-- What a dispatched packet is doing. -/
inductive PWork where
  | inbox                       -- handed to firmware, not yet validated
  | reread (tries : Nat)        -- the kernel header's read met a bus error and will be reissued (R315)
  | launch                      -- its launch waits, runs or is saved
  | dma
  | wait (obj : Nat) (target : BitVec 64)
  | remote                      -- a remote signal without its answer
  | fence
  | mark
  | coll
  | save                        -- a CONTEXT_SAVE whose pre-emption has not yet taken effect
  | after (queue : Nat) (seq : BitVec 32)  -- a CONTEXT_SAVE that completes once this packet of the launch has (R318)
  | done                        -- finished, its completion not yet performed
  deriving DecidableEq, Repr

/-- A packet dispatched and not yet complete. -/
structure Packet where
  queue  : Nat
  seq    : BitVec 32
  words  : List Nat
  tdisp  : Nat
  work   : PWork := .inbox
  status : Word16 := 0
  detail : Nat := 0
  reason : Nat := 0
  ltile  : Nat := 0
  instr  : Nat := 0
  deriving DecidableEq, Repr

inductive LPhase where
  | waiting | running | ended | suspended
  deriving DecidableEq, Repr

/-- A launch from its validation to its completion (R268 to R270, R311, R315, R332). -/
structure Launch where
  queue    : Nat
  seq      : BitVec 32
  part     : Nat
  fn       : Nat
  ph       : LPhase := .waiting
  nltile   : Nat
  binaddr  : Nat
  codeoff  : Nat
  ninstr   : Nat
  argdst   : Nat
  arglen   : Nat
  argaddr  : Nat
  dataoff  : Nat
  datalen  : Nat
  datadst  : Nat
  auxdem   : Nat
  nsaddr   : Nat
  mode     : BitVec 32
  slots    : List Nat
  adv      : Nat
  ltimeout : Nat
  usertag  : Nat
  words    : List Nat                 -- the original packet
  status   : Word16 := 0
  reason   : Nat := 0
  ltile    : Nat := 0
  instr    : Nat := 0
  restore  : Option (Nat × BitVec 32) := none   -- the CONTEXT_RESTORE packet that runs it now
  saving   : Option (Nat × BitVec 32) := none   -- the CONTEXT_SAVE packet that pre-empts it
  saveAddr : Nat := 0
  saveBase : Bool := false            -- BASIN of the save
  started  : Bool := false            -- some tile has started
  records  : List (List Byte) := []   -- digest records not yet appended
  collected : Bool := false           -- digest records formed
  retries  : Nat := 0
  readErr  : Bool := false
  deriving DecidableEq, Repr

/-- An armed threshold (R328). -/
structure Arm where
  fn        : Nat
  threshold : BitVec 64
  deriving DecidableEq, Repr

/-- A sequence slot (R330). -/
structure Slot where
  active    : Bool := false
  seqid     : BitVec 64 := 0
  pos       : BitVec 32 := 0
  maxpos    : BitVec 32 := 0
  stateaddr : BitVec 48 := 0
  ssync     : BitVec 15 := 0
  ssyncv    : Bool := false
  launches  : BitVec 32 := 0
  user      : List (BitVec 32) := [0, 0, 0, 0, 0, 0, 0]
  deriving DecidableEq, Repr

/-! ### Partitions and translation (R32, R276, R277, R357, R568) -/

/-- A mapped page of space 0: 2 MiB or 64 KiB, at a place of HBM or of host memory. -/
structure Page where
  big  : Bool
  wr   : Bool
  host : Bool
  addr : Nat
  fn   : Nat                           -- the function whose MAP created it (R534)
  deriving DecidableEq, Repr

/-- A latency histogram (R568, R569). -/
structure Hist where
  source : BitVec 16 := 0
  shift  : Nat := 0
  count  : Nat := 0
  sum    : Nat := 0
  min    : Nat := 2 ^ 64 - 1
  max    : Nat := 0
  bins   : SMap Nat := []
  deriving DecidableEq, Repr

/-- A partition: its granules (R357), its binding of logical tiles and its spares (R30), its pages by 64 KiB index (a 2 MiB page at the first of its 32), its
histograms. `lost`: it has no tile left to rebind a lost array to and is reported failed. -/
structure Part where
  held    : Bool := false
  tblk    : BitVec 16 := 0
  spare   : BitVec 16 := 0
  sluice  : BitVec 32 := 0
  dbpage  : BitVec 32 := 0
  syncgrp : BitVec 32 := 0
  slotgrp : BitVec 16 := 0
  commgrp : BitVec 16 := 0
  cst     : List (BitVec 16) := [0, 0, 0, 0]
  hbm     : BitVec 192 := 0
  bind    : List Nat := []
  spares  : List Nat := []
  pages   : SMap (Option Page) := []
  hists   : SMap Hist := []
  lost    : Bool := false
  deriving DecidableEq, Repr

/-! ### Sluice (R379 to R396) -/

inductive CState where
  | idle | active | waiting
  deriving DecidableEq, Repr

/-- The packet a channel serves. -/
structure ChanPkt where
  queue  : Nat
  seq    : BitVec 32
  desc   : Nat
  count  : Nat
  idx    : Nat
  pclass : Nat
  part   : Nat
  fn     : Nat
  deriving DecidableEq, Repr

/-- A descriptor in progress (R392): its words, the bytes already read and written, the retries used, and the state of a failed access. -/
structure DescRun where
  words    : List Nat
  checked  : Bool := false             -- validated; its beats may issue
  rpos     : Nat := 0                  -- bytes read into the staging buffer, or beyond it
  pos      : Nat := 0                  -- bytes that have left as writes
  retries  : Nat := 0
  tries    : Nat := 0                  -- of them, for the access in progress
  errAddr  : Option Nat := none        -- a bus error waits for its reissue at this device address
  finished : Bool := false             -- every write beat has left, or a CONFIG has taken effect
  halt     : Option (Word16 × Nat) := none   -- halting status and FAULTADDR
  tdone    : Nat := 0                  -- time of completion or halt
  unread   : Bool := false             -- the descriptor itself could not be read
  deriving DecidableEq, Repr

/-- A channel (R379). -/
structure Chan where
  st       : CState := .idle
  ring     : Nat := 0
  head     : Nat := 0
  log2     : Nat := 4
  pidx     : Nat := 0
  retryMax : Nat := 3
  headSeen : Nat := 0                   -- the consumer index last read
  pkt      : Option ChanPkt := none
  queue    : List ChanPkt := []
  runs     : List DescRun := []         -- descriptors in progress: the one at the packet's index, and those fetched ahead of it (R378)
  buf      : List (List Byte) := []     -- the staging buffer: read beats not yet written, oldest first (R378, R387)
  stop     : Option Word16 := none      -- the packet ends with this status once its completed descriptors have written their records
  headErr  : Option Nat := none         -- retries of a HEADADDR read that met a bus error
  deriving DecidableEq, Repr

/-- A channel has been stopped already: a descriptor of its packet has halted, or the packet ends with its completed descriptors. -/
def Chan.stopped (c : Chan) : Bool := c.stop.isSome || c.runs.any (·.halt.isSome)

/-- Bytes that have left an engine and not yet landed (R393, R394), at a resolved place: space 0 is HBM by physical address, 1
to 3 a physical tile's memory, 4 host memory. -/
structure Flight where
  chan  : Nat
  queue : Nat
  seq   : BitVec 32
  da    : Nat                -- the device address it was written to
  space : Nat
  tile  : Nat
  addr  : Nat
  data  : List Byte
  deriving DecidableEq, Repr

/-! ### Rill (R398 to R424) -/

inductive LState where
  | disabled | detect | train | align | config | active | recovery | down | test
  deriving DecidableEq, Repr

def LState.code : LState → Nat
  | .disabled => 0 | .detect => 1 | .train => 2 | .align => 3 | .config => 4 | .active => 5 | .recovery => 6 | .down => 7
  | .test => 8

/-- A DATA flit in the replay buffer. -/
structure TxFlit where
  seq  : BitVec 12
  vc   : Nat
  sop  : Bool
  eop  : Bool
  data : List Byte
  head : List Byte                       -- the front of the packet: its header, and the collective or request block
  deriving DecidableEq, Repr

/-- A flit as this end has put it on the lanes (R412); `bad`: with a corrupted CRC (R422). -/
structure Flit where
  type    : Nat
  seq     : BitVec 12 := 0
  ackSeq  : BitVec 12 := 0
  ackV    : Bool := false
  nak     : Bool := false
  crvc    : Nat := 0
  crv     : Bool := false
  crCount : Nat := 0
  vc      : Nat := 0
  sop     : Bool := false
  eop     : Bool := false
  data    : List Byte := []
  bad     : Bool := false
  deriving DecidableEq, Repr

/-- An accepted DATA flit in the receive buffer (R398). -/
structure RxFlit where
  vc   : Nat
  sop  : Bool
  eop  : Bool
  data : List Byte
  deriving DecidableEq, Repr

/-- A packet, or the rest of one, that waits for a link's credits. -/
structure TxPacket where
  vc      : Nat
  rest    : List Byte
  started : Bool := false
  head    : List Byte
  deriving DecidableEq, Repr

/-- One direction's lanes: the physical lane of each logical lane, the lane in the spare role, failed lanes, width. -/
structure Lanes where
  roles  : List Nat := [0, 1, 2, 3, 4, 5, 6, 7]
  spare  : Option Nat := some 8
  failed : List Nat := []
  half   : Bool := false
  deriving DecidableEq, Repr

/-- A link as this device holds it. (DEDUCED, log entry 44) -/
structure Link where
  st       : LState := .disabled
  cause    : Nat := 0                    -- R422, while DOWN
  rx       : Lanes := {}
  tx       : Lanes := {}
  taps     : List (List Int) := List.replicate 9 [0, 0, -4, 40, -8]   -- R406
  eqReq    : SMap (Nat × Nat) := []      -- the peer's request for each lane, for the next period: tap, direction (0: none)
  mcount   : BitVec 32 := 0               -- marker periods we have sent
  blocks   : List (List Word32) := []    -- the marker blocks of the running period, transmit lane by lane (R401)
  marks    : SMap (Nat × Nat × BitVec 32) := []   -- ALIGN: LINK, LLANE and MCOUNT of each receive lane's marker block
  planes   : SMap Nat := []              -- the transmit lane that each receive lane carries (PLANE, R402)
  peerHalf : Bool := false               -- HALF last received
  sweep    : Option (Nat × Nat × Nat) := none   -- equalisation (R408): the lane swept, the lane that has its role, periods left
  retrain  : Bool := false               -- failed lanes, spare role and width are tested again (R421)
  dying    : Nat := 0                    -- marker periods still sent with HEARTBEAT frozen (R496, R598)
  peerCount : BitVec 32 := 0             -- MCOUNT last received
  beat     : BitVec 16 := 0
  peer     : BitVec 12 := 0
  peerV    : Bool := false
  peerLink : BitVec 5 := 0
  peerBeat : BitVec 16 := 0
  spreq    : Option Nat := none          -- lane we ask the peer to take out of service
  spOwn    : Bool := false               -- the device asked for it itself (R409)
  spack    : Option Nat := none          -- lane of the peer's request that we acknowledge
  spat     : BitVec 32 := 0              -- period at which our transmit side switches
  rxSwitch : Option (Nat × BitVec 32) := none   -- the switch the peer announced: lane, period
  cfgSeen  : Bool := false
  cfgAcked : Bool := false
  cfgHalf  : Bool := true
  cfgSent  : Bool := false               -- CONFIG: ours has been sent, and the peer's has been answered (R405)
  cfgAnswered : Bool := false
  cfgDev   : BitVec 12 := 0              -- what the peer's CONFIG names: DEVID, link, STEPPING (R412)
  cfgLink  : BitVec 5 := 0
  cfgStep  : BitVec 16 := 0
  txNext   : BitVec 12 := 0
  txAcked  : Option (BitVec 12) := none
  replay   : List TxFlit := []           -- sent and not acknowledged, oldest first
  waiting  : List TxPacket := []         -- packets waiting for credit or room
  sent     : List Flit := []             -- flits put on the lanes since the last idle cycle
  crvc     : Nat := 0                    -- CRVC of the next flit
  resend   : Nat := 0                    -- replays begun for the oldest flit
  resendTo : Option (BitVec 12) := none  -- the last flit of the replay in progress
  episodes : Nat := 0
  ackSeq   : BitVec 12 := 0xFFF
  ackV     : Bool := false
  nak      : Bool := false               -- the next flit sent carries NAK
  naked    : Bool := false               -- NAK has been sent, and no flit accepted since (R416)
  rxbuf    : List RxFlit := []           -- the receive buffer, oldest first (R398)
  credits  : List Nat := List.replicate 8 256
  crSeen   : List Nat := List.replicate 8 0
  freed    : List Nat := List.replicate 8 0
  parts    : SMap (List Byte) := []      -- packets partly received, by VC
  crcErrs  : BitVec 64 := 0
  replays  : BitVec 64 := 0
  fecs     : BitVec 64 := 0
  disabling : Bool := false
  aligned  : Bool := false               -- RECOVERY: lanes locked and deskewed again
  resumed  : Bool := false               -- RECOVERY: the peer's RESUME has come
  corrupt  : Bool := false               -- FKIND 3: the next DATA flit's CRC is corrupted (R422)
  deriving DecidableEq, Repr

/-! ### Cascade (R425 to R455) -/

/-- A packet that has left a link's receive side or was originated here, and waits for the router or the engine. -/
structure Arrival where
  link  : Option Nat
  level : Nat
  vc    : Nat
  data  : List Byte
  deriving DecidableEq, Repr

/-- Who waits for a remote request (R433). -/
inductive Origin where
  | packet (queue : Nat) (seq : BitVec 32)
  | chan (engine chan : Nat) (seq : BitVec 32)
  | tile (tile idx : Nat)
  deriving DecidableEq, Repr

/-- A remote request not yet answered (R436). -/
structure RemReq where
  dst   : Nat
  seq   : BitVec 32
  data  : List Byte
  from_ : Origin
  queue : Nat
  first : Nat
  last  : Nat                            -- time of the last send
  via   : Option Nat                     -- link it last left on
  lost  : Bool := false                  -- that link went DOWN since
  exhausted : Bool := false              -- with cause REPLAY_EXHAUSTED
  deriving DecidableEq, Repr

/-- The duplicate filter of one source (R435). -/
structure DupRec where
  epoch    : BitVec 32
  expected : BitVec 32
  held     : List (BitVec 32 × List Byte)
  recent   : List (BitVec 32 × Word16)
  deriving DecidableEq, Repr

/-- Packets dropped and not yet reported, of one event code (R423, R456): time of the last event, DATA0 of the first drop since. -/
structure DropRec where
  last  : Option Nat := none
  count : Nat := 0
  first : Nat := 0
  deriving DecidableEq, Repr

inductive CommState where
  | forming | ready | remapping | broken
  deriving DecidableEq, Repr

def CommState.code : CommState → Nat
  | .forming => 0 | .ready => 1 | .remapping => 2 | .broken => 3

inductive CollPhase where
  | waiting | up | down | finished
  deriving DecidableEq, Repr

/-- A collective of this device. Chunks are kept as images or bytes by their first index. -/
structure Coll where
  queue   : Nat
  seq     : BitVec 32
  op      : Nat
  root    : Nat
  count   : Nat
  src     : Nat
  dst     : Nat
  inst    : Nat := 0
  row0    : Nat := 0                             -- SMREDUCE: first row state, rows, columns
  rows    : Nat := 0
  cols    : Nat := 0
  ph      : CollPhase := .waiting
  mine    : List (Nat × List Byte) := []         -- this member's contribution, chunk by chunk
  kids    : List (Nat × Nat × List Byte) := []   -- child rank, first index, chunk
  sent    : List Nat := []                       -- chunks sent up and not acknowledged
  result  : List (Nat × List Byte) := []         -- chunks of R that this device holds
  done    : List Nat := []                       -- chunks of R that have come and been passed on
  ranks   : List Nat := []                       -- ranks that have sent DONE, or arrived at a barrier
  skip    : List Nat := []                       -- ranks lost since it started
  deriving DecidableEq, Repr

/-- An image delivered by merge into an OPEN group and retained (R448): its tile, its slot, the tile's step at delivery, and the member's own
contribution where the slot was also its source (R447). -/
structure Kept where
  tile  : Nat
  slot  : Nat
  step  : Nat
  image : List Byte
  mine  : Option (List Byte)
  deriving DecidableEq, Repr

/-- A communicator (R437 to R439, R448, R453). -/
structure Comm where
  part     : Nat
  cid      : BitVec 32
  ctimeout : Nat
  stage    : Nat
  stageLen : Nat
  members  : List (Nat × Nat × Nat)              -- DEVID, PARENT, STBY by rank
  standbys : List Nat
  digest   : BitVec 64
  st       : CommState := .forming
  lost     : List Nat := []                      -- lost ranks, ascending
  lostDevs : List Nat := []
  own      : Option Nat := none
  joined   : List Nat := []                      -- devices whose JOIN has been received
  joinSent : Bool := false
  next     : Nat := 0                            -- instance number of the next collective
  colls    : List Coll := []
  kept     : List Kept := []                     -- images retained for OPEN groups (R448)
  deriving DecidableEq, Repr

/-! ### Reliability (R497 to R507) -/

/-- A fault record (R497). (DEDUCED, log entry 42) -/
structure FaultRec where
  seqno    : Nat
  cls      : Nat
  severity : Nat
  kind     : Nat
  index    : Nat
  part     : Option Nat
  time     : Nat
  pkt      : Option (Nat × BitVec 32)
  ltile    : Nat
  location : Nat
  status   : Word16
  count    : Nat
  action   : Nat
  detail   : Nat
  deriving DecidableEq, Repr

/-- A maintenance lock (R503): the activity that holds it and those queued. -/
structure Lock where
  holder : Option Act := none
  queue  : List Act := []
  deriving DecidableEq, Repr

/-- The four error counts of a resource (R369). -/
structure ErrCount where
  corrected : BitVec 64 := 0
  uncorr    : BitVec 64 := 0
  residue   : BitVec 64 := 0
  replays   : BitVec 64 := 0
  deriving DecidableEq, Repr

structure Rel where
  log      : List FaultRec := []          -- oldest first
  nextSeq  : Nat := 0
  locks    : SMap Lock := []              -- by resource code KIND × 256 + INDEX
  counts   : SMap ErrCount := []
  scrubHbm : Nat := 8
  scrubSram : Nat := 8
  periods  : SMap Nat := []               -- adapted scrub period in minutes, 0 = the one set
  badHbm   : List Nat := []               -- 64-byte HBM lines with an uncorrectable error, ascending
  seenBad  : SMap Nat := []               -- how often a place has been found bad, by its key (R500)
  dueTiles : List (Nat × Bool) := []      -- tiles to be rebound before their partition's next launch; retired or without array
  duePages : List Nat := []               -- 64 KiB HBM pages that a queued repair will retire
  badCst   : List Nat := []               -- Channel Scale Table entries (die × 131072 + index) with one
  sluiceOut : List Nat := []              -- engines out of service (R500)
  cstOut   : List Nat := []               -- dies whose table is retired
  persist  : List Nat := []               -- resources whose automatic repair is due (R500, R505)
  deriving DecidableEq, Repr

/-! ### Weir (R511 to R527) -/

structure Weir where
  opp      : Nat := 0
  pinned   : Bool := false
  cap      : Nat := 1400
  tp       : Nat := 0
  energy   : Nat := 0                     -- the excursion account in units of 10 µJ, 0 to 200,000 (R520)
  td       : List Nat := [0, 0, 0, 0]
  emergency : List Bool := [false, false, false, false, false, false]   -- compute dies, north, south
  temps    : SMap Nat := []               -- °C + 1, hottest sensor of: 0–3 compute dies, 4 north, 5 south, 8–15 stacks; 0 = not read
  samples  : List Nat := []               -- package power, one entry per 10 µs, newest first, 1,000 kept
  stretch  : List Bool := [false, false, false, false, false, false]
  volts    : List Nat := [800, 800, 800, 800, 800, 800]   -- last acknowledged target of each adaptive rail, mV
  mute     : List Bool := [false, false, false, false, false, false]   -- unresponsive regulators (R585)
  coolMs   : List Nat := [0, 0, 0, 0]     -- thermal-loop periods in a row below 90 °C
  hotTp    : Nat := 0                     -- power-loop periods in a row over the cap since tp reached 8
  calm     : Nat := 0                     -- power-loop periods in a row with tp = 0
  overCap  : Nat := 0                     -- power-loop periods in a row over the cap (R526)
  fast     : Bool := false                -- the fast limit has acted in this power-loop period
  margin   : List Nat := [0, 0, 0, 0, 0, 0]  -- adaptive-voltage periods in a row above target plus 5 mV
  lastStep : Option Nat := none           -- TCLK time at which the last step of a loop began (R515)
  since    : Nat := 0                     -- TCLK time of the last change of point, throttle, stretch or stop (R519)
  deriving DecidableEq, Repr

/-! ### Telemetry (R549, R550, R557 to R566) -/

/-- A counter (R559, R560). -/
structure Ctr where
  value  : BitVec 64 := 0
  mode   : Nat := 0
  event  : BitVec 16 := 0
  filter : BitVec 32 := 0
  deriving DecidableEq, Repr

structure Tele where
  ctrs    : SMap Ctr := []                -- by UNIT × 256 + CTR; CTR 0 keeps the clock count at which it was zeroed
  aclk    : List Nat := [0, 0, 0, 0]      -- clocked ACLK cycles of each compute die since reset (R558)
  roots   : List Nat := [0, 0, 0, 0, 0, 0]   -- root cycles since reset: compute dies, north, south (R511)
  snapgen : BitVec 32 := 0
  tstOn   : Bool := false
  tstPhase : Nat := 0                     -- GLB_TIME at which the perturbations' periods began (R570)
  perturb : SMap (BitVec 64) := []
  trace   : Bool := false
  traceFilter : BitVec 32 := 0
  deriving DecidableEq, Repr

/-! ### Boot, fuses, flash, security (R541, R542, R597 to R607) -/

/-- What is fixed at manufacture or held in fuses. (DESIGN CHOICE, log entry 1) -/
structure Fuses where
  partnum  : Word16 := 0x4816
  stepping : Word16 := 0x0100
  serial   : Word64 := 0
  arrays   : List Nat := []               -- arrays disabled at manufacture, ascending
  minSvn   : Word16 := 0
  ownerCtr : Word32 := 0
  deriving DecidableEq, Repr

/-- The SPI flash (R599). A descriptor copy is its generation and selected bank; none where its CRC fails. -/
structure Flash where
  desc0    : Option (Nat × Bool) := none
  desc1    : Option (Nat × Bool) := none
  bank0    : Mem := []
  bank1    : Mem := []
  subsys   : Option (Word16 × Word16) := none
  epoch    : Word32 := 0
  repairs  : SMap (BitVec 7 × BitVec 7) := []
  disabled : List Nat := []               -- arrays disabled in the field
  retired  : List Nat := []               -- tiles retired
  pages    : List Nat := []               -- retired 64 KiB physical pages of HBM
  faults   : List FaultRec := []          -- the last 16 of severity 3 or 4
  keys     : List (Option (List Byte)) := [none, none, none, none]
  ownerCtr : Word32 := 0
  hmacOk   : Bool := true                 -- the security region's HMAC verifies
  deriving DecidableEq, Repr

/-- The straps as last sampled (R581). (DESIGN CHOICE, log entry 6) -/
structure Straps where
  tracesel : Bool := false
  ma0      : BitVec 3 := 0
  ma1      : BitVec 3 := 0
  refmode  : BitVec 2 := 0
  recovery : Bool := false
  deriving DecidableEq, Repr

structure Boot where
  porst     : Bool := true                -- PORST# asserted
  railsOk   : Bool := false               -- every rail within tolerance for 1 ms
  resetDue  : Option (BitVec 4) := none   -- a reset that takes effect once its last marker periods are over (R598): its CAUSE
  resample  : Bool := false               -- a rail monitor has reset the device: straps are to be sampled again
  stage     : BitVec 4 := 0
  straps    : Straps := {}
  failed    : Bool := false
  failclass : BitVec 8 := 0
  failPin   : Bool := false               -- FAIL# asserted
  aer       : Bool := false               -- an Uncorrectable Internal Error stands in the PF's AER capability (R548)
  thermtrip : Bool := false               -- THERMTRIP# latched
  activePair : Bool := false              -- false north, true south
  standbyOk : Bool := false
  fwbank    : Bool := false
  fwver     : Word32 := 0
  svn       : Word16 := 0
  recovery  : Bool := false
  tried     : Nat := 0                    -- banks tried at this boot
  cause     : BitVec 4 := 0
  uvrail    : BitVec 4 := 0
  prevfail  : Bool := false
  prevclass : BitVec 8 := 0
  secDamaged : Bool := false
  hbmoff    : BitVec 8 := 0
  newdis    : Nat := 0
  tready    : Word64 := 0
  epoch     : Word32 := 0
  pcieUp    : Bool := false
  jetdig    : List Byte := []             -- SHA-384 of the Jet set image in force
  fwdig     : List Byte := []             -- SHA-384 of the running firmware image
  deriving DecidableEq, Repr

/-- Security state that a reset clears (R376). -/
structure Sec where
  unlocked : Bool := false
  nonce    : Option (List Byte) := none
  deriving DecidableEq, Repr

/-- The Jet set in force (R189 to R191). -/
structure JetSet where
  version : Word32 := 0
  slots   : SMap (Option JetSlot) := []
  consts  : SMap Word128 := []
  deriving DecidableEq, Repr

/-! ### Management ports and test access (R551 to R555, R593) -/

/-- Answers of the SPDM responder, the MCTP control responder and the PLDM responder. -/
inductive Reply where
  | versions (vs : List Nat)
  | capabilities (certCap chalCap measSig measFresh : Bool)
  | algorithms
  | unsupported
  | digests (slot0 : List Byte)
  | certificate (offset : Nat) (bytes : List Byte)
  | challengeAuth (certDigest nonce signature : List Byte)
  | measurements (blocks : List (Nat × List Byte)) (signature : List Byte)
  | endpoint (eid : Nat)
  | msgTypes (ts : List Nat)
  | tid (t : Nat)
  | pldmVersion (type : Nat)
  | commands (cs : List String)
  | repository (records : Nat)
  | pdr (id : Nat) (kind quantity : String)
  | reading (id value : Nat)
  | state (id value : Nat)
  | effecter (id value : Nat)
  | success
  | invalidData
  deriving DecidableEq, Repr

/-- One SMBus management port. (PRESUMED, log entry 8) -/
structure Port where
  eid  : Nat := 0
  deriving DecidableEq, Repr

structure Mgmt where
  ports  : SMap Port := []                -- 0 and 1
  tid    : Nat := 0
  replies : SMap (List Reply) := []       -- answers, newest first: 0 and 1 the management ports, 2 the DOE mailbox
  deriving DecidableEq, Repr

/-- The six die TAPs in chain order (R593): instruction registers and boundary cells; `drive`: the boundary cells drive the
balls. (PRESUMED, log entry 9) -/
structure Tap where
  ir     : List (BitVec 8) := List.replicate 6 0x01        -- IDCODE, as IEEE 1149.1 leaves it in Test-Logic-Reset
  north  : List Bool := List.replicate 102 false
  south  : List Bool := List.replicate 81 false
  dies   : List Bool := List.replicate 4 false
  dr     : List (List Bool) := List.replicate 6 (List.replicate 32 false)   -- the data register each TAP selects, as captured
  drive  : List Bool := List.replicate 6 false
  hiz    : List Bool := List.replicate 6 false
  deriving DecidableEq, Repr

end Sys2Proof.Machine
end

