-- ==== Sys2Proof/Machine/State.lean ====
section
/-! DEFINITION. The state of the block, the ways a step can stop, and the state while PORST# is asserted (R597). -/

namespace Sys2Proof.Machine

/-- A launch's tile that a CONTEXT_SAVE has saved (R318, R481): the launch, its logical number, the physical tile it ran on, and
what that tile held. `basin`: the Basin and the kernel's auxiliary region belong to the save. -/
structure SavedTile where
  queue : Nat
  seq   : BitVec 32
  ltile : Nat
  phys  : Nat
  basin : Bool
  tile  : Tile
  deriving DecidableEq, Repr

/-- The remote window of a partition (R433, R434): its base in space 0, its size in units of 64 KiB, and the
sync-object groups it opens. -/
structure Window where
  part  : Nat
  fn    : Nat
  base  : Nat
  size  : Nat
  mask  : BitVec 32
  deriving DecidableEq, Repr

/-- The state. -/
structure State where
  /-- TCLK cycles since the device left BOOTSTAGE 0x0 (R543). -/
  time     : Nat := 0
  fuses    : Fuses := {}
  flash    : Flash := {}
  boot     : Boot := {}
  sec      : Sec := {}
  /-- VF Enable and NumVFs of the PF's SR-IOV capability (R533). -/
  vfEnable : Bool := false
  numVfs   : Nat := 0
  funcs    : SMap Func := []
  /-- Mailboxes with a request submitted and not taken, in the order of their GOs (R350). -/
  gos      : List Nat := []
  taken    : List Taken := []
  /-- OPP_PINs accepted while tiles ran, which complete once every tile has switched (R132, R377, R525). -/
  pinWait  : List Taken := []
  acts     : List Act := []
  queues   : SMap Queue := []
  /-- Queue last served at each priority (R308). -/
  served   : List Nat := [0, 0, 0, 0]
  packets  : List Packet := []
  launches : List Launch := []
  sync     : SMap (BitVec 64) := []
  arms     : List (Nat × Arm) := []
  slots    : SMap Slot := []
  parts    : SMap Part := []
  /-- The function each doorbell page is assigned to (R304, R359). -/
  dbOwner  : SMap (Option Nat) := []
  tiles    : SMap Tile := []
  saved    : List SavedTile := []
  /-- HBM by physical address (R294). -/
  hbm      : Mem := []
  /-- Host memory by bus address, as far as the device and the host have used it. -/
  hostMem  : Mem := []
  /-- Channel Scale Tables, by die × 131,072 + index. -/
  cst      : SMap (BitVec 64) := []
  /-- Sluice channels, by engine × 64 + channel. -/
  chans    : SMap Chan := []
  flights  : List Flight := []
  /-- The channel last granted a beat, by (engine × 4 + class) × 2, plus 1 for write beats (R387); 63 puts an arbiter at its first input. -/
  granted  : SMap Nat := []
  links    : SMap Link := []
  /-- The fabric ID; none while DEVIDV = 0 (R356). -/
  devid    : Option (BitVec 12) := none
  /-- Routing table entries by destination (R425). -/
  routes   : SMap (BitVec 64) := []
  window   : Option Window := none
  arrivals : List Arrival := []
  reqs     : List RemReq := []
  /-- The next request number for each destination device (R432). -/
  nextSeq  : SMap (BitVec 32) := []
  dups     : SMap (Option DupRec) := []
  comms    : SMap (Option Comm) := []
  /-- Packets discarded and not yet reported, by event code (R427, R431). -/
  dropped  : SMap DropRec := []
  rel      : Rel := {}
  weir     : Weir := {}
  tele     : Tele := {}
  jet      : JetSet := {}
  mgmt     : Mgmt := {}
  tap      : Tap := {}
  /-- The model's own counter of free values drawn (no register of the device). -/
  draws    : Nat := 0
  /-- The commands that wait, first in first out. -/
  pending  : List Instr := []
  deriving DecidableEq, Repr

/-- A reason for which the block would stop for good. No command of the manual does so: every failure has an effect that the
manual describes (a status, an event, a device that is failed and answers as R496 says), so the type has no constructor.
(DESIGN CHOICE, log entry 68) -/
inductive Fault where
  deriving DecidableEq, Repr

/-- A command that the model gives no meaning. -/
inductive Refusal where
  /-- Raised by the dispatcher for a row that has no meaning here; safe, since nothing follows from it. -/
  | notModelled (mnemonic : String)
  deriving DecidableEq, Repr

/-- Partition 0 as R36 leaves it, its logical tiles bound by R30 with no array disabled. -/
def Part.whole : Part :=
  { held := true, tblk := 0xFFFF, sluice := 0xFFFF_FFFF, dbpage := 0xFFFF_FFFF, syncgrp := 0xFFFF_FFFF, slotgrp := 0xFFFF,
    commgrp := 0xFFFF, cst := [0xFFFF, 0xFFFF, 0xFFFF, 0xFFFF], hbm := BitVec.allOnes 192, bind := List.range 256 }

/-- The machine with PORST# asserted: every register of R541 to R549 at its reset value, every memory clear, no fabric ID, every
link DISABLED, the PF bound to partition 0 with every granule (R36), no doorbell page assigned yet (R604), no command waiting.
(DESIGN CHOICE, log entry 3) -/
def State.reset : State :=
  { funcs := [(0, { present := true, bound := some 0 })], parts := [(0, Part.whole)] }

end Sys2Proof.Machine
end

