-- ==== Sys2Proof/Machine/Ops.lean ====
section
/-! DEFINITION. Named operations on the state: status codes (R13), reads and writes of its numbered parts, who owns which resource
(R32 to R36), interrupts (R546, R547), and free values. -/

namespace Sys2Proof.Machine

/-! ### Status codes (R13) -/

def stOk : Word16 := 0x0000
def stBadOpcode : Word16 := 0x0001
def stBadLength : Word16 := 0x0002
def stBadAlign : Word16 := 0x0003
def stBadQueue : Word16 := 0x0004
def stBadSync : Word16 := 0x0005
def stNotPermitted : Word16 := 0x0006
def stBusy : Word16 := 0x0007
def stConflict : Word16 := 0x0008
def stBusError : Word16 := 0x0010
def stUncorrectable : Word16 := 0x0011
def stLinkDown : Word16 := 0x0012
def stReplay : Word16 := 0x0013
def stTimeout : Word16 := 0x0014
def stNumericFlag : Word16 := 0x0020
def stPreempted : Word16 := 0x0030
def stAborted : Word16 := 0x0031

/-- ST_OK or ST_NUMERIC_FLAG: a packet that counts as completed well (R310, R313). -/
def goodStatus (st : Word16) : Bool := st == stOk || st == stNumericFlag

/-- 64-bit error counts saturate (R369, R422). -/
def satInc (v : BitVec 64) : BitVec 64 := if v = BitVec.allOnes 64 then v else v + 1

/-! ### Numbered parts -/

namespace State

def tile (s : State) (i : Nat) : Tile := SMap.get {} s.tiles i
def setTile (s : State) (i : Nat) (t : Tile) : State := { s with tiles := SMap.set {} s.tiles i t }
def modTile (s : State) (i : Nat) (f : Tile → Tile) : State := s.setTile i (f (s.tile i))
def part (s : State) (i : Nat) : Part := SMap.get {} s.parts i
def setPart (s : State) (i : Nat) (p : Part) : State := { s with parts := SMap.set {} s.parts i p }
def func (s : State) (i : Nat) : Func := SMap.get {} s.funcs i
def setFunc (s : State) (i : Nat) (f : Func) : State := { s with funcs := SMap.set {} s.funcs i f }
def modFunc (s : State) (i : Nat) (f : Func → Func) : State := s.setFunc i (f (s.func i))
def queue (s : State) (i : Nat) : Queue := SMap.get {} s.queues i
def setQueue (s : State) (i : Nat) (q : Queue) : State := { s with queues := SMap.set {} s.queues i q }
def modQueue (s : State) (i : Nat) (f : Queue → Queue) : State := s.setQueue i (f (s.queue i))
def counter (s : State) (i : Nat) : BitVec 64 := SMap.get 0 s.sync i
def setCounter (s : State) (i : Nat) (v : BitVec 64) : State := { s with sync := SMap.set 0 s.sync i v }
def slot (s : State) (i : Nat) : Slot := SMap.get {} s.slots i
def setSlot (s : State) (i : Nat) (v : Slot) : State := { s with slots := SMap.set {} s.slots i v }
def chan (s : State) (i : Nat) : Chan := SMap.get {} s.chans i
def setChan (s : State) (i : Nat) (c : Chan) : State := { s with chans := SMap.set {} s.chans i c }
def modChan (s : State) (i : Nat) (f : Chan → Chan) : State := s.setChan i (f (s.chan i))
def link (s : State) (i : Nat) : Link := SMap.get {} s.links i
def setLink (s : State) (i : Nat) (l : Link) : State := { s with links := SMap.set {} s.links i l }
def modLink (s : State) (i : Nat) (f : Link → Link) : State := s.setLink i (f (s.link i))
def comm (s : State) (i : Nat) : Option Comm := SMap.get none s.comms i
def setComm (s : State) (i : Nat) (c : Option Comm) : State := { s with comms := SMap.set none s.comms i c }
def pageOwner (s : State) (p : Nat) : Option Nat := SMap.get none s.dbOwner p

/-- Entry `i` of die `d`'s Channel Scale Table; an entry nobody wrote holds its reset value (R151). -/
def cstReset : BitVec 64 := 0x0000_0000_8000_4000
def cstEntry (s : State) (die i : Nat) : BitVec 64 := SMap.get cstReset s.cst (die * 131072 + i)
def setCstEntry (s : State) (die i : Nat) (v : BitVec 64) : State :=
  { s with cst := SMap.set cstReset s.cst (die * 131072 + i) v }

/-- Change the packets of one identity. -/
def modPacket (s : State) (q : Nat) (seq : BitVec 32) (f : Packet → Packet) : State :=
  { s with packets := s.packets.map (fun p => if p.queue = q ∧ p.seq = seq then f p else p) }
def packet? (s : State) (q : Nat) (seq : BitVec 32) : Option Packet := s.packets.find? (fun p => p.queue == q && p.seq == seq)
def modLaunch (s : State) (q : Nat) (seq : BitVec 32) (f : Launch → Launch) : State :=
  { s with launches := s.launches.map (fun l => if l.queue = q ∧ l.seq = seq then f l else l) }
def launch? (s : State) (q : Nat) (seq : BitVec 32) : Option Launch :=
  s.launches.find? (fun l => l.queue == q && l.seq == seq)

/-- The next free value of the model's own counter. -/
def draw (s : State) : Nat × State := (Config.free s.draws, { s with draws := s.draws + 1 })

/-- The device serves commands: brought up to BOOTSTAGE 0x6 or in recovery, not failed (R496, R604), and no reset under way (R598). -/
def live (s : State) : Bool := (s.boot.stage == 6 || s.boot.stage == 0xE) && !s.boot.failed && s.boot.resetDue.isNone

/-- The links are in service: from the end of BOOTSTAGE 0x4 on, which enables them (R604). -/
def linksUp (s : State) : Bool :=
  decide (5 ≤ s.boot.stage.toNat) && s.boot.stage != 0xF && !s.boot.failed && s.boot.resetDue.isNone

/-- Firmware runs and the management ports answer: BOOTSTAGE 0x2 or later (R553, R601). -/
def firmware (s : State) : Bool := decide (2 ≤ s.boot.stage.toNat) && s.boot.stage != 0xF

end State

/-- A command that happens only while the device serves commands; otherwise it is an event that does not occur. -/
def State.run (s : State) (f : State → State) : Host.Outcome State Fault Refusal := .next (if s.live then f s else s)

/-- An event on a link, which happens from bring-up stage 0x5 on (R404, R604). -/
def State.runLinks (s : State) (f : State → State) : Host.Outcome State Fault Refusal := .next (if s.linksUp then f s else s)

/-- A command whose condition does not hold in the state is an event that does not occur. (DESIGN CHOICE, log entry 18) -/
def State.when (s : State) (c : Bool) (f : State → State) : State := if c then f s else s

/-! ### Ownership (R32, R33) -/

/-- Bit `i` of a granule bitmap. -/
def bitOf {n : Nat} (v : BitVec n) (i : Nat) : Bool := v.getLsbD i

def Part.hasTile (p : Part) (t : Nat) : Bool := bitOf p.tblk (t / 16)
def Part.hasSync (p : Part) (i : Nat) : Bool := decide (i < 32768) && bitOf p.syncgrp (i / 1024)
def Part.hasSlot (p : Part) (i : Nat) : Bool := decide (i < 256) && bitOf p.slotgrp (i / 16)
def Part.hasComm (p : Part) (i : Nat) : Bool := decide (i < 256) && bitOf p.commgrp (i / 16)
def Part.hasEngine (p : Part) (i : Nat) : Bool := decide (i < 32) && bitOf p.sluice i
def Part.hasCst (p : Part) (die i : Nat) : Bool := decide (i < 131072) && bitOf (p.cst.getD die 0) (i / 8192)
def Part.hasPage (p : Part) (g : Nat) : Bool := decide (g < 32) && bitOf p.dbpage g

/-- The partition whose granule holds something. -/
def State.ownerOf (s : State) (has : Part → Bool) : Option Nat := (s.parts.find? (fun e => e.2.held && has e.2)).map (·.1)

/-- The functions bound to a partition, the PF first. -/
def State.boundFuncs (s : State) (p : Nat) : List Nat := (s.funcs.filter (fun e => e.2.bound == some p)).map (·.1)

/-- A physical tile's die (R5). -/
def dieOf (t : Nat) : Nat := t / 64
/-- The logical tiles of a partition (R30). -/
def Part.count (p : Part) : Nat := p.bind.length

/-! ### Interrupts (R546, R547) -/

/-- Put a number into an ascending list, once. -/
def insAsc (x : Nat) : List Nat → List Nat
  | [] => [x]
  | y :: l => if x < y then x :: y :: l else if x = y then y :: l else y :: insAsc x l

/-- Vectors of a function (R546). -/
def vectorsOf (fn : Nat) : Nat := if fn = 0 then 128 else 30

/-- Raise a vector: one message, or the pending bit while it is masked or the function may not issue requests (R536, R546). -/
def Func.raise (f : Func) (v : Nat) : Func :=
  if f.vecOpen.contains v && f.bme then { f with sent := v :: f.sent }
  else { f with pba := insAsc v f.pba }

def State.raise (s : State) (fn v : Nat) : State := s.modFunc fn (·.raise v)

/-- A status bit of IRQ_STATUS becomes 1; vector 1 is raised where its enable bit is 1 (R547). -/
def Func.setIrq (f : Func) (b : Nat) : Func :=
  let g := { f with irqStatus := f.irqStatus ||| BitVec.ofNat 3 (2 ^ b) }
  if bitOf f.irqEnable b then g.raise 1 else g

/-- GLB_BADACCESS takes an access while it holds none (R539, R543). -/
def Func.badAcc (f : Func) (offset kind : Nat) : Func :=
  match f.badAccess with
  | some _ => f
  | none => { f with badAccess := some (BitVec.ofNat 24 offset, BitVec.ofNat 2 kind),
                     badOld := (BitVec.ofNat 24 offset, BitVec.ofNat 2 kind) }

end Sys2Proof.Machine
end

