-- ==== Sys2Proof/Machine/Counters.lean ====
section
/-! DEFINITION. What the device counts: programmable counters (R559 to R561) and latency histograms (R568, R569). A counting point
that a command passes counts there; how its cycles fall is timing. -/

namespace Sys2Proof.Machine

/-- A counter takes `cycles` consecutive cycles in each of which its event supplies `v`, the selected part being `sub` (R559,
R560). The event is 0 in the cycle before. -/
def Ctr.take (c : Ctr) (cycles v sub : Nat) : Ctr :=
  let f := c.filter.toNat
  let picked := if f % 256 = 0 || (f % 256) &&& sub != 0 then v else 0
  let w := if bits f 8 8 = 0 then picked else if bits f 8 8 ≤ picked then 1 else 0
  if w = 0 || cycles = 0 then c
  else if c.mode = 1 then { c with value := c.value + BitVec.ofNat 64 (w * cycles) }
  else if c.mode = 2 then { c with value := c.value + 1 }
  else c

namespace State

/-- Count an event at a unit. `sub` is the mask of the selected part (R561); RUNONLY is read where a tile runs nothing.
(DEDUCED, log entry 26) -/
def count (s : State) (unit event cycles v sub : Nat) : State :=
  { s with tele := { s.tele with ctrs := s.tele.ctrs.map (fun e =>
      if e.1 / 256 = unit ∧ e.1 % 256 ≠ 0 ∧ e.2.event.toNat = event ∧
          ¬ (e.2.filter.toNat.testBit 16 ∧ unit / 4096 = 0 ∧ (s.tile unit).running = false)
      then (e.1, e.2.take cycles v sub) else e) } }

/-- Unit codes (R557). -/
def unitTile (t : Nat) : Nat := t
def unitSluice (e : Nat) : Nat := 0x1000 + e
def unitStack (h : Nat) : Nat := 0x4000 + h
def unitLink (l : Nat) : Nat := 0x5000 + l
def unitCascade (h : Nat) : Nat := 0x6000 + h
/-- The stack that holds an HBM physical address (R294). -/
def stackOf (pa : Nat) : Nat := 2 * (pa / (48 * 2 ^ 30)) + (pa % (48 * 2 ^ 30)) / 256 % 2
/-- The 64-byte lines of a range. -/
def linesOf (off n : Nat) : List Nat := (List.range ((off % 64 + n + 63) / 64)).map (fun i => off / 64 + i)
/-- Reads (1) or writes (2) of HBM lines, counted at their stacks (R561). -/
def countHbm (s : State) (event pa n : Nat) : State :=
  if s.tele.ctrs.isEmpty then s
  else (linesOf pa n).foldl (fun s l => s.count (unitStack (stackOf (64 * l))) event 1 1 0) s
def unitQueues : Nat := 0x7000
def unitPcie : Nat := 0x8000
/-- Inbound BAR writes are counted at the PCIe port (R561). -/
def barWrite (s : State) : State := s.count unitPcie 0x003 1 1 0

end State

/-- Saturating 64-bit addition. -/
def sat64 (a b : Nat) : Nat := Nat.min (a + b) (2 ^ 64 - 1)

/-- A histogram records an interval (R569). -/
def Hist.record (h : Hist) (len : Nat) : Hist :=
  let b := Nat.min (len / 2 ^ h.shift) 63
  { h with count := sat64 h.count 1, sum := sat64 h.sum len, min := Nat.min h.min len, max := Nat.max h.max len,
           bins := SMap.set 0 h.bins b (sat64 (SMap.get 0 h.bins b) 1) }

/-- Every histogram of a partition whose source names an interval of this kind and qualifier records it (R568). -/
def State.interval (s : State) (part kind qual len : Nat) : State :=
  let p := s.part part
  if p.held then
    s.setPart part { p with hists := p.hists.map (fun e =>
      let src := e.2.source.toNat
      if src % 256 = kind ∧ (src / 256 = 0 ∨ src / 256 = qual) then (e.1, e.2.record len) else e) }
  else s

end Sys2Proof.Machine
end

