-- ==== Sys2Proof/Machine/Links.lean ====
section
/-! DEFINITION. One Rill link by itself: flits (R412, R415), credits (R414), sequence numbers and acknowledgement (R416), the replay
buffer (R417, R418), lanes and width (R403, R410, R411). -/

namespace Sys2Proof.Machine

/-! ### Sending (R412, R414 to R417) -/

def flitPayload : Nat := 240
def replayFlits : Nat := 1024
def rxFlits : Nat := 256

/-- Word `i` of a flit's header (R412). -/
def Flit.word (f : Flit) (i : Nat) : Nat :=
  match i with
  | 0 => f.type + 2 ^ 4 * f.seq.toNat + 2 ^ 16 * f.ackSeq.toNat + 2 ^ 28 * f.ackV.toNat + 2 ^ 29 * f.nak.toNat
  | 1 => f.crvc + 2 ^ 3 * f.crv.toNat + 2 ^ 4 * f.crCount
  | 2 => if f.type = 1 then f.vc + 2 ^ 3 * f.sop.toNat + 2 ^ 4 * f.eop.toNat + 2 ^ 5 * (f.data.length - 1) else 0
  | _ => 0

/-- The 256 bytes on the lanes: header, payload and CRC (R412, R415); a corrupted CRC differs in its lowest bit (R422). Byte `i` rides
logical lane `i` mod 8, or `i` mod 4 at half width (R403). -/
def Flit.bytes (f : Flit) : List Byte :=
  let b := wordsBytes [f.word 0, f.word 1, f.word 2] ++ f.data ++ List.replicate (flitPayload - f.data.length) 0
  let crc := crc32c b
  b ++ leBytes 4 (if f.bad then crc ^^^ 1 else crc)

/-- A flit leaves, with what this end has accepted and freed: NAK goes with one flit alone (R416), CRVC advances with every flit (R412),
CRCOUNT is valid once the link has come to ACTIVE. An injected CRC fault corrupts the next DATA flit, new or resent (R422). -/
def Link.put (l : Link) (f : Flit) : Link :=
  { l with
    sent := l.sent ++ [{ f with ackSeq := if l.ackV then l.ackSeq else 0, ackV := l.ackV, nak := l.nak, crvc := l.crvc,
                                crv := l.st == .active || l.st == .recovery, crCount := l.freed.getD l.crvc 0,
                                bad := f.type == 1 && l.corrupt }],
    crvc := (l.crvc + 1) % 8, nak := false, naked := l.naked || l.nak, corrupt := l.corrupt && f.type != 1 }

/-- A LINKCTL flit: CTLOP and the payload words after it (R412). -/
def Link.control (l : Link) (op : Nat) (ws : List Nat) : Link := l.put { type := 2, data := wordsBytes (op :: ws) }

def TxFlit.flit (f : TxFlit) : Flit := { type := 1, seq := f.seq, vc := f.vc, sop := f.sop, eop := f.eop, data := f.data }

/-- Cut one DATA flit from the first waiting packet whose virtual channel has a credit. -/
def Link.cut (l : Link) : Option Link :=
  match l.waiting.findIdx? (fun e => decide (0 < l.credits.getD e.vc 0)) with
  | none => none
  | some i =>
    match l.waiting[i]? with
    | none => none
    | some e =>
      let rest := e.rest.drop flitPayload
      let f : TxFlit :=
        { seq := l.txNext, vc := e.vc, sop := !e.started, eop := rest.isEmpty, data := e.rest.take flitPayload, head := e.head }
      if replayFlits ≤ l.replay.length then none
      else some { l.put f.flit with
        txNext := l.txNext + 1, replay := l.replay ++ [f], credits := l.credits.set e.vc (l.credits.getD e.vc 0 - 1),
        waiting := if rest.isEmpty then l.waiting.eraseIdx i else l.waiting.set i ({ e with rest := rest, started := true } : TxPacket) }

/-- Send what credits and the replay buffer allow; only an ACTIVE link that is not being disabled sends DATA flits. -/
def Link.pumpN : Nat → Link → Link
  | 0, l => l
  | n + 1, l => match l.cut with
    | none => l
    | some l' => Link.pumpN n l'

def Link.pump (l : Link) : Link :=
  if l.st = .active ∧ l.disabling = false then
    l.pumpN (l.waiting.foldl (fun n e => n + e.rest.length / flitPayload + 1) 0) else l

/-- A packet for a virtual channel. -/
def Link.send (l : Link) (vc : Nat) (bs : List Byte) : Link :=
  let p : TxPacket := { vc := vc, rest := bs, head := bs.take 48 }
  { l with waiting := l.waiting ++ [p] }.pump

/-! ### Acknowledgement and replay (R416 to R418) -/

/-- The peer has accepted every flit up to a sequence number. -/
def Link.acked (l : Link) (seq : BitVec 12) : Link :=
  match l.replay.findIdx? (fun f => f.seq == seq) with
  | none => l
  | some i =>
    let rest := l.replay.drop (i + 1)
    { l with
      replay := rest, txAcked := some seq, resend := 0, episodes := 0,
      resendTo := if rest.any (fun f => l.resendTo == some f.seq) then l.resendTo else none }

/-- Every unacknowledged flit is sent again from the oldest, with its SEQ, VC and payload (R417). -/
def Link.resendAll (l : Link) : Link :=
  match l.replay.getLast? with
  | none => l
  | some f => l.replay.foldl (fun (l : Link) f => l.put f.flit) { l with replays := satInc l.replays, resendTo := some f.seq }

/-- The link enters RECOVERY (R418), and its lanes lock anew. -/
def Link.recover (l : Link) : Link :=
  { l with st := .recovery, aligned := false, resumed := false, resend := 0, resendTo := none, marks := [],
           episodes := if l.replay.isEmpty then 0 else l.episodes + 1 }

/-- The oldest flit has been unacknowledged through three RECOVERY episodes, and a fourth would begin (R418). -/
def Link.exhausted (l : Link) : Bool := decide (3 < l.episodes)

/-- A replay starts, or RECOVERY after four of them (R417, R418). -/
def Link.startReplay (l : Link) : Link :=
  if l.replay.isEmpty then l else if 4 ≤ l.resend then l.recover else { l.resendAll with resend := l.resend + 1 }

/-- A NAK whose next flit is not one of the replay in progress starts a replay (R417). -/
def Link.nakked (l : Link) (ackseq : BitVec 12) : Link :=
  match l.replay with
  | [] => l
  | f :: _ => if f.seq = ackseq + 1 ∧ l.resendTo = none then l.startReplay else l

/-! ### Receiving -/

def flitWord (flit : List Byte) (i : Nat) : Nat := leNat ((flit.drop (4 * i)).take 4)
def flitType (flit : List Byte) : Nat := flitWord flit 0 % 16

/-- A flit that passes its CRC, lay in no uncorrectable codeword, and has no reserved field or encoding (R412, R415). -/
def flitGood (flit : List Byte) (fec : Bool) : Bool :=
  let w (i : Nat) := flitWord flit i
  let ty := flitType flit
  flit.length == 256 && !fec && crc32c (flit.take 252) == leNat (flit.drop 252) && decide (ty < 3) && bits (w 0) 30 2 == 0
    && (ty == 1 || bits (w 0) 4 12 == 0) && bits (w 1) 12 20 == 0 && bits (w 2) 13 19 == 0
    && (ty != 1 || decide (bits (w 2) 5 8 < 240)) && (ty != 2 || decide (w 3 % 16 < 4))

/-- The acknowledgement and credit information of a good flit's header (R412, R414, R416). -/
def Link.header (l : Link) (flit : List Byte) : Link :=
  let w0 := flitWord flit 0
  let w1 := flitWord flit 1
  let seq := BitVec.ofNat 12 (bits w0 16 12)
  let l1 := if w0.testBit 28 then l.acked seq else l
  let vc := w1 % 8
  let n := bits w1 4 8
  let l2 := if w1.testBit 3 then
      { l1 with credits := l1.credits.set vc (l1.credits.getD vc 0 + (n + 256 - l1.crSeen.getD vc 0) % 256),
                crSeen := l1.crSeen.set vc n } else l1
  let l3 := if w0.testBit 29 && l2.st == .active then l2.nakked (if w0.testBit 28 then seq else 0xFFF) else l2
  l3.pump

/-- A discarded DATA flit: the next flit sent carries NAK, unless one has since the last acceptance (R416). -/
def Link.refuse (l : Link) : Link := { l with nak := l.nak || !l.naked }

/-- A damaged flit (R415). One whose FTYPE still reads DATA counts as a discarded DATA flit (R416). -/
def Link.damaged (l : Link) (data : Bool) : Link :=
  let l1 := { l with crcErrs := satInc l.crcErrs }
  if data then l1.refuse else l1

/-- Flits of a virtual channel in the receive buffer. -/
def Link.held (l : Link) (vc : Nat) : Nat := (l.rxbuf.filter (fun f => f.vc == vc)).length

/-- A good DATA flit: accepted in sequence into the receive buffer, or discarded (R416). A peer that keeps to its credits always finds
room; a flit without room counts as discarded. (DEDUCED, log entry 44) -/
def Link.accept (l : Link) (flit : List Byte) : Link :=
  let w2 := flitWord flit 2
  let seq := BitVec.ofNat 12 (bits (flitWord flit 0) 4 12)
  if seq ≠ l.ackSeq + 1 ∨ rxFlits ≤ l.held (w2 % 8) then l.refuse
  else
    { l with ackSeq := seq, ackV := true, naked := false,
             rxbuf := l.rxbuf ++ [{ vc := w2 % 8, sop := w2.testBit 3, eop := w2.testBit 4,
                                    data := (flit.drop 12).take (bits w2 5 8 + 1) }] }

/-- The Cascade half takes one flit from the receive buffer, which frees its credit (R398, R414): the oldest of a channel that is not
`busy`. The packet that it ends, if it ends one. -/
def Link.takeFlit (l : Link) (busy : Nat → Bool) : Option (Link × Option (Nat × List Byte)) :=
  match l.rxbuf.findIdx? (fun f => !busy f.vc) with
  | none => none
  | some i =>
    match l.rxbuf[i]? with
    | none => none
    | some f =>
      let whole := if f.sop then f.data else SMap.get [] l.parts f.vc ++ f.data
      let l1 := { l with rxbuf := l.rxbuf.eraseIdx i, freed := l.freed.set f.vc ((l.freed.getD f.vc 0 + 1) % 256),
                         parts := SMap.set [] l.parts f.vc (if f.eop then [] else whole) }
      some (l1, if f.eop then some (f.vc, whole) else none)

/-! ### States -/

/-- The link becomes ACTIVE: from CONFIG with 256 credits a channel, of which unacknowledged flits that are sent again hold theirs
(R414), and with counts that start anew; then the replay (R418), and what waits. -/
def Link.activate (l : Link) : Link :=
  let l1 := if l.st = .config then
      { l with credits := (List.range 8).map (fun v => 256 - (l.replay.filter (fun f => f.vc == v)).length),
               crSeen := List.replicate 8 0, freed := List.replicate 8 0, retrain := false } else l
  { l1 with st := .active, cause := 0 }.resendAll.pump

/-- What DOWN and DISABLED leave of a link: accepted flits, which go on (R419), the lanes that have failed and the width, which only
RETRAIN tests again (R410, R411), and the counters. Nothing is held for the peer any more, and numbering begins anew. -/
def Link.off (l : Link) (st : LState) (cause : Nat) : Link :=
  { st := st, cause := cause, rx := l.rx, tx := l.tx, taps := l.taps, mcount := l.mcount, beat := l.beat, planes := l.planes, peer := l.peer,
    peerV := l.peerV, peerLink := l.peerLink, peerHalf := l.peerHalf, peerBeat := l.peerBeat, peerCount := l.peerCount,
    crcErrs := l.crcErrs, replays := l.replays, fecs := l.fecs, corrupt := l.corrupt, rxbuf := l.rxbuf, parts := l.parts, sent := l.sent }

def presetTaps : List (List Int) := List.replicate 9 [0, 0, -4, 40, -8]

/-- DETECT (R404). ENABLE keeps the lanes that have failed and half width; RETRAIN tests lanes, spare role and width again (R410, R411,
R421), and the old width stands until the lanes have aligned. -/
def Link.detect (l : Link) (again : Bool) : Link :=
  let lanes (r : Lanes) : Lanes := if again then { half := r.half } else r
  { l with st := .detect, cause := 0, marks := [], planes := [], cfgSeen := false, cfgAcked := false, cfgSent := false, cfgAnswered := false,
           spreq := none, spOwn := false, spack := none, rxSwitch := none, sweep := none, resend := 0, episodes := 0, resendTo := none,
           aligned := false, resumed := false, disabling := false, retrain := l.retrain || again, rx := lanes l.rx, tx := lanes l.tx }

/-- A link of a device that fails or is reset (R496, R598): 16 more marker periods where it is ACTIVE, else it powers down at once. -/
def Link.lastPeriods (l : Link) (st : LState) : Link :=
  if l.st = .active then { l with dying := 16 } else { l with st := st, cause := 0, dying := 0 }

/-- Lanes carrying data in the receive direction (R422). -/
def Link.lanes (l : Link) : Nat := if l.st = .active ∨ l.st = .recovery then l.rx.roles.length else 0

/-! ### Lanes (R403, R410, R411) -/

def sortLanes (ls : List Nat) : List Nat := (ls.filter (· < 9)).foldl (fun l x => insAsc x l) []

/-- The transmit lane that a receive lane carries: the board may permute the pairs, and turn their polarity, which ALIGN corrects
without a trace (R402). -/
def Link.plane (l : Link) (lane : Nat) : Nat :=
  let p := SMap.get 9 l.planes lane
  if p = 9 then lane else p

/-- Receive lanes in the order of the transmit lanes that they carry. -/
def Link.byPlane (l : Link) (lanes : List Nat) : List Nat := (List.range 9).flatMap (fun p => lanes.filter (fun x => l.plane x == p))

/-- Half width on the healthy lanes: the four lowest as logical lanes 0 to 3, the others spare (R411). -/
def halfOf (healthy : List Nat) : Lanes :=
  { roles := healthy.take 4, spare := (healthy.drop 4).head?, failed := (List.range 9).filter (fun p => !healthy.contains p),
    half := true }

/-- Lanes as ALIGN from DETECT finds them. -/
def Lanes.fresh (healthy : List Nat) : Lanes :=
  let failed := (List.range 9).filter (fun p => !healthy.contains p)
  match failed with
  | [] => {}
  | [f] => { roles := (List.range 8).map (fun p => if p = f then 8 else p), spare := none, failed := [f] }
  | _ => halfOf healthy

/-- Lanes by the roles that their marker blocks name (R402), where every healthy lane has had one: a logical lane that no healthy
lane carries goes to the healthy spare (R410), and to half width otherwise (R411). -/
def Lanes.found (marks : SMap (Nat × Nat × BitVec 32)) (healthy : List Nat) : Lanes :=
  let role (p : Nat) : Nat := (SMap.get (32, 16, 0) marks p).2.1
  if healthy.all (fun p => role p != 16) then
    let at_ (k : Nat) : Option Nat := healthy.find? (fun p => role p == k)
    let failed := (List.range 9).filter (fun p => !healthy.contains p)
    let gaps := (List.range 8).filter (fun k => (at_ k).isNone)
    match gaps, at_ 15 with
    | [], sp => { roles := (List.range 8).map (fun k => (at_ k).getD 0), spare := sp, failed := failed }
    | [_], some sp => { roles := (List.range 8).map (fun k => (at_ k).getD sp), spare := none, failed := failed }
    | _, _ => halfOf healthy
  else Lanes.fresh healthy

/-- Lanes as ALIGN within RECOVERY finds them: roles are kept while their lanes are healthy, the spare takes one that is not, and
otherwise the width halves. -/
def Lanes.again (r : Lanes) (healthy : List Nat) : Lanes :=
  let failed := (List.range 9).filter (fun p => !healthy.contains p)
  match r.roles.filter (fun p => !healthy.contains p) with
  | [] => { r with failed := failed, spare := r.spare.filter healthy.contains }
  | [f] =>
    (match r.half, r.spare.filter healthy.contains with
     | false, some sp => { r with roles := r.roles.map (fun p => if p = f then sp else p), spare := none, failed := failed }
     | _, _ => halfOf healthy)
  | _ => halfOf healthy

/-- The role of lane `f` moves to the lane in the spare role, and lane `f` takes the spare role: in a sweep (R408), and always as the
transmit side sees it, which the receiver tells no reason. -/
def Lanes.swap (r : Lanes) (f : Nat) : Lanes :=
  match r.spare with
  | none => r
  | some sp => { r with roles := r.roles.map (fun p => if p = f then sp else p), spare := some f }

/-- The role of lane `f` moves to the lane in the spare role; lane `f` counts as failed (R410). -/
def Lanes.switch (r : Lanes) (f : Nat) : Lanes :=
  match r.spare with
  | none => r
  | some _ => { r.swap f with spare := none, failed := insAsc f r.failed }

/-- A lane counts as failed. -/
def Lanes.fail (r : Lanes) (lane : Nat) : Lanes :=
  { r with failed := insAsc lane r.failed, spare := if r.spare = some lane then none else r.spare }

/-- The lanes of a direction at ALIGN from DETECT: half width stands until RETRAIN (R411). -/
def Lanes.align (r : Lanes) (retrain : Bool) (full : Lanes) (healthy : List Nat) : Lanes :=
  if r.half && !retrain then halfOf healthy else full

/-- The logical lane that a physical lane carries, 0xF in the spare role or idle (R401). -/
def Lanes.role (r : Lanes) (lane : Nat) : Nat := (r.roles.findIdx? (· == lane)).getD 15

/-! ### The equalisation sweep (R408) -/

/-- Marker periods of 20 ms, the sweep of one lane. -/
def sweepPeriods : Nat := 3040

/-- The sweep goes on with the lowest healthy lane from `p` on: one with a data role first asks for the sparing switch of R410; when no
lane is left the sweep is over. -/
def Link.sweepFrom (l : Link) (p : Nat) : Link :=
  match (List.range 9).find? (fun x => decide (p ≤ x) && !l.rx.failed.contains x) with
  | none => { l with sweep := none, spreq := none, rxSwitch := none }
  | some x =>
    if l.rx.roles.contains x then { l with sweep := some (x, 9, 0), spreq := some x, spOwn := true, rxSwitch := none }
    else { l with sweep := some (x, x, sweepPeriods), spreq := none, rxSwitch := none }

/-- A marker period of the sweep: a lane swept to its end asks for its data role again. -/
def Link.sweepPeriod (l : Link) : Link :=
  match l.sweep with
  | some (x, c, n + 1) =>
    if n ≠ 0 then { l with sweep := some (x, c, n) }
    else if c = x then l.sweepFrom (x + 1)
    else { l with sweep := some (x, c, 0), spreq := some c, spOwn := true, rxSwitch := none }
  | _ => l

/-- The sparing switch of a sweep: the lane takes the spare role, or returns to its data role and the next lane follows. -/
def Link.sweepSwitch (l : Link) (f : Nat) : Link :=
  let l1 := { l with rx := l.rx.swap f, spreq := none, rxSwitch := none, spOwn := false }
  match l.sweep with
  | some (x, 9, _) => { l1 with sweep := some (x, l.rx.spare.getD x, sweepPeriods) }
  | some (x, _, _) => l1.sweepFrom (x + 1)
  | none => l1

/-- A sweep is stopped: every lane stays in the role that it has. -/
def Link.stopSweep (l : Link) : Link :=
  if l.sweep.isSome then { l with sweep := none, spreq := none, rxSwitch := none, spOwn := false } else l

/-! ### Marker blocks as sent (R400, R401) -/

/-- Equalisation requests of one period: for each receive lane, a tap (5 for none) and a direction. -/
abbrev EqAsk := List (Nat × Nat)

/-- The marker block that transmit lane `lane` carries. Bytes 32 to 641 of its codeword and the last 4 bits hold the fixed PRBS-31
sequence. Each block asks for one reverse lane, so that a period asks for at most one step of each (R406). -/
def Link.block (l : Link) (n lane : Nat) (own : Option (BitVec 12)) (failed : Bool) (ask : EqAsk) : List Word32 :=
  let e := ask.getD lane (5, 0)
  let sp (o : Option Nat) : Nat := match o with | some f => f | none => 15
  [0xA5C3_3C5A,
   BitVec.ofNat 32 (l.tx.role lane + 2 ^ 4 * lane + 2 ^ 8 * n + 2 ^ 13 * l.tx.half.toNat),
   l.mcount,
   BitVec.ofNat 32 (l.beat.toNat + 2 ^ 16 * failed.toNat),
   BitVec.ofNat 32 (if e.1 < 5 then e.1 + 2 ^ 3 * e.2 + 2 ^ 5 * l.plane lane else 7),
   BitVec.ofNat 32 (sp (l.spreq.map l.plane) + 2 ^ 4 * sp l.spack),
   if l.spack.isSome then l.spat else 0,
   BitVec.ofNat 32 ((own.getD 0).toNat + 2 ^ 12 * own.isSome.toNat)]

/-- A marker period's blocks, lane by lane; every lane of the direction sends one. -/
def Link.sendBlocks (l : Link) (n : Nat) (own : Option (BitVec 12)) (failed : Bool) (ask : EqAsk) : Link :=
  { l with blocks := (List.range 9).map (fun lane => l.block n lane own failed ask) }

/-! ### What a link sends with nothing to carry (R405, R412, R418, R424) -/

/-- CONFIG with this device's ID, link and STEPPING; it accepts half width. -/
def Link.config (l : Link) (n : Nat) (own : BitVec 12) (stepping : BitVec 16) : Link :=
  { l.control 0 [own.toNat + 2 ^ 16 * n, stepping.toNat + 2 ^ 16] with cfgSent := true }

/-- RESUME with this end's ACKSEQ. -/
def Link.resume (l : Link) : Link := l.control 3 [l.ackSeq.toNat]

/-- The flit of a cycle without another: IDLE; in CONFIG the exchange until it is acknowledged; in RECOVERY RESUME once the lanes are
aligned, and the disabling RECOVER as long as a link being disabled stays there (R424). -/
def Link.fill (l : Link) (n : Nat) (own : Option (BitVec 12)) (stepping : BitVec 16) : Link :=
  let l0 := { l with sent := [] }
  match l.st with
  | .active => l0.put { type := 0 }
  | .config => (match own with
    | some d => if l.cfgAcked then l0.put { type := 0 } else l0.config n d stepping
    | none => l0.put { type := 0 })
  | .recovery => if l.disabling then l0.control 2 [1] else if l.aligned then l0.resume else l0
  | _ => l0

end Sys2Proof.Machine
end

