-- ==== Sys2Proof/Machine/Memory.lean ====
section
/-! DEFINITION. Device addresses and the accesses that agents other than a tile's own instructions make through them: translation
(R273 to R277), what may not be reached (R86, R275, R291, R536), uncorrectable lines (R296), and what a foreign write does to a
tile (R264, R288, R485). -/

namespace Sys2Proof.Machine

/-- Where a byte lies: HBM by physical address, a physical tile's memory of space 1, 2 or 3, or host memory under a function's
Routing ID. -/
inductive Place where
  | hbm (pa : Nat)
  | tile (space phys off : Nat)
  | host (fn addr : Nat)
  deriving DecidableEq, Repr

/-- Why an access does not take place: it ends with a status, or it waits for a stopped tile (R133). -/
inductive Why where
  | status (st : Word16)
  | held
  deriving DecidableEq, Repr

/-- Who accesses: a partition, the function whose Routing ID a space 4 access carries (R534), and whether LOG = 0 is open to it
(R274). -/
structure Agent where
  part : Nat
  fn   : Nat
  firm : Bool := false
  deriving DecidableEq, Repr

namespace State

/-- The page that maps a virtual address: a 64 KiB page at its own index, or the 2 MiB page listed at the first of its 32. -/
def pageAt (s : State) (part va : Nat) : Option Page :=
  let i := va % 2 ^ 38 / 65536
  match SMap.get none (s.part part).pages i with
  | some g => some g
  | none => (SMap.get none (s.part part).pages (i / 32 * 32)).filter (·.big)

/-- Translation of a space 0 address (R276). -/
def translate (s : State) (part va : Nat) (write : Bool) : Option Place :=
  if 2 ^ 38 ≤ va % 2 ^ 44 then none
  else
    match s.pageAt part va with
    | none => none
    | some g =>
      let off := va % (if g.big then 2 ^ 21 else 2 ^ 16)
      if write && !g.wr then none
      else if g.host then some (.host g.fn ((g.addr + off) % 2 ^ 44)) else some (.hbm (g.addr + off))

/-- A kernel runs on a physical tile. -/
def kernelOn (s : State) (phys : Nat) : Bool := (s.tile phys).running

/-- The end of what other agents may reach of a tile's memory (R273, R291). -/
def tileLimit (s : State) (space phys : Nat) : Nat :=
  if space = 1 then basinSize else if space = 2 then cisternSize
  else if (s.tile phys).running then (s.tile phys).auxDemand else 0x3_8000 - (s.tile phys).sampler.samplen

/-- The physical tile that a space 1 to 3 address names (R274, R275). -/
def tileOf (s : State) (a : Agent) (da : Nat) : Option Nat :=
  if !daReservedOk da then none
  else if daLog da then (s.part a.part).bind[daTile da]? else if a.firm then some (daTile da) else none

/-- The place of a device address for an access of `n` bytes that stays within one 64 KiB block, or none where R275 forbids it. -/
def place (s : State) (a : Agent) (da n : Nat) (write : Bool) : Option Place :=
  let sp := daSpace da
  if sp = 0 then s.translate a.part da write
  else if sp = 1 ∨ sp = 2 ∨ sp = 3 then
    match s.tileOf a da with
    | none => none
    | some t => if daOff da + n ≤ s.tileLimit sp t then some (.tile sp t (daOff da)) else none
  else if sp = 4 then some (.host a.fn (da % 2 ^ 44))
  else none

end State

/-- Cut a range at 64 KiB boundaries. -/
def cut64k : Nat → Nat → Nat → List (Nat × Nat)
  | 0, _, _ => []
  | fuel + 1, da, n =>
    if n = 0 then [] else
      let k := Nat.min n (65536 - da % 65536)
      (da, k) :: cut64k fuel (da + k) (n - k)
def pieces (da n : Nat) : List (Nat × Nat) := cut64k (n / 65536 + 2) da n

namespace State

/-- The places of a range, each with its length (R275: none where any of it is closed to the agent). -/
def places (s : State) (a : Agent) (da n : Nat) (write : Bool) : Option (List (Place × Nat)) :=
  (pieces da n).mapM (fun p => (s.place a p.1 p.2 write).map (·, p.2))

/-- A range that an agent may read or write at all. -/
def allowed (s : State) (a : Agent) (da n : Nat) (write : Bool) : Bool := (s.places a da n write).isSome

/-- A 64-byte HBM read for each line of a range of a tile's or a Sluice engine's work goes into the partition's histograms: its length is a
free value (R568). (DESIGN CHOICE, log entry 36) -/
def hbmLatency (s : State) (a : Agent) (da n : Nat) : State :=
  if (s.part a.part).hists.isEmpty then s
  else ((s.places a da n false).getD []).foldl (fun s p =>
    match p.1 with
    | .hbm pa => (linesOf pa p.2).foldl (fun s l => let d := s.draw; d.2.interval a.part 0x05 (stackOf (64 * l) + 1) d.1) s
    | _ => s) s

/-- A line that a write of a range replaces in part only. -/
def partLine (off n line : Nat) : Bool := decide (64 * line < off) || decide (off + n < 64 * line + 64)

/-- A slot of an OPEN group (R86). -/
def openSlot (t : Tile) (i : Nat) : Bool := t.groups.any (fun e => e.2.isOpen && e.2.overlaps i (i + 1))

/-- What forbids a read at a place: a stopped tile, an OPEN group, an uncorrectable line (R86, R102, R133, R296, R490), a function
that may not issue requests (R536). -/
def readBar (s : State) (p : Place) (n : Nat) : Option Why :=
  match p with
  | .hbm pa => if (linesOf pa n).any s.rel.badHbm.contains then some (.status stUncorrectable) else none
  | .host fn _ => if (s.func fn).bme then none else some (.status stBusError)
  | .tile sp ph off =>
    let t := s.tile ph
    if t.stopped then some .held
    else if sp = 2 then
      if (slotsOf off n).any (openSlot t) then some (.status stConflict)
      else if (slotsOf off n).any t.badSlots.contains then some (.status stUncorrectable) else none
    else if sp = 1 then (if (linesOf off n).any t.badBasin.contains then some (.status stUncorrectable) else none)
    else if (List.range ((off % 16 + n + 15) / 16)).any (fun i => t.badAux.contains (off / 16 + i)) then
      some (.status stUncorrectable) else none

/-- What forbids a write at a place. -/
def writeBar (s : State) (p : Place) (n : Nat) : Option Why :=
  match p with
  | .hbm pa =>
    if (linesOf pa n).any (fun l => s.rel.badHbm.contains l && partLine pa n l) then some (.status stUncorrectable) else none
  | .host _ _ => none
  | .tile sp ph off =>
    let t := s.tile ph
    if t.stopped then some .held
    else if sp = 2 && (slotsOf off n).any (openSlot t) then some (.status stConflict) else none

/-- The committed value of a byte of a tile's Basin or auxiliary SRAM: what stood there before any uncommitted step (R287). -/
def committedByte (t : Tile) (sp off : Nat) : Option Byte :=
  t.steps.foldr (fun st acc =>
    st.undo.foldl (fun a u => if u.1 = sp ∧ u.2.1 = off then some u.2.2 else a) acc) none

/-- Bytes of a tile's Basin or auxiliary SRAM as another agent reads them: for each line that an uncommitted step has written, the
old content or the new (R287); `pick` says which. (DESIGN CHOICE, log entry 20) -/
def agentBytes (t : Tile) (sp off n : Nat) (pick : Nat) : List Byte :=
  let m := if sp = 1 then t.basin else t.aux
  (List.range n).map (fun i =>
    let o := off + i
    if pick.testBit (o / 64 - off / 64) then
      match committedByte t sp o with
      | some b => b
      | none => m.byte o
    else m.byte o)

/-- Read at a place. -/
def fetch (s : State) (p : Place) (n : Nat) : State × List Byte :=
  match p with
  | .hbm pa => (s.countHbm 1 pa n, s.hbm.bytes pa n)
  | .host _ a => (s, s.hostMem.bytes a n)
  | .tile sp ph off =>
    let t := s.tile ph
    if sp = 2 then (s, ((List.range (off % 128 + n)).map (fun i => t.cisternByte (off / 128 * 128 + i))).drop (off % 128))
    else if t.steps.all (fun x => x.undo.isEmpty) then (s, agentBytes t sp off n 0)
    else let d := s.draw; (d.2, agentBytes t sp off n d.1)

end State

/-- The groups whose footprint a foreign write touches lose their anchor (R264, R288, R480): what the tile's work has read or written
since their origin, the checkpoint among it, and in the Cistern the group's own slots. -/
def Tile.unanchor (t : Tile) (r : Range) : Tile :=
  { t with groups := t.groups.map (fun e =>
      if (t.foot.any (fun f => decide (e.2.origin ≤ f.step) && f.rng.overlaps r) || e.2.ckpt.any (·.overlaps r)
          || r.space == 2 && e.2.overlaps (r.lo / 128) ((r.hi + 127) / 128)) && !e.2.isFree
      then (e.1, { e.2 with anchored := false }) else e) }

/-- A foreign write to a tile's Basin or auxiliary SRAM: the bytes land, BGEN advances (R485), groups whose footprint it touches,
the checkpoint among it, lose their anchor (R264, R288, R480), and no uncommitted step holds these bytes' old values any more. -/
def Tile.foreignWrite (t : Tile) (sp off : Nat) (bs : List Byte) : Tile :=
  let r : Range := ⟨sp, off, off + bs.length⟩
  let m := (if sp = 1 then t.basin else t.aux).setBytes off bs
  let t1 : Tile := if sp = 1 then { t with basin := m } else { t with aux := m }
  { t1.unanchor r with
    bgen := if sp = 1 || decide (off < t.auxDemand) then t1.bgen + 1 else t1.bgen,
    badBasin := if sp = 1 then t1.badBasin.filter (fun l => !(decide (off ≤ 64 * l) && decide (64 * l + 64 ≤ off + bs.length)))
      else t1.badBasin,
    badAux := if sp = 1 then t1.badAux
      else t1.badAux.filter (fun l => !(decide (off ≤ 16 * l) && decide (16 * l + 16 ≤ off + bs.length))),
    steps := t1.steps.map (fun st =>
      { st with undo := st.undo.filter (fun u => !(u.1 == sp && decide (off ≤ u.2.1) && decide (u.2.1 < off + bs.length))) }) }

/-- Bytes written over slot images (R86: words 24 to 31 ignore writes). -/
def Tile.writeSlots (t : Tile) (off : Nat) (bs : List Byte) : Tile :=
  (slotsOf off bs.length).foldl (fun t sl =>
    let img := (t.slot sl).image
    let new := img.zipIdx.map (fun bi =>
      let o := 128 * sl + bi.2
      if off ≤ o ∧ o < off + bs.length then bs.getD (o - off) 0 else bi.1)
    let t1 := t.setSlot sl (Quire.ofImage new)
    if off ≤ 128 * sl ∧ 128 * sl + 128 ≤ off + bs.length then { t1 with badSlots := t1.badSlots.filter (· != sl) } else t1) t

namespace State

/-- Write at a place. A host write under a function that may not issue requests is discarded (R536). -/
def put (s : State) (p : Place) (bs : List Byte) : State :=
  match p with
  | .hbm pa =>
    let fresh (l : Nat) : Bool := (linesOf pa bs.length).contains l && !partLine pa bs.length l
    { s.countHbm 2 pa bs.length with
      hbm := s.hbm.setBytes pa bs,
      rel := { s.rel with badHbm := s.rel.badHbm.filter (fun l => !fresh l) } }
  | .host fn a => if (s.func fn).bme then { s with hostMem := s.hostMem.setBytes a bs } else s
  | .tile sp ph off => s.modTile ph (fun t => if sp = 2 then (t.writeSlots off bs).unanchor ⟨2, off, off + bs.length⟩ else t.foreignWrite sp off bs)

/-- The first thing that forbids an access to a list of places. -/
def barOf (bar : Place → Nat → Option Why) : List (Place × Nat) → Option Why
  | [] => none
  | p :: ps => match bar p.1 p.2 with
    | some w => some w
    | none => barOf bar ps

def fetchAll (s : State) : List (Place × Nat) → State × List Byte
  | [] => (s, [])
  | p :: ps =>
    let a := s.fetch p.1 p.2
    let b := fetchAll a.1 ps
    (b.1, a.2 ++ b.2)

def putAll (s : State) : List (Place × Nat) → List Byte → State
  | [], _ => s
  | p :: ps, bs => putAll (s.put p.1 (bs.take p.2)) ps (bs.drop p.2)

/-- Read a range through a device address: the bytes, or why not. -/
def load (s : State) (a : Agent) (da n : Nat) : Except Why (State × List Byte) :=
  match s.places a da n false with
  | none => .error (.status stNotPermitted)
  | some ps => match barOf s.readBar ps with
    | some w => .error w
    | none => .ok (s.fetchAll ps)

/-- Write a range through a device address: nothing is written where anything forbids it. -/
def store (s : State) (a : Agent) (da : Nat) (bs : List Byte) : Except Why State :=
  match s.places a da bs.length true with
  | none => .error (.status stNotPermitted)
  | some ps => match barOf s.writeBar ps with
    | some w => .error w
    | none => .ok (s.putAll ps bs)

/-- A write that is lost where it cannot land (R613). -/
def storeOrLose (s : State) (a : Agent) (da : Nat) (bs : List Byte) : State :=
  match s.store a da bs with
  | .ok s' => s'
  | .error _ => s

/-- What host software stores to its own memory before a command of its own. (DESIGN CHOICE, log entry 4) -/
def hostStores (s : State) (cs : List Host.Cell) : State :=
  { s with hostMem := cs.foldl (fun m c => m.setByte c.1 c.2) s.hostMem }

end State

end Sys2Proof.Machine
end

