-- ==== Sys2Proof/Machine/Rings.lean ====
section
/-! DEFINITION. Rings and what the device writes into them (R301, R320 to R324), and vectors with coalescing (R322). -/

namespace Sys2Proof.Machine

/-! ### Rings (R301) -/

def Queue.size (q : Queue) : Nat := 2 ^ q.log2
/-- (a − b) mod 2^(n+1). -/
def Queue.dist (q : Queue) (a b : Nat) : Nat := (a + 2 * q.size - b % (2 * q.size)) % (2 * q.size)
/-- Entries in the ring (R301). -/
def Queue.used (q : Queue) : Nat := if q.qtype = 0 then q.dist q.hostIdx q.devIdx else q.dist q.devIdx q.hostIdx
def Queue.full (q : Queue) : Bool := q.used == q.size
def Queue.entry (q : Queue) (idx : Nat) : Nat := q.base + 64 * (idx % q.size)
def Queue.next (q : Queue) (idx : Nat) : Nat := (idx + 1) % (2 * q.size)
def Queue.created (q : Queue) : Bool := q.st != .uncreated

/-- The agent of a queue's ring accesses (R534). -/
def State.ringAgent (s : State) (q : Queue) : Agent := { part := (s.func q.owner).bound.getD 0, fn := q.owner }

/-- Replace 32-bit word `i` of a record. -/
def setWord (bs : List Byte) (i v : Nat) : List Byte := bs.take (4 * i) ++ leBytes 4 v ++ bs.drop (4 * i + 4)

/-- A record as it is written: PHASE (R320), and for a digest-log record the TIME of its append (R474). -/
def stampRecord (q : Queue) (time : Nat) (bs : List Byte) : List Byte :=
  let w0 := leNat (bs.take 4)
  let b1 := setWord bs 0 (w0 + (if q.devIdx < q.size then 256 else 0))
  if w0 % 256 = 0x82 then setWord (setWord b1 12 (time % 2 ^ 32)) 13 (time / 2 ^ 32 % 2 ^ 32) else b1

namespace State

/-- Write one record into a ring that is not full, and count it for the vector (R320, R322). A write that cannot land is lost and
DEVIDX advances all the same (R613). -/
def writeRecord (s : State) (qi : Nat) (bs : List Byte) : State :=
  let q := s.queue qi
  let s1 := s.storeOrLose (s.ringAgent q) (q.entry q.devIdx) (stampRecord q s.time bs)
  let n := q.unrep + 1
  let hit := q.vecv && decide (Nat.max 1 q.coalcnt ≤ n)
  let s2 := s1.setQueue qi { q with devIdx := q.next q.devIdx, unrep := if hit then 0 else n }
  if hit then s2.raise q.owner q.vector else s2

/-- An event record (R324). -/
def eventBytes (s : State) (code source : Nat) (status : Word16) (d0 d1 : Nat) : List Byte :=
  wordsBytes ([0x83 + 65536 * code, source % 65536 + 65536 * status.toNat, d0 % 2 ^ 32, d0 / 2 ^ 32 % 2 ^ 32, d1 % 2 ^ 32,
    d1 / 2 ^ 32 % 2 ^ 32, s.time % 2 ^ 32, s.time / 2 ^ 32 % 2 ^ 32] ++ List.replicate 8 0)

/-- A record bound for a ring: event records that do not fit are counted and discarded, the others are held (R323). A ring that is no
longer there takes none. -/
def pushRecord (s : State) (qi : Nat) (bs : List Byte) : State :=
  let q := s.queue qi
  if !q.created then s
  else if q.full || !q.waiting.isEmpty then
    s.setQueue qi (if q.qtype = 3 then { q with lost := q.lost + 1 } else { q with waiting := q.waiting ++ [bs] })
  else s.writeRecord qi bs

/-- The event queue of a function (R307: at most one). -/
def eventQueue (s : State) (fn : Nat) : Option Nat :=
  (s.queues.find? (fun e => e.2.created && e.2.qtype == 3 && e.2.owner == fn)).map (·.1)

/-- An event for one function. -/
def eventTo (s : State) (fn code source : Nat) (status : Word16) (d0 d1 : Nat) : State :=
  match s.eventQueue fn with
  | none => s
  | some q => s.pushRecord q (s.eventBytes code source status d0 d1)

/-- An event concerning a partition: to every function bound to it (R324). -/
def eventPart (s : State) (part code source : Nat) (status : Word16) (d0 d1 : Nat) : State :=
  (s.boundFuncs part).foldl (fun s f => s.eventTo f code source status d0 d1) s

/-- An event concerning a partition that the PF receives too (R360, R456). -/
def eventBoth (s : State) (part code source : Nat) (status : Word16) (d0 d1 : Nat) : State :=
  (insAsc 0 (s.boundFuncs part)).foldl (fun s f => s.eventTo f code source status d0 d1) s

/-- A device-wide event: to the PF (R324). -/
def eventPF (s : State) (code source : Nat) (status : Word16) (d0 d1 : Nat) : State := s.eventTo 0 code source status d0 d1

/-- Write what waits for a ring while it has space (R323). -/
def drainRing (s : State) (qi : Nat) : Nat → State
  | 0 => s
  | n + 1 =>
    let q := s.queue qi
    match q.waiting with
    | [] => s
    | b :: rest => if q.full then s else drainRing ((s.setQueue qi { q with waiting := rest }).writeRecord qi b) qi n

/-- Space has freed in a device-written ring (R323). -/
def ringFreed (s : State) (qi : Nat) : State :=
  let q := s.queue qi
  if q.qtype = 3 then
    if q.lost = 0 || q.full then s
    else (s.setQueue qi { q with lost := 0 }).writeRecord qi (s.eventBytes 0x0205 qi stOk q.lost 0)
  else s.drainRing qi q.waiting.length

end State

end Sys2Proof.Machine
end

