-- ==== Sys2Proof/Machine/Sequencer.lean ====
section
/-! DEFINITION. The sequencer's program counter and loops (R251), what a failing tile does to its launch (R257 to R259), and the
checks an instruction meets when it would issue (R223, R255). -/

namespace Sys2Proof.Machine

/-! ### The program counter (R251) -/

/-- Add a register into another; register 0 as the destination is no increment (R251). -/
def Tile.bump (t : Tile) (inc str : Nat) : Tile := if inc = 0 then t else t.setAreg inc (t.areg inc + t.areg str)

/-- After instruction `i`, leave every loop body that ends there and has no iteration left, or return to its start. -/
def loopEnd (i : Nat) : List LoopRec → Tile → Tile
  | [], t => { t with loops := [], pc := i + 1 }
  | l :: ls, t =>
    if l.last != i then { t with loops := l :: ls, pc := i + 1 }
    else
      let t1 := (t.bump l.inc1 l.str1).bump l.inc2 l.str2
      let t2 : Tile := { t1 with ctrs := SMap.set 0 t1.ctrs l.ctr (l.left - 1) }
      if 1 < l.left then { t2 with loops := { l with left := l.left - 1 } :: ls, pc := l.first }
      else loopEnd i ls t2

/-- The instruction at the program counter has issued: its index is the last issued one, and the counter moves past it. -/
def Tile.advance (t : Tile) : Tile := loopEnd t.pc t.loops { t with lastIdx := t.pc, issued := t.issued + 1 }

/-! ### Undefined instructions (R223, R257) -/

/-- A word whose opcode, and whose operation field where the opcode has one (R237, R246, R248), names an instruction. (DEDUCED, log entry 21) -/
def definedInstr (w : Word128) : Bool :=
  let o := opcode w
  if o = 0x0C then decide (fld w 0 8 3 < 4)
  else if o = 0x15 then decide (fld w 0 8 3 < 6)
  else if o = 0x19 then decide (fld w 0 8 5 < 11)
  else [0x01, 0x02, 0x03, 0x08, 0x09, 0x0A, 0x0B, 0x10, 0x11, 0x14, 0x18, 0x20, 0x21, 0x22, 0x23, 0x24, 0x25, 0x26].contains o

/-- The word at an instruction index. -/
def Tile.instrAt (t : Tile) (i : Nat) : Word128 := SMap.get 0 t.code i

/-! ### A launch that fails (R259) -/

/-- Discard a tile's uncommitted steps; one whose commit is in progress finishes it (R271). Each line they wrote holds its old
content or the new (R287): `pick` says which. -/
def Tile.discard (t : Tile) (pick : Nat) : Tile :=
  let keep := t.steps.filter (·.sent)
  let drop := t.steps.filter (fun x => !x.sent)
  let undo := (drop.reverse.flatMap (·.undo)).filter (fun u => pick.testBit (2 * (u.2.1 / 64) + (if u.1 = 1 then 1 else 0)))
  let t1 := undo.foldl (fun (t : Tile) u =>
    if u.1 = 1 then { t with basin := t.basin.setByte u.2.1 u.2.2 } else { t with aux := t.aux.setByte u.2.1 u.2.2 }) t
  { t1 with steps := keep, wait := none, preempt := false, parked := false, cutRun := none, ended := true }

namespace State

/-- The running launch of a partition (R311: at most one). -/
def runningOf (s : State) (part : Nat) : Option Launch := s.launches.find? (fun l => l.ph == .running && l.part == part)

/-- The physical tiles on which a partition's launch runs. -/
def runTiles (s : State) (part : Nat) : List Nat := (s.tiles.filter (fun e => e.2.running && e.2.part == part)).map (·.1)

/-- Stop every tile of a partition's launch and discard what it has not committed. -/
def stopTiles (s : State) (part : Nat) : State :=
  (s.runTiles part).foldl (fun s ph => let d := s.draw; d.2.modTile ph (·.discard d.1)) s

/-- End a running launch with a status: the earliest failure stands (R259). -/
def endLaunch (s : State) (l : Launch) (status : Word16) (reason ltile instr : Nat) : State :=
  (s.modLaunch l.queue l.seq (fun x =>
    { x with ph := .ended, status := status, reason := reason, ltile := ltile, instr := instr })).stopTiles l.part

/-- A tile ends its launch (R257, R258). -/
def failTile (s : State) (ph : Nat) (status : Word16) (reason instr : Nat) : State :=
  match s.runningOf (s.tile ph).part with
  | none => s
  | some l => s.endLaunch l status reason (s.tile ph).ltile instr

/-- What the sequencer meets when it comes to issue next: the end of the code (R255), or a word that names no instruction. -/
def settle (s : State) (ph : Nat) : State :=
  let t := s.tile ph
  if !t.running || t.ended || t.wait.isSome then s
  else if t.ninstr ≤ t.pc then s.failTile ph stBadOpcode 0x0D t.lastIdx
  else if !definedInstr (t.instrAt t.pc) then s.failTile ph stBadOpcode 0x01 t.pc
  else s

end State

end Sys2Proof.Machine
end

