-- ==== Sys2Proof/Machine/Sync.lean ====
section
/-! DEFINITION. Sync objects and those who wait on them (R325 to R328). -/

namespace Sys2Proof.Machine

/-! ### Sync objects (R325 to R328) -/

namespace State

/-- Waiters whose target a counter has reached resume: tile WAITs and SYNC_WAIT packets (R327). (DEDUCED, log entry 65) -/
def wake (s : State) (obj : Nat) : State :=
  let v := s.counter obj
  { s with
    tiles := SMap.mapVals {} (fun _ t =>
      match t.wait with
      | some w =>
        if w.obj = obj ∧ w.target ≤ v.toNat ∧ t.running then
          (if t.stopped then { t with wait := some { w with met := true } } else { t with wait := none }.advance)
        else t
      | none => t) s.tiles,
    packets := s.packets.map (fun p =>
      match p.work with
      | .wait o target => if o = obj ∧ target.toNat ≤ v.toNat then { p with work := .done, status := stOk, detail := v.toNat } else p
      | _ => p) }

/-- Armed thresholds that a counter has reached fire once and disarm (R328). (DEDUCED, log entry 39) -/
def fireArms (s : State) (part obj : Nat) : State :=
  let v := (s.counter obj).toNat
  let hit := s.arms.filter (fun a => a.1 == obj && decide (a.2.threshold.toNat ≤ v))
  let s1 := { s with arms := s.arms.filter (fun a => !(a.1 == obj && decide (a.2.threshold.toNat ≤ v))) }
  hit.foldl (fun s a => s.eventPart part 0x0203 obj stOk v a.2.threshold.toNat) s1

/-- How many waiters a counter has satisfied. -/
def satisfied (s : State) (obj : Nat) : Nat :=
  let v := (s.counter obj).toNat
  (s.tiles.filter (fun e => match e.2.wait with
    | some w => w.obj == obj && decide (w.target ≤ v) && e.2.running && !w.met
    | none => false)).length
  + (s.packets.filter (fun p => match p.work with | .wait o target => o == obj && decide (target.toNat ≤ v) | _ => false)).length

/-- The intervals from a signal to the resumption of each waiter, at most 0.3 µs (R327, R568). -/
def resumed (s : State) (part : Nat) : Nat → State
  | 0 => s
  | n + 1 => let d := s.draw; resumed (d.2.interval part 0x03 0 (d.1 % 31)) part n

/-- Add to a sync object (R325): it stays at 2^64 − 1 where it would pass it and event 0x0204 is written; then its waiters. -/
def syncAdd (s : State) (obj amount : Nat) : State :=
  let sum := (s.counter obj).toNat + amount
  let part := (s.ownerOf (·.hasSync obj)).getD 0
  let s1 := s.setCounter obj (BitVec.ofNat 64 (Nat.min sum (2 ^ 64 - 1)))
  let s2 := if 2 ^ 64 - 1 < sum then s1.eventPart part 0x0204 obj stOk (sum - (2 ^ 64 - 1)) 0 else s1
  let before := s2.fireArms part obj
  let after := before.wake obj
  (before.tiles.filter (fun e => e.2.wait.isSome)).foldl (fun s e => s.settle e.1) (after.resumed part (before.satisfied obj))

end State

end Sys2Proof.Machine
end

