-- ==== Sys2Proof/Machine/Faults.lean ====
section
/-! DEFINITION. Fault records and the fault log (R497, R498, R612), event 0x0501 (R499), and the device that fails (R496, R548). -/

namespace Sys2Proof.Machine

/-- What a fault record names, but for its number and time. -/
structure FaultInfo where
  cls      : Nat
  severity : Nat
  kind     : Nat
  index    : Nat
  part     : Option Nat := none
  pkt      : Option (Nat × BitVec 32) := none
  ltile    : Nat := 0
  location : Nat := 0
  status   : Word16 := 0
  action   : Nat := 0
  detail   : Nat := 0
  deriving DecidableEq, Repr

/-- The words of a fault record (R497). -/
def FaultRec.words (f : FaultRec) : List Nat :=
  [f.seqno % 2 ^ 32,
   f.cls + f.severity * 2 ^ 8 + f.kind * 2 ^ 12 + f.index * 2 ^ 16 + (match f.part with | some p => p * 2 ^ 24 + 2 ^ 28 | none => 0),
   f.time % 2 ^ 32, f.time / 2 ^ 32 % 2 ^ 32,
   (match f.pkt with | some (q, _) => q + 2 ^ 14 | none => 0) + f.ltile * 2 ^ 16,
   (match f.pkt with | some (_, n) => n.toNat | none => 0),
   f.location % 2 ^ 32, f.location / 2 ^ 32 % 2 ^ 32, f.status.toNat + f.count * 2 ^ 16, f.action,
   f.detail % 2 ^ 32, f.detail / 2 ^ 32 % 2 ^ 32, 0, 0, 0, 0]

def logSize : Nat := 1024

/-- Remove the oldest record of severity 0 or 1, or else the oldest (R498). -/
def dropOldest (l : List FaultRec) : List FaultRec :=
  match l.find? (fun f => decide (f.severity ≤ 1)) with
  | some f => l.erase f
  | none => l.drop 1

namespace State

/-- The partition whose granule holds a faulty resource (R612). -/
def resourcePart (s : State) (kind index : Nat) : Option Nat :=
  if kind = 0 then s.ownerOf (·.hasTile index)
  else if kind = 3 then s.ownerOf (·.hasEngine index) else none

/-- Append or merge a fault record, and write event 0x0501 for severities 2 to 4 (R490, R498, R499). The last 16 records of
severity 3 or 4 are kept in flash (R498). -/
def report (s : State) (i : FaultInfo) : State :=
  let merges (f : FaultRec) : Bool :=
    decide (i.severity ≤ 1) && f.severity == i.severity && f.kind == i.kind && f.index == i.index && f.cls == i.cls
  if s.rel.log.any merges then
    { s with rel := { s.rel with log := s.rel.log.map (fun f =>
        if merges f then { f with count := Nat.min (f.count + 1) 0xFFFF, time := s.time } else f) } }
  else
    let r : FaultRec :=
      { seqno := s.rel.nextSeq, cls := i.cls, severity := i.severity, kind := i.kind, index := i.index, part := i.part,
        time := s.time, pkt := i.pkt, ltile := i.ltile, location := i.location, status := i.status, count := 1,
        action := i.action, detail := i.detail }
    let log := if s.rel.log.length < logSize then s.rel.log else dropOldest s.rel.log
    let s1 : State :=
      { s with rel := { s.rel with log := log ++ [r], nextSeq := s.rel.nextSeq + 1 },
               flash := if 3 ≤ i.severity then
                   { s.flash with faults := (s.flash.faults ++ [r]).drop (s.flash.faults.length + 1 - 16) } else s.flash }
    if i.severity < 2 then s1
    else
      let fns := insAsc 0 (match i.part with | some p => s.boundFuncs p | none => [])
      fns.foldl (fun s f => s.eventTo f 0x0501 (i.index + 256 * i.kind) i.status
        (r.seqno % 2 ^ 32 + i.cls * 2 ^ 32 + i.severity * 2 ^ 40) i.location) s1

/-- One more on the error counts of a resource (R369). -/
def tally (s : State) (kind index : Nat) (f : ErrCount → ErrCount) : State :=
  let k := kind * 256 + index
  { s with rel := { s.rel with counts := SMap.set {} s.rel.counts k (f (SMap.get {} s.rel.counts k)) } }

/-- The packet of the launch that runs on a tile. -/
def tilePacket (s : State) (ph : Nat) : Option (Nat × BitVec 32) :=
  (s.runningOf (s.tile ph).part).map (fun l => l.restore.getD (l.queue, l.seq))

/-- The resource and line of a place that a read of `n` bytes finds uncorrectable. -/
def faultyPlace (s : State) (p : Place) (n : Nat) : Option (Nat × Nat) :=
  match p with
  | .hbm pa => ((linesOf pa n).find? s.rel.badHbm.contains).map (fun l => (1, stackOf (64 * l)))
  | .tile _ ph _ => if s.readBar p n = some (.status stUncorrectable) then some (0, ph) else none
  | .host _ _ => none

/-- Report a read through a device address that met an uncorrectable line (R296, R490). -/
def reportRead (s : State) (a : Agent) (da n : Nat) (pkt : Option (Nat × BitVec 32)) (ltile : Nat) : State :=
  match ((s.places a da n false).getD []).findSome? (fun p => s.faultyPlace p.1 p.2) with
  | none => s
  | some (kind, index) =>
    (s.report { cls := if kind = 1 then 4 else 2, severity := 2, kind := kind, index := index, part := some a.part, pkt := pkt,
                ltile := ltile, location := da, status := stUncorrectable }).tally kind index
      (fun c => { c with uncorr := satInc c.uncorr })

/-- READY as every function sees it (R542). -/
def setReady (s : State) (on : Bool) : State :=
  { s with funcs := SMap.mapVals {} (fun _ f =>
      if f.present && f.mbx.ready != on then { f with mbx := { f.mbx with ready := on } }.setIrq 1 else f) s.funcs }

/-- The device declares itself failed: everything stops, FAILED and FAILCLASS are set, event 0x0501 and vector 1 go to the PF, the
record reaches flash, FAIL# is asserted (R496, R548). An ACTIVE link goes on for 16 marker periods that say FAILED with HEARTBEAT frozen,
then it powers down (R420, R496); the others power down at once. -/
def failDevice (s : State) (i : FaultInfo) : State :=
  if s.boot.failed then s
  else
    let s1 := s.report { i with severity := 4, action := 8, part := none }
    let s2 : State := { s1 with
      boot := { s1.boot with failed := true, failclass := BitVec.ofNat 8 i.cls, failPin := true,
                               aer := s1.boot.aer || s1.boot.pcieUp },
      links := SMap.mapVals {} (fun _ l => l.lastPeriods .down) s1.links }
    (s2.modFunc 0 (·.setIrq 2)).setReady false

end State

end Sys2Proof.Machine
end

