-- ==== Sys2Proof/Machine/Replay.lean ====
section
/-! DEFINITION. The journal of a tile: footprints, forced boundaries, space (R256, R261 to R265), and work done again from a boundary
(R262, R266, R477). -/

namespace Sys2Proof.Machine

/-! ### Ranges -/

/-- What a range leaves of another. -/
def Range.minus (r w : Range) : List Range :=
  if !r.overlaps w then [r]
  else (if r.lo < w.lo then [⟨r.space, r.lo, w.lo⟩] else []) ++ (if w.hi < r.hi then [⟨r.space, w.hi, r.hi⟩] else [])

def minusAll (rs ws : List Range) : List Range := ws.foldl (fun rs w => rs.flatMap (·.minus w)) rs

/-- Inputs since a step: what was read before it was written (R263). -/
def inputsSince (foot : List Foot) (step : Nat) : List Range :=
  (foot.foldl (fun (acc : List Range × List Range) f =>
    if f.step < step then acc
    else if f.write then (f.rng :: acc.1, acc.2)
    else (acc.1, minusAll [f.rng] acc.1 ++ acc.2)) ([], [])).2

def hits (rs ws : List Range) : Bool := rs.any (fun r => ws.any (fun w => r.overlaps w))

/-! ### Steps -/

/-- The uncommitted step now open. -/
def Tile.curStep (t : Tile) : StepRec := t.steps.getLast?.getD {}

/-- The state that the journal keeps of a boundary (R261). -/
def Tile.mark (t : Tile) : Mark :=
  { pc := t.pc, aregs := t.aregs, ctrs := t.ctrs, loops := t.loops, pack := t.pack, active := t.active, shadow := t.shadow,
    cistern := t.cistern, groups := t.groups, rows := t.rows, issued := t.issued }

/-- Keep the mark of the boundary that begins the current step. -/
def Tile.setMark (t : Tile) : Tile := { t with marks := SMap.set none t.marks t.stepNo (some t.mark) }

/-- A boundary: the current step ends and the next begins (R255, R260, R263). -/
def Tile.boundary (t : Tile) : Tile :=
  Tile.setMark { t.mapStep (fun x => { x with closed := true }) with
    steps := (t.mapStep (fun x => { x with closed := true })).steps ++ [{ num := t.stepNo + 1 }], stepNo := t.stepNo + 1 }

/-- The ranges of the tile's own Basin and auxiliary SRAM that deferred MOVEs of a step will read. -/
def deferredSrc (x : StepRec) : List Range :=
  x.deferred.map (fun d => ⟨daSpace d.src.toNat, daOff d.src.toNat, daOff d.src.toNat + d.len⟩)

/-- An instruction that changes what a deferred MOVE of a step has yet to read: by the ranges it writes, or by the slots it
changes (R256, R263). -/
def hitsDeferred (x : StepRec) (t t' : Tile) (wr : List Range) : Bool :=
  hits (deferredSrc x) wr ||
    (deferredSrc x).any (fun r => r.space == 2 &&
      (List.range ((r.hi - r.lo) / 128)).any (fun i => t.slot (r.lo / 128 + i) != t'.slot (r.lo / 128 + i)))

/-- The oldest step that the journal still needs: the oldest uncommitted one or the oldest origin (R263). -/
def Tile.oldest (t : Tile) : Nat :=
  (t.groups.filter (fun e => !e.2.isFree)).foldl (fun n e => Nat.min n e.2.origin)
    (t.steps.head?.elim t.stepNo (fun x => Nat.min t.stepNo x.num))

def journalEntries : Nat := 1536

/-- Steps whose boundary state the journal keeps: the uncommitted ones and the origins (R261). -/
def Tile.keeps (t : Tile) (step : Nat) : Bool :=
  t.steps.any (fun x => x.num == step) || t.groups.any (fun e => !e.2.isFree && e.2.origin == step)

/-- The journal lets go of what lies before its oldest step, and of states that nothing starts from. -/
def Tile.journalDrop (t : Tile) : Tile :=
  { t with foot := t.foot.filter (fun f => decide (t.oldest ≤ f.step)),
           images := t.images.filter (fun f => decide (t.oldest ≤ f.step)),
           outReads := t.outReads.filter (fun f => decide (t.oldest ≤ f.step)),
           marks := t.marks.filter (fun e => t.keeps e.1) }

/-- Bytes of the journal's 8 KiB that states and images take; a state takes the 256 bytes that R483 gives it in a save area.
(DEDUCED, log entry 74) -/
def Tile.journalBytes (t : Tile) : Nat := 256 * t.marks.length + (t.images.map (fun i => i.bytes.length)).foldl (· + ·) 0

/-- The journal is out of space (R265): 1,536 footprint entries, or the 8 KiB for state and images. -/
def Tile.journalFull (t : Tile) : Bool := decide (journalEntries < t.foot.length) || decide (8192 < t.journalBytes)

/-- While the journal is out of space, the oldest OPEN group loses its anchor and its origin moves to the current step (R265). -/
def Tile.journalTrim : Nat → Tile → Tile
  | 0, t => t.journalDrop
  | n + 1, t =>
    let t1 := t.journalDrop
    if !t1.journalFull then t1
    else
      match t1.groups.filter (fun e => e.2.isOpen && (e.2.anchored || decide (e.2.origin < t1.stepNo))) with
      | [] => t1
      | o :: os =>
        let h := os.foldl (fun b e => if e.2.origin < b.2.origin then e else b) o
        Tile.journalTrim n (t1.setGroup h.1 { h.2 with anchored := false, origin := t1.stepNo })

/-- Out of space with no OPEN group left to give up: a forced boundary is due before the next instruction, once the current step has
entries (R265). -/
def Tile.journalDue (t : Tile) : Bool := t.journalFull && t.foot.any (fun f => f.step == t.stepNo)

/-- The footprint takes an instruction's ranges, and groups whose inputs it writes lose their anchor (R263, R264). -/
def Tile.record (t : Tile) (rd wr : List Range) : Tile :=
  let add (write : Bool) (l : List Foot) (r : Range) : List Foot :=
    if l.contains ⟨r, write, t.stepNo⟩ || r.hi ≤ r.lo then l else l ++ [⟨r, write, t.stepNo⟩]
  let foot1 := rd.foldl (add false) t.foot
  let groups := t.groups.map (fun e =>
    if e.2.anchored && !e.2.isFree && (hits (inputsSince foot1 e.2.origin) wr || wr.any (fun r => e.2.ckpt.any (·.overlaps r))) then (e.1, { e.2 with anchored := false }) else e)
  { t with foot := wr.foldl (add true) foot1, groups := groups }

/-! ### Images (R262) -/

/-- The images that replay restores: the oldest of each region since a step. -/
def Tile.restoreImages (t : Tile) (step : Nat) : Tile :=
  { t with basin := (t.images.filter (fun i => decide (step ≤ i.step))).reverse.foldl (fun m i => m.setBytes i.off i.bytes) t.basin }

/-! ### Control instructions on the tile alone (R250 to R252) -/

/-- A 32-bit immediate sign-extended to 48 bits (R250). -/
def imm48 (w : Word128) : Addr48 := BitVec.ofInt 48 (sfld w 1 0 32)

/-- The result of a SETA (R250). -/
def setaResult (t : Tile) (w : Word128) : Addr48 :=
  let a := t.areg (fld w 0 12 4)
  let b := t.areg (fld w 0 16 4)
  let i := imm48 w
  match fld w 0 20 3 with
  | 0 => i
  | 1 => a + i
  | 2 => a + b
  | 3 => a * i
  | 4 => a <<< fld w 1 0 6
  | 5 => a >>> fld w 1 0 6
  | 6 => a &&& i
  | _ => BitVec.ofNat 48 (a.toNat % 2 ^ 32 + fld w 1 0 16 * 2 ^ 32)

/-- LOOP (R251): a count of zero or less skips the body. -/
def tileLOOP (t : Tile) (w : Word128) : Tile ⊕ (Word16 × Nat) :=
  let ctr := fld w 0 8 2
  let last := t.pc + fld w 2 0 11 + 1
  let count := (t.areg (fld w 0 10 4) + imm48 w).toInt
  if !onlyFields w 0x3FFF 0xFFFF_FFFF 0x7FF 0xFFFF then .inr (stBadOpcode, 0x01)
  else if t.loops.any (fun l => l.ctr == ctr) || decide (t.ninstr ≤ last) || 4 ≤ t.loops.length
      || (match t.loops with | l :: _ => decide (l.last < last) | [] => false) then .inr (stBadOpcode, 0x0D)
  else if count ≤ 0 then .inl (loopEnd last t.loops { t with lastIdx := t.pc, issued := t.issued + 1 })
  else
    .inl { t with
      lastIdx := t.pc, pc := t.pc + 1, issued := t.issued + 1, ctrs := SMap.set 0 t.ctrs ctr count.toNat,
      loops := { ctr := ctr, first := t.pc + 1, last := last, left := count.toNat, inc1 := fld w 3 0 4, str1 := fld w 3 4 4,
                 inc2 := fld w 3 8 4, str2 := fld w 3 12 4 } :: t.loops }

/-- The innermost loop body that contains an index, from the layout of the code: the shortest, or none (R252). -/
def innermost (t : Tile) (i : Nat) : Option (Nat × Nat) :=
  (t.code.filterMap (fun e =>
    if opcode e.2 = 0x20 ∧ e.1 < t.ninstr then some (e.1 + 1, e.1 + 1 + fld e.2 2 0 11) else none)).foldl
    (fun best b =>
      if b.1 ≤ i ∧ i ≤ b.2 then
        match best with
        | some c => if b.2 - b.1 < c.2 - c.1 then some b else best
        | none => some b
      else best) none

/-- The condition of a BRANCH (R252). -/
def branchTaken (t : Tile) (w : Word128) : Bool :=
  let a := t.areg (fld w 0 11 4)
  let b := t.areg (fld w 0 15 4) + imm48 w
  match fld w 0 8 3 with
  | 0 => true
  | 1 => a == b
  | 2 => a != b
  | 3 => decide (a.toNat < b.toNat)
  | 4 => decide (b.toNat ≤ a.toNat)
  | 5 => decide (a.toInt < b.toInt)
  | _ => decide (b.toInt ≤ a.toInt)

/-- BRANCH (R252). -/
def tileBRANCH (t : Tile) (w : Word128) : Tile ⊕ (Word16 × Nat) :=
  let target : Int := t.pc + sfld w 2 0 16
  if !onlyFields w 0x7_FFFF 0xFFFF_FFFF 0xFFFF 0 || fld w 0 8 3 = 7 then .inr (stBadOpcode, 0x01)
  else if !branchTaken t w then .inl t.advance
  else if target < 0 || (t.ninstr : Int) ≤ target || innermost t target.toNat != innermost t t.pc then .inr (stBadOpcode, 0x0D)
  else .inl { t with lastIdx := t.pc, pc := target.toNat, issued := t.issued + 1 }

/-! ### Work done again (R262) -/

/-- The operation fields that tell instructions of one opcode apart (R237, R246, R248). -/
def isMove (m : Nat) (w : Word128) : Bool := opcode w == 0x0C && fld w 0 8 3 == m
def isRstat (op : Nat) (w : Word128) : Bool := opcode w == 0x15 && fld w 0 8 3 == op
def isNear (op : Nat) (w : Word128) : Bool := opcode w == 0x19 && fld w 0 8 5 == op

/-- The agent a kernel is to memory outside its tile: its partition, LOG = 1 only (R274). -/
def State.kernelAgent (s : State) (ph : Nat) : Agent := { part := (s.tile ph).part, fn := 0 }

/-- Images of a collective merged into slots; with the slots themselves as the contribution, R − C is added (R447). -/
def Tile.mergeInto (t : Tile) (sl : Nat) (rs : List Quire) (mine : Option (List Quire)) : Tile :=
  rs.zipIdx.foldl (fun t r =>
    let old := t.slot (sl + r.2)
    let new := match mine with
      | none => old.merge r.1
      | some cs =>
        let c := cs.getD r.2 {}
        let z := (old.addInt (r.1.total - c.total)).orSpecial r.1
        { z with ovx := z.ovx || r.1.ovx }
    t.setSlot (sl + r.2) new) t

/-- Put bytes at an own address, as the tile's own instruction. -/
def Tile.ownPut (t : Tile) (da : Nat) (bs : List Byte) : Tile :=
  if daSpace da = 2 then t.writeSlots (daOff da) bs else t.write (daSpace da) (daOff da) bs

/-- A tile put back to the boundary that begins a step: sequencer state, images, and the work as it stood there. -/
def Tile.backTo (t : Tile) (step : Nat) (m : Mark) : Tile :=
  { t.restoreImages step with
    pc := m.pc, aregs := m.aregs, ctrs := m.ctrs, loops := m.loops, pack := m.pack, active := m.active, shadow := m.shadow,
    cistern := m.cistern, groups := m.groups, rows := m.rows, issued := m.issued }

namespace State

/-- What instructions read beyond their tile (R152, R188). -/
def tctx (s : State) (ph : Nat) : TCtx :=
  { cst := fun i => if (s.part (s.tile ph).part).hasCst (dieOf ph) i then some (s.cstEntry (dieOf ph) i) else none,
    jet := fun i => SMap.get none s.jet.slots i,
    konst := fun i => SMap.get 0 s.jet.consts i }

/-- What a MOVE with MODE COPY does when it is done again: a copy out is not repeated, a copy in reads the outside as it stands
(R262, R266). -/
def redoCopy (s : State) (ph : Nat) (t : Tile) (w : Word128) : Except Word16 Tile :=
  let src := moveSrc t w
  let dst := moveDst t w
  let len := moveLen w
  let own (a : Nat) : Bool := t.ownAddr a 1 || t.ownAddr a 2 || t.ownAddr a 3
  if len = 0 || !own dst then .ok t
  else if own src then .ok (t.ownPut dst (t.ownBytes (daSpace src) (daOff src) len))
  else match s.load (s.kernelAgent ph) src len with
    | .ok (_, bs) => .ok (t.ownPut dst bs)
    | .error (.status st) => .error st
    | .error .held => .ok t

/-- The instruction at a scratch tile's program counter, done again: SIGNALs and deferred writes are not repeated, a WAIT is met at once
(R262). -/
def redo (s : State) (ph : Nat) (t : Tile) : Except Word16 Tile :=
  let w := t.instrAt t.pc
  let cx := s.tctx ph
  let on (r : TRes) : Except Word16 Tile :=
    match r with
    | .ok t' _ _ => .ok t'.advance
    | .illegal _ => .error stBadOpcode
    | .fail st => .error st
    | .hold t' => .ok t'.advance
  let ctl (r : Tile ⊕ (Word16 × Nat)) : Except Word16 Tile := match r with | .inl t' => .ok t' | .inr e => .error e.1
  match opcode w with
  | 0x01 => on (tileLOADW t w)
  | 0x02 => on (tileSTREAM t w)
  | 0x03 => on (tilePACKCFG t w)
  | 0x08 => on (tileGOPEN t w)
  | 0x09 => on (tileGCLOSE t w)
  | 0x0A => on (tileDRAIN t w)
  | 0x0B => on (tileQEXPORT t w)
  | 0x0C =>
    if isMove 0 w then (s.redoCopy ph t w).map Tile.advance
    else if isMove 1 w then on (tileMERGE t w false) else if isMove 2 w then on (tileMERGE t w true) else on (tileSTATUS t w)
  | 0x10 => on (tileREQUANT cx t w)
  | 0x11 => on (tileCVT t w)
  | 0x14 => on (tileJET cx t w)
  | 0x15 =>
    on (match fld w 0 8 3 with
      | 0 => tileSMINIT t w | 1 => tileSMTERM t w | 2 => tileSMMERGE t w | 3 => tileSMNORM t w | 4 => tileNSTAT t w
      | _ => tileNVAR t w)
  | 0x18 => on (tileTLOAD t w)
  | 0x19 =>
    on (match fld w 0 8 5 with
      | 0 => tileNEAR .copy t w | 1 => tileNEAR .add t w | 2 => tileNEAR .sub t w | 3 => tileNEAR .mul t w | 4 => tileNEAR .max t w
      | 5 => tileNEAR .min t w | 6 => tileNEAR .fma t w | 7 => tileNEAR .normrow t w | 8 => tileNEAR .affcol t w
      | 9 => tileNEAR .neg t w | _ => tileNEAR .abs t w)
  | 0x20 => ctl (tileLOOP t w)
  | 0x21 => ctl (tileBRANCH t w)
  | 0x22 => .ok (t.setAreg (fld w 0 8 4) (setaResult t w)).advance
  | _ => .ok t.advance

/-- `n` instructions done again. -/
def redoAll (s : State) (ph : Nat) : Nat → Tile → Except Word16 Tile
  | 0, t => .ok t
  | n + 1, t => match s.redo ph t with
    | .ok t' => redoAll s ph n t'
    | .error e => .error e

/-- Outside memory that a MOVE has read since a step, and that reads otherwise now (R266). -/
def outsideChanged (s : State) (ph : Nat) (t : Tile) (step : Nat) : Bool :=
  t.outReads.any (fun r => decide (step ≤ r.step) &&
    (match s.load (s.kernelAgent ph) r.addr r.data.length with
     | .ok (_, bs) => bs != r.data
     | .error _ => true))

/-- Images that collectives have delivered into a tile's OPEN groups since a step, merged again (R448). -/
def remerge (s : State) (ph step : Nat) (t : Tile) : Tile :=
  (s.comms.flatMap (fun e => match e.2 with | some c => c.kept | none => [])).foldl (fun t k =>
    if k.tile = ph ∧ step ≤ k.step then t.mergeInto k.slot [Quire.ofImage k.image] (k.mine.map (fun m => [Quire.ofImage m])) else t) t

/-- Replay from a step (R261, R262, R266). While the outside memory that MOVEs have read is unchanged, every re-executed write repeats
its bytes and every rebuilt quire its value, so nothing changes. Where it has changed, the work is done again from the state of that
boundary: the affected groups' quires and the tile's memory are those of the new data, with the images that collectives have delivered (R448). -/
def rework (s : State) (ph : Nat) (t : Tile) (groups : List Nat) (step : Nat) : Except Word16 Tile :=
  match SMap.get none t.marks step with
  | none => .ok t
  | some m =>
    if !s.outsideChanged ph t step then .ok t
    else match s.redoAll ph (t.issued - m.issued) (t.backTo step m) with
      | .error e => .error e
      | .ok r0 =>
        let r := s.remerge ph step r0
        let mine (sl : Nat) : Bool := groups.any (fun h => decide ((t.group h).base ≤ sl) && decide (sl < (t.group h).base + (t.group h).slots))
        .ok { t with basin := r.basin, aux := r.aux, bgen := r.bgen,
                     cistern := (t.cistern.filter (fun e => !mine e.1) ++ r.cistern.filter (fun e => mine e.1)).foldl
                       (fun m e => SMap.set Quire.cleared m e.1 e.2) [] }

end State

end Sys2Proof.Machine
end

