-- ==== Sys2Proof/Machine/Kernel.lean ====
section
/-! DEFINITION. How an instruction issues on a tile: the conditions of R215 that the model keeps, footprints and forced boundaries
(R263 to R265), uncorrectable lines met by an instruction (R102, R167, R299), and digests (R470 to R473). -/

namespace Sys2Proof.Machine

/-! ### Uncorrectable lines -/

inductive Damage where
  | replay (location : Nat)
  | lost (location : Nat)
  deriving DecidableEq, Repr

/-- An instruction that reads an uncorrectable line of the tile's own memory: replay where work since the oldest origin wrote the
line, else the launch is lost (R167, R299, R477). -/
def Tile.damage (t : Tile) (rd : List Range) : Option Damage :=
  let inR (sp unit l : Nat) := rd.any (fun r => r.overlaps ⟨sp, unit * l, unit * l + unit⟩)
  let lines := (t.badBasin.filter (inR 1 64)).map (fun l => (⟨1, 64 * l, 64 * l + 64⟩ : Range))
  let own (sp off : Nat) := sp * 2 ^ 44 + 2 ^ 43 + t.ltile * 2 ^ 24 + off
  match t.badAux.filter (inR 3 16), lines with
  | l :: _, _ => some (.lost (own 3 (16 * l)))
  | [], [] => none
  | [], l :: ls =>
    if (l :: ls).all (fun l => t.foot.any (fun f => f.write && decide (t.oldest ≤ f.step) && f.rng.overlaps l)) then
      some (.replay (own 1 l.lo))
    else some (.lost (own 1 l.lo))

/-- The issue slot of an instruction, in the order of R214. -/
def issueSlot (w : Word128) : Nat :=
  let o := opcode w
  if o ≤ 0x03 then 0 else if o ≤ 0x0C then 1 else if o ≤ 0x11 then 2 else if o = 0x14 then 3 else if o = 0x15 then 4
  else if o ≤ 0x19 then 5 else 6

/-- What an instruction adds to its tile's counters beside INSTR_ISSUED: event, cycles, value a cycle, part (R561). -/
def opCounts (t t' : Tile) (w : Word128) : List (Nat × Nat × Nat × Nat) :=
  let o := opcode w
  (if o = 0x02 then
    [(0x004, if flag w 0 10 then (t.pack.map (·.2.rows)).foldl Nat.max 0 else fld w 2 0 16 + 1, 1, 0)] else [])
  ++ (if o = 0x10 then [(0x00C, 1, (fld w 1 13 13 + 1) * (fld w 2 7 7 + 1), 1)] else [])
  ++ (if o = 0x11 then [(0x00C, 1, t.regNat w 2 4, 2)] else [])
  ++ (if o = 0x14 then [(0x00D, 1, t.regNat w 2 20, 0)] else [])
  ++ [(0x00F, (t'.cstCache.filter (fun l => !t.cstCache.contains l)).length, 1, 0)]

/-- Lines that an instruction replaces whole are sound again. -/
def Tile.mend (t : Tile) (wr : List Range) : Tile :=
  let covers (sp unit l : Nat) := wr.any (fun r => r.space == sp && decide (r.lo ≤ unit * l) && decide (unit * l + unit ≤ r.hi))
  { t with badBasin := t.badBasin.filter (fun l => !covers 1 64 l), badAux := t.badAux.filter (fun l => !covers 3 16 l) }

/-! ### Issue -/

/-- The tile stands at an instruction word and nothing holds issue (R215, R253, R255, R133). -/
def Tile.canIssue (t : Tile) (w : Word128) : Bool :=
  t.running && !t.ended && !t.stopped && !t.parked && t.wait.isNone && decide (t.pc < t.ninstr) && t.instrAt t.pc == w

namespace State

/-- Replay on a tile after a fault of a class: everything it abandons is done again (`rework`: with the same bits while no outside
memory that it read has changed), from the oldest uncommitted boundary or the oldest origin of an affected group (R261, R262, R477);
beside that the count, the records and the damaged lines change. A group that must be rebuilt and is unanchored ends the launch (R264), and so does the
fourth fault since the count was last zero (R478): the unit is then persistently faulty, an array's repair is due, and any other unit's
tile is retired (R500). The pass and row of a residue mismatch stand in DETAIL in a form that is open. -/
def replayTile (s : State) (ph cls : Nat) (array : Bool) (groups : List Nat) (location : Nat) (mended : Tile → Tile) : State :=
  let t := s.tile ph
  let d := s.draw
  let info : FaultInfo := { cls := cls, severity := 1, kind := 0, index := ph, part := s.resourcePart 0 ph, pkt := s.tilePacket ph,
                            ltile := t.ltile, location := location, action := if groups.isEmpty then 2 else 3,
                            detail := if cls = 5 then d.1 % 2 ^ 64 else 0 }
  let s0 := d.2.tally 0 ph (fun c =>
    { c with residue := if cls = 5 then satInc c.residue else c.residue, uncorr := if cls = 2 then satInc c.uncorr else c.uncorr })
  if groups.any (fun h => !(t.group h).anchored && !(t.group h).isFree) then
    (s0.report { info with cls := 0x0B, severity := 2, status := stReplay, action := 0 }).failTile ph stReplay 0 t.pc
  else
    let s1 := (s0.report info).tally 0 ph (fun c => { c with replays := satInc c.replays })
    if 3 ≤ t.replays then
      let s2 := s1.report { info with cls := 0x0A, severity := 3, status := stReplay, action := if array then 5 else 6, location := 0,
                                      detail := 0 }
      let r := if array then { s2.rel with persist := insAsc ph s2.rel.persist } else { s2.rel with dueTiles := s2.rel.dueTiles ++ [(ph, true)] }
      { s2 with rel := r }.failTile ph stReplay 0 t.pc
    else
      let start := groups.foldl (fun n h => if (t.group h).isFree then n else Nat.min n (t.group h).origin)
        (t.steps.head?.elim t.stepNo (·.num))
      match s1.rework ph t groups start with
      | .error st => s1.failTile ph st 0 t.pc
      | .ok t' => (s1.setTile ph { mended t' with replays := t.replays + 1 }).count (unitTile ph) 0x012 1 1 0

/-- The launch on a tile loses an input to an uncorrectable line (R153, R167, R299). -/
def loseTile (s : State) (ph kind index location : Nat) : State :=
  let t := s.tile ph
  let s1 := (s.report { cls := 2, severity := 2, kind := kind, index := index, part := s.resourcePart 0 ph, pkt := s.tilePacket ph,
                        ltile := t.ltile, location := location, status := stUncorrectable }).tally kind index
    (fun c => { c with uncorr := satInc c.uncorr })
  s1.failTile ph stUncorrectable 0 t.pc

/-- An instruction that no hazard holds takes effect, and the tile moves on. -/
def accept (s : State) (ph : Nat) (t' : Tile) (rd wr : List Range) : State :=
  let t := s.tile ph
  match t.damage rd with
  | some (.lost l) => s.loseTile ph 0 ph l
  | some (.replay l) =>
    s.replayTile ph 2 false [] l (fun t => { t with badBasin := t.badBasin.filter (fun l =>
      !(rd.any (fun r => r.overlaps ⟨1, 64 * l, 64 * l + 64⟩))) })
  | none =>
    let s1 := s.setTile ph (((t'.record rd wr).mend wr).journalTrim 33).advance
    let w := t.instrAt t.pc
    let s2 := (opCounts t t' w).foldl (fun s e => s.count (unitTile ph) e.1 e.2.1 e.2.2.1 e.2.2.2) s1
    (s2.count (unitTile ph) 0x001 1 1 (2 ^ issueSlot w)).settle ph

/-- Issue of an instruction of a unit (R215, R217): illegal and failing cases end the launch (R257, R258); a write of an input of
the current step, or of a deferred MOVE's source, first ends the step (R263), as does a journal out of space with no OPEN group
(R265); it waits while four steps are uncommitted. -/
def issueWith (s : State) (ph : Nat) (w : Word128) (run : State → Tile → State × TRes) : State :=
  let t := s.tile ph
  if !t.canIssue w then s
  else
    let r := run s t
    match r.2 with
    | .illegal reason => s.failTile ph stBadOpcode reason t.pc
    | .fail st => r.1.failTile ph st 0 t.pc
    | .hold t' => s.setTile ph t'
    | .ok t' rd wr =>
      if hits (inputsSince t.foot t.stepNo) wr || hitsDeferred t.curStep t t' wr || t.journalDue then
        if 4 ≤ t.steps.length then s
        else
          let t1 := t.boundary
          let s1 := (s.setTile ph t1).count (unitTile ph) 0x011 1 1 0
          if t1.steps.any (fun x => hitsDeferred x t t' wr) then s1
          else
            let r1 := run s1 t1
            match r1.2 with
            | .ok t2 rd2 wr2 => r1.1.accept ph t2 rd2 wr2
            | _ => s1
      else if t.steps.any (fun x => hitsDeferred x t t' wr) then s
      else r.1.accept ph t' rd wr

/-- Issue of an instruction that works on its tile alone. (DEDUCED, log entry 19) -/
def issue (s : State) (ph : Nat) (w : Word128) (mine : Bool) (f : Tile → TRes) : State :=
  s.when mine (fun s => s.issueWith ph w (fun s t => (s, f t)))

end State

/-! ### Digests (R470 to R473) -/

def maxTags : Nat := 64

/-- Fold one instruction's stream into the running digest of its tag; a 65th tag is only counted. -/
def Tile.foldDigest (t : Tile) (f : Nat × List Byte) : Tile :=
  if t.digests.any (fun d => d.tag == f.1) then
    { t with digests := t.digests.map (fun d =>
        if d.tag = f.1 then { d with crc := BitVec.ofNat 64 (crc64 d.crc.toNat f.2), bytes := d.bytes + f.2.length,
                                     instrs := d.instrs + 1 } else d) }
  else if t.digests.length < maxTags then
    { t with digests := t.digests ++ [⟨f.1, BitVec.ofNat 64 (crc64 0 f.2), f.2.length, 1⟩] }
  else { t with untracked := t.untracked + 1 }

end Sys2Proof.Machine
end

