-- ==== Sys2Proof/Machine/TileArray.lean ====
section
/-! DEFINITION. Tile instructions of the ARRAY, CISTERN, REQ, JET, RSU and BASIN slots as commands (R214, R223): each issues on a
tile that stands at it. -/

namespace Sys2Proof.Machine

/-- LOADW (R224, R225). -/
def execLoadw (tile : Nat) (word : Word128) (s : State) : Host.Outcome State Fault Refusal :=
  s.run (·.issue tile word (opcode word == 0x01) (tileLOADW · word))

/-- STREAM (R226 to R228). -/
def execStream (tile : Nat) (word : Word128) (s : State) : Host.Outcome State Fault Refusal :=
  s.run (·.issue tile word (opcode word == 0x02) (tileSTREAM · word))

/-- PACKCFG (R229 to R231). -/
def execPackcfg (tile : Nat) (word : Word128) (s : State) : Host.Outcome State Fault Refusal :=
  s.run (·.issue tile word (opcode word == 0x03) (tilePACKCFG · word))

/-- GOPEN (R84, R232). -/
def execGopen (tile : Nat) (word : Word128) (s : State) : Host.Outcome State Fault Refusal :=
  s.run (·.issue tile word (opcode word == 0x08) (tileGOPEN · word))

/-- GCLOSE (R85, R232). -/
def execGclose (tile : Nat) (word : Word128) (s : State) : Host.Outcome State Fault Refusal :=
  s.run (·.issue tile word (opcode word == 0x09) (tileGCLOSE · word))

/-- DRAIN (R233, R234). -/
def execDrain (tile : Nat) (word : Word128) (s : State) : Host.Outcome State Fault Refusal :=
  s.run (·.issue tile word (opcode word == 0x0A) (tileDRAIN · word))

/-- QEXPORT (R235, R236). -/
def execQexport (tile : Nat) (word : Word128) (s : State) : Host.Outcome State Fault Refusal :=
  s.run (·.issue tile word (opcode word == 0x0B) (tileQEXPORT · word))

/-! ### MOVE (R237 to R239) -/

/-- An address range that a kernel may not reach: space 4, a reserved space or bit, LOG = 0, a tile beyond the partition's count, an
offset beyond its memory, a page not mapped (R35, R238, R274, R275). The own auxiliary SRAM beyond AUXDEMAND is R291's. -/
def State.closedTo (s : State) (ph da len : Nat) (write : Bool) : Bool :=
  decide (4 ≤ daSpace da) && daSpace da != 5
    || decide (daSpace da < 4) && !(s.tile ph).ownAddr da 3 && !s.allowed (s.kernelAgent ph) da len write

/-- A MOVE that names an address closed to its kernel ends the launch with ST_NOT_PERMITTED before any other of its conditions is
looked at (R238, R258); `dlen` is how many bytes the destination takes. -/
def State.moveGuard (s : State) (ph : Nat) (t : Tile) (w : Word128) (dlen : Nat) (f : State × TRes) : State × TRes :=
  if moveFields w && moveLen w != 0 && (s.closedTo ph (moveSrc t w) (moveLen w) false || s.closedTo ph (moveDst t w) dlen true) then
    (s, .fail stNotPermitted)
  else f

/-- MOVE with MODE MERGE (R89, R238). -/
def execMoveMerge (tile : Nat) (word : Word128) (s : State) : Host.Outcome State Fault Refusal :=
  s.run (fun s => s.when (isMove 1 word) (·.issueWith tile word (fun s t =>
    s.moveGuard tile t word (moveLen word) (s, tileMERGE t word false))))

/-- MOVE with MODE MERGE of standard quires (R97, R238). -/
def execMoveMergeStandard (tile : Nat) (word : Word128) (s : State) : Host.Outcome State Fault Refusal :=
  s.run (fun s => s.when (isMove 2 word) (·.issueWith tile word (fun s t =>
    s.moveGuard tile t word (moveLen word / 64 * 128) (s, tileMERGE t word true))))

/-- MOVE with MODE STATUS (R100, R238); its source field is not an address that it reads, and only the destination is looked at. -/
def execMoveStatus (tile : Nat) (word : Word128) (s : State) : Host.Outcome State Fault Refusal :=
  s.run (fun s => s.when (isMove 3 word) (·.issueWith tile word (fun s t =>
    if moveFields word && moveLen word != 0 && s.closedTo tile (moveDst t word) (moveLen word) true then (s, .fail stNotPermitted)
    else (s, tileSTATUS t word))))

/-- An end of a COPY in the executing tile: the reason for which it may not be used. The kernel reaches its own auxiliary SRAM
below AUXDEMAND (R291); a copy into the own Cistern may not touch an
OPEN group (R238). -/
def ownEnd (t : Tile) (da len : Nat) (write : Bool) : Option Nat :=
  let sp := daSpace da
  if sp = 3 && t.auxDemand < daOff da + len then some 0x05
  else if sp = 2 && (daOff da % 128 != 0 || len % 128 != 0) then some 0x06
  else if sp = 2 && write && (slotsOf (daOff da) len).any (State.openSlot t) then some 0x0E
  else none

/-- COPY: within the tile at once; from outside at once; to outside when the step commits (R238, R239). -/
def tileCOPY (w : Word128) (s : State) (ph : Nat) (t : Tile) : State × TRes :=
  let src := moveSrc t w
  let dst := moveDst t w
  let len := moveLen w
  let own (a : Nat) : Bool := t.ownAddr a 1 || t.ownAddr a 2 || t.ownAddr a 3
  let cist (a : Nat) : Bool := daSpace a == 2
  let a := s.kernelAgent ph
  if !moveFields w then (s, .illegal 0x01)
  else if len = 0 then (s, .ok t [] [])
  else if s.closedTo ph src len false || s.closedTo ph dst len true then (s, .fail stNotPermitted)
  else if daSpace src = 5 || (!own src && !own dst) then (s, .illegal 0x0E)
  else if (cist src || cist dst) && ((cist src && daOff src % 128 != 0) || (cist dst && daOff dst % 128 != 0) || len % 128 != 0) then
    (s, .illegal 0x06)
  else if own src && own dst then
    match ownEnd t src len false, ownEnd t dst len true with
    | some r, _ => (s, .illegal r)
    | none, some r => (s, .illegal r)
    | none, none =>
      if cist src && (slotsOf (daOff src) len).any t.badSlots.contains then (s, .fail stUncorrectable)
      else (s, .ok (t.ownPut dst (t.ownBytes (daSpace src) (daOff src) len)) (ownRange src len) (ownRange dst len))
  else if own dst then
    match ownEnd t dst len true with
    | some r => (s, .illegal r)
    | none =>
      match s.load a src len with
      | .error (.status st) => (if st == stUncorrectable then s.reportRead a src len (s.tilePacket ph) t.ltile else s, .fail st)
      | .error .held => (s, .hold t)
      | .ok (s', bs) => (s'.hbmLatency a src len, .ok { t.ownPut dst bs with outReads := t.outReads ++ [⟨t.stepNo, src, bs⟩] } [] (ownRange dst len))
  else
    match ownEnd t src len false with
    | some r => (s, .illegal r)
    | none =>
        let d : Deferred := { idx := t.pc, src := BitVec.ofNat 48 src, dst := BitVec.ofNat 48 dst, len := len }
        (s, .ok (t.mapStep (fun x => { x with deferred := x.deferred ++ [d] })) [] [])

/-- MOVE with MODE COPY (R238, R239). -/
def execMoveCopy (tile : Nat) (word : Word128) (s : State) : Host.Outcome State Fault Refusal :=
  s.run (fun s => s.when (isMove 0 word) (·.issueWith tile word (fun s t => tileCOPY word s tile t)))

/-- The first entry that a REQUANT would fetch from the table, not from its tile's cache, and that holds an uncorrectable error (R153). -/
def State.badEntryRead (s : State) (ph : Nat) (t : Tile) (w : Word128) : Option Nat :=
  let n := if flag w 0 13 then fld w 1 13 13 + 1 else fld w 2 7 7 + 1
  let e := fld w 2 14 17
  ((List.range n).map (e + ·)).find? (fun i => !t.cstCache.contains (i / 8) && s.rel.badCst.contains (dieOf ph * 131072 + i))

/-- REQUANT (R152 to R162, R240, R241). -/
def execRequant (tile : Nat) (word : Word128) (s : State) : Host.Outcome State Fault Refusal :=
  s.run (fun s => s.when (opcode word == 0x10) (·.issueWith tile word (fun s t =>
    match tileREQUANT (s.tctx tile) t word with
    | .ok t' rd wr =>
      (match s.badEntryRead tile t word with
       | some i => (s.loseTile tile 4 (dieOf tile) i, .fail stUncorrectable)
       | none => (s, .ok t' rd wr))
    | r => (s, r))))

/-- CVT (R243). -/
def execCvt (tile : Nat) (word : Word128) (s : State) : Host.Outcome State Fault Refusal :=
  s.run (·.issue tile word (opcode word == 0x11) (tileCVT · word))

/-- JET (R244, R168 to R195). -/
def execJet (tile : Nat) (word : Word128) (s : State) : Host.Outcome State Fault Refusal :=
  s.run (·.issue tile word (opcode word == 0x14) (tileJET (s.tctx tile) · word))

/-! ### RSTAT (R196 to R212, R248, R249) -/

/-- SMINIT (R198). -/
def execSminit (tile : Nat) (word : Word128) (s : State) : Host.Outcome State Fault Refusal :=
  s.run (·.issue tile word (isRstat 0 word) (tileSMINIT · word))

/-- SMTERM (R199 to R203). -/
def execSmterm (tile : Nat) (word : Word128) (s : State) : Host.Outcome State Fault Refusal :=
  s.run (·.issue tile word (isRstat 1 word) (tileSMTERM · word))

/-- SMMERGE (R204). -/
def execSmmerge (tile : Nat) (word : Word128) (s : State) : Host.Outcome State Fault Refusal :=
  s.run (·.issue tile word (isRstat 2 word) (tileSMMERGE · word))

/-- SMNORM (R205). -/
def execSmnorm (tile : Nat) (word : Word128) (s : State) : Host.Outcome State Fault Refusal :=
  s.run (·.issue tile word (isRstat 3 word) (tileSMNORM · word))

/-- NSTAT (R206). -/
def execNstat (tile : Nat) (word : Word128) (s : State) : Host.Outcome State Fault Refusal :=
  s.run (·.issue tile word (isRstat 4 word) (tileNSTAT · word))

/-- NVAR (R208, R209). -/
def execNvar (tile : Nat) (word : Word128) (s : State) : Host.Outcome State Fault Refusal :=
  s.run (·.issue tile word (isRstat 5 word) (tileNVAR · word))

/-- TLOAD (R247). -/
def execTload (tile : Nat) (word : Word128) (s : State) : Host.Outcome State Fault Refusal :=
  s.run (·.issue tile word (opcode word == 0x18) (tileTLOAD · word))

/-! ### NEAR (R245, R246) -/

/-- NEAR COPY: a. -/
def execNearCopy (tile : Nat) (word : Word128) (s : State) : Host.Outcome State Fault Refusal :=
  s.run (·.issue tile word (isNear 0x00 word) (tileNEAR .copy · word))

/-- NEAR ADD: a + b. -/
def execNearAdd (tile : Nat) (word : Word128) (s : State) : Host.Outcome State Fault Refusal :=
  s.run (·.issue tile word (isNear 0x01 word) (tileNEAR .add · word))

/-- NEAR SUB: a − b. -/
def execNearSub (tile : Nat) (word : Word128) (s : State) : Host.Outcome State Fault Refusal :=
  s.run (·.issue tile word (isNear 0x02 word) (tileNEAR .sub · word))

/-- NEAR MUL: a × b. -/
def execNearMul (tile : Nat) (word : Word128) (s : State) : Host.Outcome State Fault Refusal :=
  s.run (·.issue tile word (isNear 0x03 word) (tileNEAR .mul · word))

/-- NEAR MAX: the greater of a and b. -/
def execNearMax (tile : Nat) (word : Word128) (s : State) : Host.Outcome State Fault Refusal :=
  s.run (·.issue tile word (isNear 0x04 word) (tileNEAR .max · word))

/-- NEAR MIN: the lesser of a and b. -/
def execNearMin (tile : Nat) (word : Word128) (s : State) : Host.Outcome State Fault Refusal :=
  s.run (·.issue tile word (isNear 0x05 word) (tileNEAR .min · word))

/-- NEAR FMA: a × b + c. -/
def execNearFma (tile : Nat) (word : Word128) (s : State) : Host.Outcome State Fault Refusal :=
  s.run (·.issue tile word (isNear 0x06 word) (tileNEAR .fma · word))

/-- NEAR NORMROW: (a − b[row]) × c[row]. -/
def execNormrow (tile : Nat) (word : Word128) (s : State) : Host.Outcome State Fault Refusal :=
  s.run (·.issue tile word (isNear 0x07 word) (tileNEAR .normrow · word))

/-- NEAR AFFCOL: a × b[col] + c[col]. -/
def execAffcol (tile : Nat) (word : Word128) (s : State) : Host.Outcome State Fault Refusal :=
  s.run (·.issue tile word (isNear 0x08 word) (tileNEAR .affcol · word))

/-- NEAR NEG: −a. -/
def execNearNeg (tile : Nat) (word : Word128) (s : State) : Host.Outcome State Fault Refusal :=
  s.run (·.issue tile word (isNear 0x09 word) (tileNEAR .neg · word))

/-- NEAR ABS: |a|. -/
def execNearAbs (tile : Nat) (word : Word128) (s : State) : Host.Outcome State Fault Refusal :=
  s.run (·.issue tile word (isNear 0x0A word) (tileNEAR .abs · word))

end Sys2Proof.Machine
end

