-- ==== Sys2Proof/Machine/TileControl.lean ====
section
/-! DEFINITION. Tile instructions of the CONTROL slot (R250 to R255). -/

namespace Sys2Proof.Machine

/-- A CONTROL instruction: executes at issue and leaves the program counter where it says. -/
def State.control (s : State) (ph : Nat) (w : Word128) (op : Nat) (mine : Bool) (f : Tile → Tile ⊕ (Word16 × Nat)) : State :=
  let t := s.tile ph
  if opcode w != op || !mine || !t.canIssue w then s
  else
    match f t with
    | .inr (st, reason) => s.failTile ph st reason t.pc
    | .inl t' => ((s.setTile ph t').count (State.unitTile ph) 0x001 1 1 64).settle ph

/-- SETA (R250). -/
def execSeta (tile : Nat) (word : Word128) (s : State) : Host.Outcome State Fault Refusal :=
  s.run (·.control tile word 0x22 true (fun t =>
    if !onlyFields word 0x7F_FFFF 0xFFFF_FFFF 0 0 then .inr (stBadOpcode, 0x01)
    else .inl (t.setAreg (fld word 0 8 4) (setaResult t word)).advance))

/-- LOOP (R251). -/
def execLoop (tile : Nat) (word : Word128) (s : State) : Host.Outcome State Fault Refusal :=
  s.run (·.control tile word 0x20 true (tileLOOP · word))

/-- BRANCH (R252). -/
def execBranch (tile : Nat) (word : Word128) (s : State) : Host.Outcome State Fault Refusal :=
  s.run (·.control tile word 0x21 true (tileBRANCH · word))

/-- The sync object a WAIT or SIGNAL names. -/
def syncIndex (t : Tile) (w : Word128) : Nat := (t.areg (fld w 0 16 4) + BitVec.ofNat 48 (fld w 1 0 15)).toNat
/-- A register zero-extended plus an unsigned immediate, as 64 bits. -/
def syncValue (t : Tile) (w : Word128) : Nat := ((t.areg (fld w 0 20 4)).toNat + fld w 2 0 32) % 2 ^ 64

/-- WAIT with MODE 0 (R253, R327): past it at once where the counter has reached the target, else it holds issue. -/
def execWaitSync (tile : Nat) (word : Word128) (s : State) : Host.Outcome State Fault Refusal :=
  s.run (fun s => s.control tile word 0x23 (!flag word 0 8) (fun t =>
    let obj := syncIndex t word
    if !onlyFields word 0xFF_FFFF 0x7FFF 0xFFFF_FFFF 0xFF_FFFF then .inr (stBadOpcode, 0x01)
    else if !(s.part t.part).hasSync obj then .inr (stBadSync, 0)
    else if syncValue t word ≤ (s.counter obj).toNat then .inl t.advance
    else .inl { t with wait := some { obj := obj, target := syncValue t word, timeout := fld word 3 0 24 } }))

/-- WAIT with MODE 1 (R253): every instruction issued earlier has completed, since each completes as it issues. -/
def execWaitLocal (tile : Nat) (word : Word128) (s : State) : Host.Outcome State Fault Refusal :=
  s.run (·.control tile word 0x23 (flag word 0 8) (fun t =>
    if !onlyFields word 0xFF_FFFF 0x7FFF 0xFFFF_FFFF 0xFF_FFFF then .inr (stBadOpcode, 0x01) else .inl t.advance))

/-- SIGNAL (R254): the addition waits for the commit of the step. (DEDUCED, log entry 66) -/
def execSignal (tile : Nat) (word : Word128) (s : State) : Host.Outcome State Fault Refusal :=
  s.run (fun s => s.control tile word 0x24 true (fun t =>
    let obj := syncIndex t word
    if !onlyFields word 0xFF_00FF 0x7FFF 0xFFFF_FFFF 0 then .inr (stBadOpcode, 0x01)
    else if !(s.part t.part).hasSync obj then .inr (stBadSync, 0)
    else .inl (t.mapStep (fun x => { x with signals := x.signals ++ [(obj, BitVec.ofNat 64 (syncValue t word))] })).advance))

/-- STEP (R255, R260): it waits while it would make a fifth uncommitted step. -/
def execStep (tile : Nat) (word : Word128) (s : State) : Host.Outcome State Fault Refusal :=
  let fields := onlyFields word 0xFF 0 0 0
  s.run (fun s => s.control tile word 0x25 (!(fields && decide (4 ≤ (s.tile tile).steps.length))) (fun t =>
    if !fields then .inr (stBadOpcode, 0x01) else .inl t.boundary.advance))

/-- END (R255): the final boundary; nothing further issues. -/
def execTileEnd (tile : Nat) (word : Word128) (s : State) : Host.Outcome State Fault Refusal :=
  s.run (·.control tile word 0x26 true (fun t =>
    if !onlyFields word 0xFF 0 0 0 then .inr (stBadOpcode, 0x01)
    else .inl { t.mapStep (fun x => { x with closed := true, final := true }) with ended := true, lastIdx := t.pc }))

/-- A WAIT at its limit ends the launch with ST_TIMEOUT (R253); without a limit, or while the tile's clocks are stopped, there is
none to reach (R133). -/
def execWaitTimeout (tile : Nat) (s : State) : Host.Outcome State Fault Refusal :=
  s.run (fun s =>
    let t := s.tile tile
    match t.wait with
    | some w => s.when (t.running && !t.stopped && !w.met && w.timeout != 0) (·.failTile tile stTimeout 0 t.pc)
    | none => s)

end Sys2Proof.Machine
end

