-- ==== Sys2Proof/Machine/Queues.lean ====
section
/-! DEFINITION. The Queue Manager's rows: doorbells (R304, R305), fetch (R303, R308, R613), dispatch (R308, R309), completion (R310,
R314, R321), coalescing (R322), and the shared checks of packets (R10, R14, R313). -/

namespace Sys2Proof.Machine

/-! ### Checks in the order of R14 -/

def statusRank (st : Word16) : Nat :=
  if st = stBadOpcode then 1 else if st = stNotPermitted then 2 else if st = stBadQueue then 3 else if st = stBadSync then 4
  else if st = stBadAlign then 5 else if st = stBadLength then 6 else if st = stConflict then 7 else if st = stBusy then 8 else 9

/-- The first failing check in the order of R14; ST_OK where none fails. -/
def firstFail (checks : List (Bool × Word16)) : Word16 :=
  checks.foldl (fun best c => if c.1 && (best == stOk || statusRank c.2 < statusRank best) then c.2 else best) stOk

/-- Words whose bits lie within masks; a word without a mask must be zero (R10). -/
def withinMasks (ws masks : List Nat) : Bool := ws.zipIdx.all (fun w => w.1 ||| masks.getD w.2 0 == masks.getD w.2 0)

def m32 : Nat := 0xFFFF_FFFF
def word (ws : List Nat) (i : Nat) : Nat := ws.getD i 0
/-- A 64-bit field in two words, low first. -/
def word64 (ws : List Nat) (i : Nat) : Nat := word ws i + 2 ^ 32 * word ws (i + 1)
/-- A 48-bit address in two words (R314). -/
def addr48 (ws : List Nat) (i : Nat) : Nat := word ws i + 2 ^ 32 * (word ws (i + 1) % 65536)

/-! ### The packet header (R313) -/

def pType (ws : List Nat) : Nat := word ws 0 % 256
def pBarrier (ws : List Nat) : Bool := (word ws 0).testBit 8
def pNocmpl (ws : List Nat) : Bool := (word ws 0).testBit 9
def pSig (ws : List Nat) : Bool := (word ws 0).testBit 10

/-- Reserved fields of the header, and fields that must be zero without SIG (R10, R313). -/
def headerOk (ws : List Nat) : Bool :=
  word ws 0 < 2 ^ 11 && word ws 2 < 2 ^ 15 && (pSig ws || (word ws 2 == 0 && word ws 3 == 0))

namespace State

/-- The partition a queue works for (R33). -/
def queuePart (s : State) (q : Nat) : Nat := ((s.func (s.queue q).owner).bound).getD 0

/-- The header's own checks: reserved fields, and the sync object of SIG (R313, R329). -/
def headerChecks (s : State) (p : Packet) : List (Bool × Word16) :=
  [(!headerOk p.words, stBadOpcode),
   (pSig p.words && !(s.part (s.queuePart p.queue)).hasSync (word p.words 2), stBadSync)]

/-- A packet has done all its type states, or failed: its completion is due (R314). The first end stands: what comes later, such as the
answer to a remote signal that has been aborted, changes nothing (R16). -/
def finish (s : State) (q : Nat) (seq : BitVec 32) (status : Word16) (detail : Nat) : State :=
  s.modPacket q seq (fun p => if p.work = .done then p else { p with work := .done, status := status, detail := detail })

/-- A CONTEXT_SAVE has its result, and completes after a packet of the launch it names (R318). -/
def saveDone (s : State) (save : Nat × BitVec 32) (launch : Nat × BitVec 32) (detail : Nat) : State :=
  s.modPacket save.1 save.2 (fun p => { p with work := .after launch.1 launch.2, detail := detail })

/-- The packet that a packet row works on: the oldest one that firmware has not validated (R309). -/
def frontPacket (s : State) (q : Nat) (seq : BitVec 32) (type : Nat) : Option Packet :=
  match s.packets.find? (fun p => p.work == .inbox) with
  | some p => if p.queue = q ∧ p.seq = seq ∧ pType p.words = type then some p else none
  | none => none

/-! ### Doorbells (R304, R305, R545) -/

/-- An accepted doorbell value (R305). -/
def bell (s : State) (q v : Nat) : State :=
  let c := s.queue q
  if c.qtype = 0 then
    s.setQueue q { c with hostIdx := v, bells := c.bells ++ List.replicate (c.dist v c.hostIdx) s.time }
  else
    let c1 := { c with hostIdx := v }
    (s.setQueue q (if c1.used = 0 then { c1 with unrep := 0 } else c1)).ringFreed q

/-- A doorbell write at the Queue Manager (R305). -/
def doorbell (s : State) (q value : Nat) : State :=
  let c := s.queue q
  let v := value % 2 ^ 21
  let part := (s.ownerOf (·.hasPage (q / 512))).getD 0
  let reject (st : Word16) : State :=
    (s.eventPart part 0x0202 q st value c.hostIdx).count unitQueues 0x002 1 1 0
  if !c.created then reject stBadQueue
  else if bits value 21 11 != 0 || bits value 53 11 != 0 || 2 * c.size ≤ v then reject stBadOpcode
  else if c.size < (if c.qtype = 0 then c.dist v c.devIdx else c.dist c.devIdx v) then reject stBadLength
  else if v = c.hostIdx then s
  else s.bell q v

/-- A write of a doorbell slot's entry through a function's BAR: dropped and recorded where the slot is not live (R545). -/
def slotWrite (s : State) (fn queue : Nat) (value : BitVec 64) : State :=
  if s.pageOwner (queue / 512) != some fn then
    s.modFunc fn (·.badAcc (0x10_0000 + 4096 * (queue / 512) + 8 * (queue % 512)) 2)
  else s.when s.live (fun s => (s.count unitQueues 0x001 1 1 0).doorbell queue value.toNat)

end State

/-- A function that answers BAR accesses (R536). -/
def Func.reach (f : Func) : Bool := f.present && f.mse

/-- A doorbell write through a function's BAR (R304, R545); nothing while Memory Space Enable is 0 (R536). -/
def execDblQueueWrite (fn queue : Nat) (value : BitVec 64) (stores : List Host.Cell) (s : State) :
    Host.Outcome State Fault Refusal :=
  .next (
    let s := s.hostStores stores
    s.when ((s.func fn).reach && decide (queue < 16384)) (·.barWrite.slotWrite fn queue value))

/-! ### Fetch (R303, R308, R613) -/

/-- Packets fetched ahead per submission queue (R300). -/
def fetchAhead : Nat := 8

/-- A queue from which a packet may be fetched (R308). -/
def Queue.fetchable (q : Queue) : Bool :=
  q.st == .active && q.qtype == 0 && q.used != 0 && decide (q.fetched.length < fetchAhead) && !q.fetchErr

/-- The next queue of a priority in round-robin order (R308). (DEDUCED, log entry 38) -/
def nextServed (l : List Nat) (last : Nat) : Option Nat :=
  match l.find? (fun i => decide (last < i)) with
  | some i => some i
  | none => l.head?

namespace State

/-- It is a queue's turn: no queue of higher priority can be served, and round robin among its equals has reached it (R308). -/
def turnOf (s : State) (q : Nat) : Bool :=
  let c := s.queue q
  let can := s.queues.filter (fun e => e.2.fetchable)
  c.fetchable && can.all (fun e => decide (e.2.prio ≤ c.prio))
    && nextServed ((can.filter (fun e => e.2.prio == c.prio)).map (·.1)) (s.served.getD c.prio 0) == some q

/-- The queue halts on a fetch that failed for good (R613). -/
def fetchFails (s : State) (q : Nat) (st : Word16) : State :=
  let c := s.queue q
  (s.setQueue q { c with st := .halted, fetchErr := false, retries := 0 }).eventPart (s.queuePart q) 0x0201 q st c.pktseq.toNat 0

/-- Read the entry at the device's index (R303). A host read that meets a bus error is reissued later (R613). -/
def fetchEntry (s : State) (q : Nat) : State :=
  let c := s.queue q
  let a := s.ringAgent c
  match s.load a (c.entry c.devIdx) 64 with
  | .ok (s1, bs) =>
    s1.setQueue q { c with
      devIdx := c.next c.devIdx, pktseq := c.pktseq + 1, retries := 0, fetchErr := false, bells := c.bells.drop 1,
      fetched := c.fetched ++ [(c.pktseq, bytesWords 16 bs, c.bells.headD s.time)] }
  | .error (.status st) =>
    if st = stBusError then
      (if 3 ≤ c.retries then s.fetchFails q st else s.setQueue q { c with fetchErr := true })
    else (s.reportRead a (c.entry c.devIdx) 64 (some (q, c.pktseq)) 0).fetchFails q st
  | .error .held => s

end State

/-- Fetch of one submission entry. -/
def execPacketFetch (queue : Nat) (s : State) : Host.Outcome State Fault Refusal :=
  s.run (fun s => s.when (s.turnOf queue) (fun s =>
    { s with served := s.served.set (s.queue queue).prio queue }.fetchEntry queue))

/-! ### Dispatch (R308, R309, R323) -/

/-- Packets dispatched and not complete, device-wide (R300). -/
def dispatchLimit : Nat := 1024

/-- Types that behave as if BARRIER = 1: SYNC_WAIT, FENCE, DIGEST_MARK, CONTEXT_RESTORE (R309). -/
def barrierType (t : Nat) : Bool := t == 4 || t == 5 || t == 7 || t == 9

/-- TYPE and OP that name a packet (R313, R316). -/
def definedPacket (ws : List Nat) : Bool :=
  decide (1 ≤ pType ws) && decide (pType ws ≤ 9) && (pType ws != 6 || decide (bits (word ws 4) 8 4 ≤ 6))

namespace State

/-- The oldest fetched packet of a queue may be dispatched. -/
def dispatchable (s : State) (q : Nat) : Bool :=
  let c := s.queue q
  match c.fetched with
  | [] => false
  | (_, ws, _) :: _ =>
    let mine := s.packets.filter (fun p => p.queue == q)
    let cq := s.queue c.cq
    c.st == .active && !(cq.full || !cq.waiting.isEmpty)
      && !((pBarrier ws || barrierType (pType ws)) && !mine.isEmpty)
      && !(mine.any (fun p => pType p.words == 4))

end State

/-- Dispatch to firmware by strict priority (R308). A packet that no TYPE or OP names completes with ST_BAD_OPCODE (R313). -/
def execPacketDispatch (queue : Nat) (s : State) : Host.Outcome State Fault Refusal :=
  s.run (fun s =>
    let c := s.queue queue
    s.when (s.dispatchable queue && decide (s.packets.length < dispatchLimit)
        && s.queues.all (fun e => decide (e.2.prio ≤ c.prio) || !s.dispatchable e.1)) (fun s =>
      match c.fetched with
      | [] => s
      | (seq, ws, bell) :: rest =>
        let p : Packet := { queue := queue, seq := seq, words := ws, tdisp := s.time,
                            work := if definedPacket ws then .inbox else .done,
                            status := if definedPacket ws then stOk else stBadOpcode }
        let s1 := { s.setQueue queue { c with fetched := rest } with packets := s.packets ++ [p] }
        (s1.count State.unitQueues 0x003 1 1 0).interval (s.queuePart queue) 0x01 (pType ws) (s.time - bell)))

/-! ### Completion (R310, R314, R321, R333) -/

/-- A completion record (R321). -/
def Packet.record (p : Packet) (time : Nat) : List Byte :=
  wordsBytes [0x81 + 65536 * p.status.toNat, word p.words 1, p.queue + 65536 * pType p.words, p.seq.toNat,
    p.reason % 256 + 256 * (p.ltile % 512), p.instr % 2048, p.tdisp % 2 ^ 32, p.tdisp / 2 ^ 32 % 2 ^ 32, time % 2 ^ 32,
    time / 2 ^ 32 % 2 ^ 32, p.detail % 2 ^ 32, p.detail / 2 ^ 32 % 2 ^ 32, 0, 0, 0, 0]

namespace State

/-- A named slot advances: POS, LAUNCHES, and SSYNC (R333). -/
def advanceSlot (s : State) (adv i : Nat) : State :=
  let r := s.slot i
  let s1 := s.setSlot i { r with pos := r.pos + BitVec.ofNat 32 adv, launches := r.launches + 1 }
  if r.ssyncv then s1.syncAdd r.ssync.toNat 1 else s1

/-- Digest records of a packet still held for a full log (R323, R475). -/
def held (s : State) (q : Nat) (bs : List Byte) : Bool := (s.queue (s.queue q).dlq).waiting.contains bs

/-- A mark record (R474). -/
def markRecord (p : Packet) : List Byte :=
  wordsBytes [0x82 + 65536 * 3, word p.words 1, p.queue, p.seq.toNat, word p.words 4, word p.words 5, 0, 0, 0, 0, 0, 0, 0, 0, 0, 0]

/-- Writes of a queue's earlier packets that have not landed or been acknowledged (R317, R394). -/
def inFlight (s : State) (q : Nat) : Bool := s.flights.any (fun f => f.queue == q) || s.reqs.any (fun r => r.queue == q)

/-- A packet whose end only waited for a ring or for landings (R317, R475). -/
def endsNow (s : State) (p : Packet) : Option Packet :=
  match p.work with
  | .done => some p
  | .fence =>
    if s.inFlight p.queue then none
    else if (s.queue p.queue).remErr != 0 then some { p with work := .done, status := (s.queue p.queue).remErr }
    else some { p with work := .done }
  | .mark => if s.held p.queue (markRecord p) then none else some { p with work := .done }
  | .after q n => if s.packets.any (fun x => x.queue == q && x.seq == n) then none else some { p with work := .done }
  | _ => none

/-- The launch that a completing packet ends, with what it advances: the packet's own, or the one it restored. -/
def launchEnded (s : State) (p : Packet) : Option Launch :=
  s.launches.find? (fun l => l.collected && (match l.restore with
    | some r => r == (p.queue, p.seq)
    | none => l.queue == p.queue && l.seq == p.seq))

/-- Completion in the order of R314: slot advances, SIG, record; then what R310 does with a failure. -/
def complete (s : State) (p : Packet) : State :=
  let good := goodStatus p.status
  let l := s.launchEnded p
  let s1 := { s with packets := s.packets.filter (fun x => !(x.queue == p.queue && x.seq == p.seq)),
                     launches := match l with
                       | some l => s.launches.filter (fun x => !(x.queue == l.queue && x.seq == l.seq))
                       | none => s.launches }
  let s2 := match l with
    | some l => if good then l.slots.foldl (advanceSlot · l.adv) s1 else s1
    | none => s1
  let s3 := match l with
    | some l =>
      if l.restore.isSome then
        let s' := if good && pSig l.words then s2.syncAdd (word l.words 2) (word l.words 3) else s2
        s'.modQueue l.queue (fun q => if q.st = QState.suspended then { q with st := QState.active } else q)
      else s2
    | none => s2
  let s4 := if good && pSig p.words then s3.syncAdd (word p.words 2) (word p.words 3) else s3
  let c := s4.queue p.queue
  let s5 := if !c.created || (pNocmpl p.words && p.status == stOk) then s4 else s4.pushRecord c.cq (p.record s.time)
  let s6 :=
    if p.status = stPreempted then (if pType p.words = 1 then s5.modQueue p.queue (fun q => { q with st := QState.suspended }) else s5)
    else if !good && c.haltOnErr && c.created then
      (s5.modQueue p.queue (fun q => { q with st := QState.halted })).eventPart (s.queuePart p.queue) 0x0201 p.queue p.status
        p.seq.toNat (word p.words 1)
    else s5
  let s7 := s6.interval (s.queuePart p.queue) 0x02 (pType p.words) (s.time - p.tdisp)
  if pType p.words = 6 then s7.interval (s.queuePart p.queue) 0x07 (bits (word p.words 4) 8 4 + 1) (s.time - p.tdisp) else s7

end State

/-- A packet completes. -/
def execPacketComplete (queue : Nat) (seq : BitVec 32) (s : State) : Host.Outcome State Fault Refusal :=
  s.run (fun s =>
    match s.packet? queue seq with
    | none => s
    | some p =>
      match s.endsNow p with
      | none => s
      | some p' =>
        if p'.work = .done ∧ p.work = .fence then
          (s.modQueue queue (fun q => { q with remErr := 0 })).complete p'
        else s.complete p')

/-- COALTIME has passed since the oldest record that the vector has not reported (R322). -/
def execCoaltimeExpiry (queue : Nat) (s : State) : Host.Outcome State Fault Refusal :=
  s.run (fun s =>
    let c := s.queue queue
    s.when (c.created && c.vecv && c.qtype != 0 && c.coaltime != 0 && c.unrep != 0) (fun s =>
      (s.setQueue queue { c with unrep := 0 }).raise c.owner c.vector))

end Sys2Proof.Machine
end

