-- ==== Sys2Proof/Machine/Launch.lean ====
section
/-! DEFINITION. Kernel launches: validation (R267, R268, R315, R332), start (R269, R311), completion with status and digest records
(R101, R270, R474 to R476), the launch limit (R315), and the packets SYNC_WAIT and DIGEST_MARK (R317). -/

namespace Sys2Proof.Machine

/-! ### Validation -/

/-- The header of a kernel binary (R267), as its 16 words. -/
abbrev KHdr := List Nat

def khMasks : List Nat :=
  [m32, 0xFFFF, m32, 0x1FF, m32, 0xFFF, 0x7F_FFFF, 0x1FFF, m32, 0x1_FFFF, 0x7F_FFFF, 0x7_FFFF, 0, 0, 0, 0]

def kNltile (h : KHdr) : Nat := word h 3 % 512
def kNinstr (h : KHdr) : Nat := word h 5 % 4096
def kArgdst (h : KHdr) : Nat := word h 6
def kArglen (h : KHdr) : Nat := word h 7
def kDatalen (h : KHdr) : Nat := word h 9
def kDatadst (h : KHdr) : Nat := word h 10
def kAux (h : KHdr) : Nat := word h 11

/-- Where the batch table of a launch begins (R332). -/
def batchBase (h : KHdr) : Nat := (kArgdst h + kArglen h + 127) / 128 * 128

/-- Two ranges share a byte; an empty one shares none. -/
def meets (a n b m : Nat) : Bool := n != 0 && m != 0 && decide (a < b + m) && decide (b < a + n)

namespace State

/-- The tiles a launch of `n` logical tiles runs on. -/
def tilesOf (s : State) (part n : Nat) : List Nat := (s.part part).bind.take n

/-- Space 0 or 4, and open to the agent (R315). -/
def readable (s : State) (a : Agent) (da n : Nat) (write : Bool) : Bool :=
  (daSpace da == 0 || daSpace da == 4) && s.allowed a da n write

/-- Checks of the binary header in the order of R14 (R268). -/
def headerStatus (s : State) (part : Nat) (h : KHdr) : Word16 :=
  firstFail [
    (!withinMasks h khMasks || word h 0 != 0x4B4E_4C42 || word h 1 != 1, stBadOpcode),
    (word h 4 % 16 != 0 || kArgdst h % 128 != 0 || kDatadst h % 128 != 0, stBadAlign),
    (decide (256 < kNltile h) || kNltile h == 0 || kNinstr h == 0 || decide (2048 < kNinstr h) || decide (4096 < kArglen h)
      || decide (65536 < kDatalen h) || kAux h % 1024 != 0 || decide (224 * 1024 < kAux h)
      || decide (basinSize < kArgdst h + kArglen h) || decide (basinSize < kDatadst h + kDatalen h), stBadLength),
    (decide ((s.part part).count < kNltile h) || (word h 2 != 0 && word h 2 != s.jet.version.toNat)
      || (s.tilesOf part (kNltile h)).any (fun t => decide (224 * 1024 < kAux h + (s.tile t).sampler.samplen)), stConflict)]

/-- Checks of the slot list in the order of R14 (R332). -/
def slotStatus (s : State) (part : Nat) (h : KHdr) (adv : Nat) (slots : List Nat) : Word16 :=
  let b := batchBase h
  let n := 64 * slots.length
  firstFail [
    (slots.any (fun i => !(s.part part).hasSlot i), stNotPermitted),
    (n != 0 && (decide (basinSize < b + n) || meets b n (kDatadst h) (kDatalen h) || meets b n (kArgdst h) (kArglen h)), stBadLength),
    (slots.any (fun i => decide ((s.slot i).maxpos.toNat < (s.slot i).pos.toNat + adv)), stBadLength),
    (slots.any (fun i => !(s.slot i).active || decide (1 < slots.count i)), stConflict)]

/-- Checks of addresses in the order of R14 (R315). -/
def addressStatus (s : State) (a : Agent) (ws : List Nat) (h : KHdr) : Word16 :=
  let bin := addr48 ws 4
  let ns := addr48 ws 8
  firstFail [
    (!s.readable a (bin + word h 4) (16 * kNinstr h) false
      || (kDatalen h != 0 && !s.readable a (bin + word h 8) (kDatalen h) false)
      || (kArglen h != 0 && !s.readable a (addr48 ws 6) (kArglen h) false)
      || (ns != 0 && !s.readable a ns (32 * kNltile h) true), stNotPermitted),
    (bin % 64 != 0 || ns % 32 != 0, stBadAlign)]

/-- Allowed bits of a KERNEL_LAUNCH packet. -/
def launchMasks : List Nat :=
  [0x7FF, m32, 0x7FFF, m32, m32, 0xFFFF, m32, 0xFFFF, m32, 0xFFFF, 7, 0xFFFF_01FF, m32, 0xFFFF, 0xFF_FFFF, 0]

/-- The checks without which the header cannot be read: reserved fields and SLOTCNT's range, the header's readability. -/
def launchFields (s : State) (a : Agent) (p : Packet) : Word16 :=
  firstFail [(!headerOk p.words || !withinMasks p.words launchMasks || decide (256 < word p.words 11 % 512), stBadOpcode),
    (!s.readable a (addr48 p.words 4) 64 false, stNotPermitted)]

/-- A validated launch waits for its tiles (R311). -/
def addLaunch (s : State) (p : Packet) (part fn : Nat) (h : KHdr) (slots : List Nat) : State :=
  let ws := p.words
  let l : Launch :=
    { queue := p.queue, seq := p.seq, part := part, fn := fn, nltile := kNltile h, binaddr := addr48 ws 4, codeoff := word h 4,
      ninstr := kNinstr h, argdst := kArgdst h, arglen := kArglen h, argaddr := addr48 ws 6, dataoff := word h 8,
      datalen := kDatalen h, datadst := kDatadst h, auxdem := kAux h, nsaddr := addr48 ws 8, mode := BitVec.ofNat 32 (word ws 10),
      slots := slots, adv := word ws 11 / 65536, ltimeout := word ws 14, usertag := word ws 1, words := ws }
  { (s.modPacket p.queue p.seq (fun p => { p with work := .launch })) with launches := s.launches ++ [l] }

/-- A read for a packet that failed: a bus error is reissued up to three times (R315), another failure is final. -/
def headerReadFails (s : State) (p : Packet) (a : Agent) (da n tries : Nat) (w : Why) : State :=
  match w with
  | .status st =>
    if st = stBusError then
      (if 3 ≤ tries then s.finish p.queue p.seq stBusError 0
       else s.modPacket p.queue p.seq (fun p => { p with work := .reread tries }))
    else (s.reportRead a da n (some (p.queue, p.seq)) 0).finish p.queue p.seq st 0
  | .held => s

/-- The first of two results of validation in the order of R14; ST_OK is none. -/
def sooner (a b : Word16) : Word16 := firstFail [(a != stOk, a), (b != stOk, b)]

/-- Validation of a KERNEL_LAUNCH: the header of R268, the slot list of R332, then the addresses and lengths of R315; the object of SIG,
which no stage of R315 names, takes its place in R14's order beside the stage that fails. (DEDUCED, log entry 25) -/
def validateLaunch (s : State) (p : Packet) (tries : Nat) : State :=
  let fn := (s.queue p.queue).owner
  let a : Agent := { part := s.queuePart p.queue, fn := fn }
  let ws := p.words
  let n := word ws 11 % 512
  let list := addr48 ws 12
  let sig := firstFail (s.headerChecks p)
  let reject (s : State) (st : Word16) : State := s.finish p.queue p.seq (sooner sig st) 0
  match s.launchFields a p with
  | 0 =>
    match s.load a (addr48 ws 4) 64 with
    | .error w => if sig != stOk then reject s stOk else s.headerReadFails p a (addr48 ws 4) 64 tries w
    | .ok (s1, hb) =>
      let h := bytesWords 16 hb
      let st := s1.headerStatus a.part h
      if st != stOk then reject s1 st
      else if n != 0 && !s1.readable a list n false then reject s1 stNotPermitted
      else
        match (if n = 0 then Except.ok (s1, []) else s1.load a list n) with
        | .error w => if sig != stOk then reject s1 stOk else s1.headerReadFails p a list n tries w
        | .ok (s2, lb) =>
          let slots := lb.map (·.toNat)
          let st2 := s2.slotStatus a.part h (word ws 11 / 65536) slots
          let st3 := s2.addressStatus a ws h
          if st2 != stOk then reject s2 st2
          else if st3 != stOk || sig != stOk then reject s2 st3
          else s2.addLaunch p a.part fn h slots
  | st => reject s st

end State

/-- KERNEL_LAUNCH. -/
def execKernelLaunch (queue : Nat) (seq : BitVec 32) (s : State) : Host.Outcome State Fault Refusal :=
  s.run (fun s =>
    match s.frontPacket queue seq 1 with
    | some p => s.validateLaunch p 0
    | none => s)

/-! ### Start (R269, R311, R332) -/

/-- A slot record as a launch sees it in its batch table (R330, R332). -/
def Slot.words (r : Slot) : List Nat :=
  [r.active.toNat, r.seqid.toNat % 2 ^ 32, r.seqid.toNat / 2 ^ 32, r.pos.toNat, r.maxpos.toNat, r.stateaddr.toNat % 2 ^ 32,
   r.stateaddr.toNat / 2 ^ 32, r.ssync.toNat + r.ssyncv.toNat * 2 ^ 15, r.launches.toNat]
  ++ (r.user.map (·.toNat)).take 7 ++ List.replicate (7 - r.user.length) 0

/-- Device address of offset 0 of a logical tile's memory (R273, R274). -/
def tileAddr (space ltile : Nat) : Nat := space * 2 ^ 44 + 2 ^ 43 + ltile * 2 ^ 24

/-- The sequencer state of a tile at launch start (R269). The tile's memories, repair fields and sampling buffer stay; a sampling
setting that waited takes effect (R565). -/
def Tile.started (t : Tile) (part ltile nltile a3 a7 : Nat) (mode : BitVec 32) (aux : Nat) (code : SMap Word128) (ninstr : Nat) :
    Tile :=
  let regs : SMap Addr48 := [(1, ltile), (2, nltile), (3, a3), (4, tileAddr 1 ltile), (5, tileAddr 2 ltile),
    (6, tileAddr 3 ltile), (7, a7)].foldl (fun m p => SMap.set 0 m p.1 (BitVec.ofNat 48 p.2)) []
  let smp := match t.sampler.next with
    | some (e, p) => { t.sampler with event := e, period := p, next := none }
    | none => t.sampler
  Tile.setMark
  { basin := t.basin, aux := t.aux, cistern := t.cistern, badBasin := t.badBasin, badAux := t.badAux, badSlots := t.badSlots,
    repair := t.repair, arrayOn := t.arrayOn, stopped := t.stopped, bgen := t.bgen, sampler := smp, running := true, part := part,
    ltile := ltile, mode := mode, auxDemand := aux, code := code, ninstr := ninstr, aregs := regs, steps := [{ num := 0 }] }

/-- A3 of R269. -/
def State.a3 (s : State) : Nat := match s.devid with | some d => d.toNat + 2 ^ 12 | none => 0

/-- Instructions of a code section. -/
def codeOf (bs : List Byte) : SMap Word128 :=
  ((List.range (bs.length / 16)).map (fun i => (i, BitVec.ofNat 128 (leNat ((bs.drop (16 * i)).take 16))))).filter (fun e => e.2 != 0)

namespace State

/-- An earlier launch that is not complete names a common slot (R332). -/
def slotHeld (s : State) (l : Launch) : Bool :=
  (s.launches.takeWhile (fun x => !(x.queue == l.queue && x.seq == l.seq))).any (fun x => x.slots.any l.slots.contains)

/-- Where the packet that runs a launch stands in dispatch order: its own, or the CONTEXT_RESTORE (R311, R319). -/
def launchTurn (s : State) (l : Launch) : Nat :=
  let (q, n) := l.restore.getD (l.queue, l.seq)
  (s.packets.takeWhile (fun p => !(p.queue == q && p.seq == n))).length

/-- A launch that another holds back: by a slot, or one of its partition that was dispatched first and waits for the tiles. -/
def heldBack (s : State) (l : Launch) : Bool :=
  s.slotHeld l || s.launches.any (fun x =>
    x.part == l.part && x.ph == .waiting && !s.slotHeld x && decide (s.launchTurn x < s.launchTurn l))

/-- A maintenance activity that needs a tile, or its die's table, free of kernels holds its lock (R506). -/
def maintains (s : State) (ph : Nat) : Bool :=
  let busy (res : Nat) (acts : List Nat) : Bool :=
    match (SMap.get {} s.rel.locks res).holder with
    | some a => (match a.kind with | .maint _ act => acts.contains act | _ => false)
    | none => false
  busy ph [0, 4] || busy (4 * 256 + dieOf ph) [4]

/-- The tiles are free: nothing runs there, no launch of the partition is between its last step and its completion. -/
def tilesFree (s : State) (part : Nat) : Bool :=
  (s.runTiles part).isEmpty && s.launches.all (fun x => x.part != part || (x.ph != .running && (x.ph != .ended || x.collected)))

/-- End a launch that passed validation before any tile starts (R101, R315, R476). -/
def endUnstarted (s : State) (l : Launch) (st : Word16) : State :=
  s.modLaunch l.queue l.seq (fun x => { x with ph := .ended, status := st })

/-- Put the images into a tile's Basin and start it (R269, R332). -/
def startTile (s : State) (l : Launch) (a7 : Nat) (code : SMap Word128) (images : List (Nat × List Byte)) (e : Nat × Nat) : State :=
  s.modTile e.1 (fun t =>
    (images.foldl (fun t i => if i.2.isEmpty then t else t.foreignWrite 1 i.1 i.2) t).started l.part e.2 l.nltile s.a3 a7 l.mode
      l.auxdem code l.ninstr)

/-- A read that firmware makes for a launch at its start failed (R315). -/
def startReadFails (s : State) (l : Launch) (a : Agent) (da n : Nat) (w : Why) : State :=
  match w with
  | .status st =>
    if st = stBusError then
      (if 3 ≤ l.retries then s.endUnstarted l st else s.modLaunch l.queue l.seq (fun x => { x with readErr := true }))
    else (s.reportRead a da n (some (l.queue, l.seq)) 0).endUnstarted l st
  | .held => s

/-- While a point is pinned, the arbiters of the partition's Sluice engines are back at their first input before a launch starts (R465), and
the perturbations' periods begin anew (R570). -/
def firstInputs (s : State) (part : Nat) : State :=
  if s.weir.pinned then
    { s with granted := s.granted.filter (fun e => !(s.part part).hasEngine (e.1 / 8)), tele := { s.tele with tstPhase := s.time } }
  else s

/-- Read what a launch needs and start its tiles. -/
def startLaunch (s : State) (l : Launch) : State :=
  let a : Agent := { part := l.part, fn := l.fn }
  let tiles := s.tilesOf l.part l.nltile
  if tiles.any (fun t => s.rel.cstOut.contains (dieOf t)) then s.endUnstarted l stUncorrectable
  else
    match s.load a (l.binaddr + l.codeoff) (16 * l.ninstr) with
    | .error w => s.startReadFails l a (l.binaddr + l.codeoff) (16 * l.ninstr) w
    | .ok (s1, code) =>
      match s1.load a (l.binaddr + l.dataoff) l.datalen with
      | .error w => s1.startReadFails l a (l.binaddr + l.dataoff) l.datalen w
      | .ok (s2, data) =>
        match s2.load a l.argaddr l.arglen with
        | .error w => s2.startReadFails l a l.argaddr l.arglen w
        | .ok (s3, args) =>
          let batch := l.slots.flatMap (fun i => wordsBytes (s3.slot i).words)
          let images := [(l.datadst, data), (l.argdst, args), ((l.argdst + l.arglen + 127) / 128 * 128, batch)]
          let a7 := (tiles.filter (fun t => (s3.tile t).arrayOn)).length
          -- every tile starts before the first of them issues (R259: a tile that fails stops them all)
          tiles.foldl settle (tiles.zipIdx.foldl (fun s e => s.startTile l a7 (codeOf code) images e)
            ((s3.firstInputs l.part).modLaunch l.queue l.seq (fun x => { x with ph := .running, started := true, readErr := false })))

end State

/-! ### Completion (R101, R270, R474 to R476) -/

/-- Every tag that a tile of a launch folded, ascending (R475). -/
def tagsOf (ts : List Tile) : List Nat := (ts.flatMap (fun t => t.digests.map (·.tag))).foldl (fun l x => insAsc x l) []

/-- A LAYER record (R472, R474). -/
def layerRecord (l : Launch) (ts : List Tile) (tag : Nat) : List Byte :=
  let ds := ts.flatMap (fun t => t.digests.filter (fun d => d.tag == tag))
  let crc := ds.foldl (fun c d => crcCombine c d.crc.toNat d.bytes) 0
  let total := ds.foldl (fun n d => n + d.bytes) 0
  let ops := ds.foldl (fun n d => n + d.instrs) 0
  wordsBytes [0x82 + 65536, l.usertag, l.queue + 65536 * tag, l.seq.toNat, crc % 2 ^ 32, crc / 2 ^ 32, total % 2 ^ 32,
    total / 2 ^ 32 % 2 ^ 32, ops % 2 ^ 32, ds.length, 0, 0, 0, 0, 0, 0]

/-- A LAUNCH record (R474). -/
def launchRecord (l : Launch) (jetver : BitVec 32) (ts : List Tile) (st : Word16) : List Byte :=
  let un := Nat.min (ts.foldl (fun n t => n + t.untracked) 0) (2 ^ 31 - 1)
  wordsBytes [0x82 + 65536 * 2, l.usertag, l.queue, l.seq.toNat, 0, 0, 0, 0, l.mode.toNat, jetver.toNat,
    st.toNat + 65536 * (tagsOf ts).length, un + (if goodStatus st then 0 else 2 ^ 31), 0, 0, 0, 0]

namespace State

/-- The status a launch ends with: its failure, or ST_NUMERIC_FLAG where any flag of any record is set (R16, R101). -/
def launchStatus (l : Launch) (ts : List Tile) : Word16 :=
  if l.status != 0 then l.status else if ts.any (fun t => t.status.flags.any) then stNumericFlag else stOk

/-- The tiles of a launch in logical order: those that started, none before. -/
def launchTiles (s : State) (l : Launch) : List Tile :=
  if l.started then (s.tilesOf l.part l.nltile).map s.tile else []

/-- A tile is free again: every group FREE, nothing runs (R84, R270). -/
def freeTile (s : State) (ph : Nat) : State :=
  s.modTile ph (fun t =>
    { t with running := false, ended := false, groups := [], steps := [], preempt := false, parked := false, cutRun := none, wait := none, foot := [],
             marks := [], images := [], outReads := [] })

/-- Write status records, append digest records and free the tiles. -/
def collect (s : State) (l : Launch) : State :=
  let ts := s.launchTiles l
  let st := launchStatus l ts
  let recs := if l.started then ts.flatMap (fun t => t.status.image) else (List.replicate l.nltile ({} : NumRec).image).flatten
  let s1 := if l.nsaddr = 0 then s else s.storeOrLose { part := l.part, fn := l.fn } l.nsaddr recs
  let q := s1.queue l.queue
  let lr := launchRecord l s.jet.version ts st
  let s2 := if q.dlv && q.created then
      ((tagsOf ts).map (layerRecord l ts) ++ [lr]).foldl (fun s r => s.pushRecord q.dlq r) s1 else s1
  let s3 := if l.started then (s.tilesOf l.part l.nltile).foldl freeTile s2 else s2
  let s4 := match l.saving with
    | some save => s3.saveDone save (l.restore.getD (l.queue, l.seq)) 0     -- it completes before the pre-emption has taken effect (R318)
    | none => s3
  s4.modLaunch l.queue l.seq (fun x => { x with ph := .ended, collected := true, status := st, records := [lr], saving := none })

/-- Every tile of a launch has committed its final step, or a failure has stopped it and no commit is in progress (R259, R270). -/
def launchDone (s : State) (l : Launch) : Bool :=
  if l.ph == .ended then (s.launchTiles l).all (fun t => t.steps.isEmpty)
  else l.ph == .running && (s.launchTiles l).all (fun t => t.ended && t.steps.isEmpty)

/-- The packet of a launch whose records are all appended completes (R475). -/
def closeLaunch (s : State) (l : Launch) : State :=
  if l.records.any (fun r => (s.queue l.queue).dlv && s.held l.queue r) then s
  else
    let (q, n) := l.restore.getD (l.queue, l.seq)
    s.modPacket q n (fun p =>
      { p with work := .done, status := l.status, reason := l.reason, ltile := l.ltile, instr := l.instr })

end State

/-- A launch completes: records first, and its packet once its LAUNCH record has been appended (R475). -/
def execLaunchComplete (queue : Nat) (seq : BitVec 32) (s : State) : Host.Outcome State Fault Refusal :=
  s.run (fun s =>
    match s.launch? queue seq with
    | none => s
    | some l =>
      if l.collected then s.closeLaunch l
      else if s.launchDone l then
        let s1 := s.collect l
        match s1.launch? queue seq with
        | some l1 => s1.closeLaunch l1
        | none => s1
      else s)

/-- A running launch passes LTIMEOUT: aborted under R134, completing with ST_TIMEOUT (R315). -/
def execLtimeoutExpiry (queue : Nat) (seq : BitVec 32) (s : State) : Host.Outcome State Fault Refusal :=
  s.run (fun s =>
    match s.launch? queue seq with
    | none => s
    | some l => s.when (l.ph == .running && l.ltimeout != 0) (·.endLaunch l stTimeout 0 0 0))

/-! ### SYNC_WAIT, DIGEST_MARK (R317) -/

/-- SYNC_WAIT. -/
def execSyncWait (queue : Nat) (seq : BitVec 32) (s : State) : Host.Outcome State Fault Refusal :=
  s.run (fun s =>
    match s.frontPacket queue seq 4 with
    | none => s
    | some p =>
      let obj := word p.words 4 % 2 ^ 15
      let target := word64 p.words 5
      let st := firstFail (s.headerChecks p ++
        [(!withinMasks p.words [0x7FF, m32, 0x7FFF, m32, 0x7FFF, m32, m32, m32], stBadOpcode),
         (!(s.part (s.queuePart queue)).hasSync obj, stBadSync)])
      if st != stOk then s.finish queue seq st 0
      else if target ≤ (s.counter obj).toNat then s.finish queue seq stOk (s.counter obj).toNat
      else s.modPacket queue seq (fun p => { p with work := .wait obj (BitVec.ofNat 64 target) }))

/-- A SYNC_WAIT reaches its limit. -/
def execSyncWaitTimeout (queue : Nat) (seq : BitVec 32) (s : State) : Host.Outcome State Fault Refusal :=
  s.run (fun s =>
    match s.packet? queue seq with
    | none => s
    | some p =>
      match p.work with
      | .wait obj _ => if word p.words 7 = 0 then s else s.finish queue seq stTimeout (s.counter obj).toNat
      | _ => s)

/-- DIGEST_MARK. -/
def execDigestMark (queue : Nat) (seq : BitVec 32) (s : State) : Host.Outcome State Fault Refusal :=
  s.run (fun s =>
    match s.frontPacket queue seq 7 with
    | none => s
    | some p =>
      let q := s.queue queue
      let st := firstFail (s.headerChecks p ++
        [(!withinMasks p.words [0x7FF, m32, 0x7FFF, m32, m32, m32], stBadOpcode), (!q.dlv, stBadQueue)])
      if st != stOk then s.finish queue seq st 0
      else (s.pushRecord q.dlq (State.markRecord p)).modPacket queue seq (fun p => { p with work := .mark }))

end Sys2Proof.Machine
end

