-- ==== Sys2Proof/Machine/Fabric.lean ====
section
/-! DEFINITION. Packets of the fabric (R413, R431, R432, R444), the router (R426, R427), drops and their events (R423, R456), remote
requests at their source (R434, R436) and at their destination (R433, R435). -/

namespace Sys2Proof.Machine

/-! ### Packets -/

def pkWord (p : List Byte) (i : Nat) : Nat := leNat ((p.drop (4 * i)).take 4)
def pkDst (p : List Byte) : Nat := pkWord p 0 % 4096
def pkSrc (p : List Byte) : Nat := bits (pkWord p 0) 12 12
def pkClass (p : List Byte) : Nat := bits (pkWord p 0) 24 2
def pkType (p : List Byte) : Nat := pkWord p 1 % 256
def pkHops (p : List Byte) : Nat := bits (pkWord p 1) 8 8
def pkFlow (p : List Byte) : Nat := bits (pkWord p 1) 16 16
def pkParam (p : List Byte) : Nat := pkWord p 3

/-- CLASS and the range of PLEN of a packet type (R431). -/
def pkRange : Nat → Option (Nat × Nat × Nat)
  | 0x01 => some (0, 33, 4112)
  | 0x02 => some (0, 32, 32)
  | 0x10 => some (1, 32, 32)
  | 0x11 => some (1, 32, 32)
  | 0x20 => some (2, 48, 4112)
  | 0x21 => some (2, 48, 4112)
  | 0x22 => some (2, 48, 48)
  | 0x23 => some (2, 48, 48)
  | 0x30 => some (3, 48, 48)
  | 0x31 => some (3, 48, 48)
  | _ => none

/-- A packet that its destination does not discard (R431). -/
def pkValid (p : List Byte) : Bool :=
  match pkRange (pkType p) with
  | some (c, lo, hi) => pkClass p == c && bits (pkWord p 2) 0 13 == p.length && decide (lo ≤ p.length) && decide (p.length ≤ hi)
  | none => false

/-- The 16-byte header and what follows it (R413): the source sets 64 hops. -/
def mkPacket (src dst cls ptype param : Nat) (rest : List Byte) : List Byte :=
  wordsBytes [dst % 4096 + src % 4096 * 2 ^ 12 + cls * 2 ^ 24, ptype + 64 * 2 ^ 8 + Config.flow [dst, cls] % 2 ^ 16 * 2 ^ 16,
    16 + rest.length, param % 2 ^ 32] ++ rest

/-- A status that the table of R13 lists. A packet that carries another is discarded as malformed, since the device never returns a
reserved value. (DESIGN CHOICE, log entry 79) -/
def knownStatus (st : Word16) : Bool :=
  decide (st.toNat ≤ 8) || [stBusError, stUncorrectable, stLinkDown, stReplay, stTimeout, stNumericFlag, stPreempted, stAborted].contains st

namespace State

def own (s : State) : Nat := match s.devid with | some d => d.toNat | none => 0

/-! ### Drops (R423, R427, R431, R456) -/

/-- TCLK cycles in a millisecond. -/
def msCycles : Nat := 100000

/-- A packet is dropped: its event at most once per millisecond, the drops in between counted in the next. -/
def noteDrop (s : State) (code data0 : Nat) : State :=
  let r := SMap.get {} s.dropped code
  let first := if r.count = 0 then data0 else r.first
  let due := match r.last with | none => true | some t => decide (t + msCycles ≤ s.time)
  if due then
    ({ s with dropped := SMap.set {} s.dropped code { last := some s.time } }).eventPF code 0 stOk first (r.count + 1)
  else { s with dropped := SMap.set {} s.dropped code { r with count := r.count + 1, first := first } }

/-- A packet that its destination rejects or discards. -/
def noteReject (s : State) (p : List Byte) (st : Word16) : State :=
  s.noteDrop 0x0407 (pkSrc p + 2 ^ 16 * pkType p + 2 ^ 32 * st.toNat)

/-! ### The router (R426, R427) -/

/-- A packet for this device reaches the Cascade engine, or is discarded as malformed. -/
def arrive (s : State) (link : Option Nat) (vc : Nat) (p : List Byte) : State :=
  if some (BitVec.ofNat 12 (pkDst p)) = s.devid ∧ pkValid p = false then s.noteReject p stOk
  else { s with arrivals := s.arrivals ++ [{ link := link, level := vc % 2, vc := vc, data := p }] }

def routeMask (s : State) (dst : Nat) : BitVec 64 := SMap.get 0 s.routes dst

/-- The ACTIVE links that lead to a destination, ascending. -/
def routeLinks (s : State) (dst : Nat) : List Nat :=
  (List.range 32).filter (fun n => bitOf (s.routeMask dst) n && (s.link n).st == .active)

/-- What the router finds: the packet as it leaves, its link and virtual channel; or why it cannot be delivered. -/
def route (s : State) (p : List Byte) (level : Nat) : Except Nat (List Byte × Nat × Nat) :=
  let e := s.routeMask (pkDst p)
  if !bitOf e 32 then .error 1
  else if pkHops p = 0 then .error 2
  else
    let ls := s.routeLinks (pkDst p)
    match ls[(pkSrc p + pkFlow p) % 4096 % ls.length]? with
    | none => .error 3
    | some out =>
      .ok (setWord p 1 (pkWord p 1 - 256), out, 2 * pkClass p + (if bitOf e 33 then 1 else level))

/-- A NOTICE about an undeliverable packet (R427, R432). -/
def notice (s : State) (p : List Byte) (reason : Nat) : List Byte :=
  mkPacket s.own (pkSrc p) 1 0x11 (pkParam p)
    (wordsBytes [stLinkDown.toNat + reason * 2 ^ 16, if pkClass p = 0 then pkWord p 5 else 0, 0, 0])

/-- A link moves on, and its unit counts the flits it sent and accepted, its replays and its damaged flits (R561). -/
def putLink (s : State) (n : Nat) (l : Link) : State :=
  let o := s.link n
  let s1 := s.setLink n l
  if s.tele.ctrs.isEmpty then s1
  else
    let u := unitLink n
    let s2 := ((l.sent.drop o.sent.length).filter (fun f => f.type == 1)).foldl (fun s f => s.count u 0x001 1 1 (2 ^ f.vc)) s1
    let s3 := match l.rxbuf.getLast? with
      | some f => if l.ackSeq = o.ackSeq + 1 then s2.count u 0x002 1 1 (2 ^ f.vc) else s2
      | none => s2
    let s4 := if l.replays = o.replays then s3 else s3.count u 0x004 1 1 0
    if l.crcErrs = o.crcErrs then s4 else s4.count u 0x005 1 1 0

/-- Put a packet on its link, or hand it to this device's own engine. -/
def emit (s : State) (p : List Byte) (level : Nat) : Except Nat State :=
  if s.devid = some (BitVec.ofNat 12 (pkDst p)) then .ok (s.arrive none (2 * pkClass p + level) p)
  else match s.route p level with
    | .error r => .error r
    | .ok (q, out, vc) => .ok ((s.putLink out ((s.link out).send vc q)).count (unitCascade (out / 16)) 0x001 1 1 0)

/-- Forward a packet (R426). One that cannot be delivered is discarded and counted, and its source gets a NOTICE; no notice is sent
about a notice (R427). `mine`: the packet was originated here, and a device without a fabric ID tells itself. -/
def forward (s : State) (p : List Byte) (level : Nat) (mine : Bool) : State :=
  match s.emit p level with
  | .ok s' => s'
  | .error r =>
    let s1 := s.noteDrop 0x0405 (pkDst p + 2 ^ 12 * pkSrc p + 2 ^ 24 * r)
    if pkType p = 0x11 then s1
    else
      let n := s.notice p r
      if mine then s1.arrive none 2 n
      else match s1.emit n 0 with
        | .ok s2 => s2
        | .error r2 => s1.noteDrop 0x0405 (pkDst n + 2 ^ 12 * pkSrc n + 2 ^ 24 * r2)

/-- Originate a packet. -/
def originate (s : State) (dst cls ptype param : Nat) (rest : List Byte) : State :=
  s.forward (mkPacket s.own dst cls ptype param rest) 0 true

/-! ### Remote requests at their source (R429, R434 to R436) -/

/-- A request may be originated: fewer than 4,096 wait for an answer, fewer than 64 of them from the same device (R429). -/
def canRequest (s : State) (dst : Nat) : Bool :=
  decide (s.reqs.length < 4096) && decide ((s.reqs.filter (fun r => r.dst == dst)).length < 64)

/-- The link a packet leaves on now. -/
def outLink (s : State) (p : List Byte) : Option Nat :=
  match s.route p 0 with
  | .ok (_, out, _) => some out
  | .error _ => none

/-- Originate a request with the next SEQ of its destination. -/
def request (s : State) (dst ptype : Nat) (field amount : Nat) (data : List Byte) (from_ : Origin) (queue : Nat) : State :=
  let seq := SMap.get 1 s.nextSeq dst
  let p := mkPacket s.own dst 0 ptype seq.toNat
    (wordsBytes [field, s.boot.epoch.toNat, amount % 2 ^ 32, amount / 2 ^ 32 % 2 ^ 32] ++ data)
  let s1 : State := { s with
    nextSeq := SMap.set 1 s.nextSeq dst (seq + 1),
    reqs := s.reqs ++ [{ dst := dst, seq := seq, data := p, from_ := from_, queue := queue, first := s.time, last := s.time,
                         via := s.outLink p }] }
  s1.forward p 0 true

/-- Bytes of a WRITE packet at most (R434). -/
def maxWrite : Nat := 4080

/-- Device and offset of a space 5 address (R273). -/
def remoteDev (da : Nat) : Nat := bits da 32 12
def remoteOff (da : Nat) : Nat := da % 2 ^ 32

/-- A remote write of a queue's packets has failed: the next FENCE of the queue says so (R334). -/
def noteRemote (s : State) (queue : Nat) (st : Word16) : State :=
  s.modQueue queue (fun q => { q with remErr := if q.remErr = 0 then st else q.remErr })

/-- The channel halts (R391, R392): no further beat, the staging buffer is discarded. The oldest descriptor that is not complete has the
halt record, still to be written; those fetched after it are dropped. Where every one in progress is complete, they stand, and the packet
ends after their records. A second cause changes nothing (R16). -/
def stopChan (s : State) (k : Nat) (st : Word16) (fault : Nat) : State :=
  s.modChan k (fun c =>
    if c.stopped then c
    else
      let done := c.runs.takeWhile (·.finished)
      { c with st := .active, buf := [],
               runs := done ++ ((c.runs.drop done.length).take 1).map (fun d => { d with halt := some (st, fault), errAddr := none, tdone := s.time }),
               stop := if c.runs.length = done.length then some st else none })

/-- What an answer does to the operation that waits for it (R433): the packet ends with it; a channel halts; a launch fails. -/
def answered (s : State) (r : RemReq) (st : Word16) : State :=
  match r.from_ with
  | .packet q seq => s.finish q seq st 0
  | .tile t idx =>
    if st = stOk then s
    else ((s.noteRemote r.queue st).modTile t (fun x => { x with steps := x.steps.filter (fun y => !y.sent) })).failTile t st 0 idx
  | .chan e c seq =>
    if st = stOk then s
    else match (s.chan (e * 64 + c)).pkt with
      | some k => if k.queue = r.queue ∧ k.seq = seq ∧ !(s.chan (e * 64 + c)).stopped then s.stopChan (e * 64 + c) st (5 * 2 ^ 44 + r.dst * 2 ^ 32 + pkWord r.data 4)
        else s.noteRemote r.queue st
      | none => s.noteRemote r.queue st

/-- A request ends with a status. -/
def endRequest (s : State) (r : RemReq) (st : Word16) : State :=
  (({ s with reqs := s.reqs.erase r }).interval (s.queuePart r.queue) 0x06 0 (s.time - r.first)).answered r st

/-! ### Remote requests at their destination (R433, R435) -/

/-- Apply a request to the window (R433, R434). (DEDUCED, log entry 46) -/
def applyRequest (s : State) (p : List Byte) : State × Word16 :=
  match s.window with
  | none => (s, stNotPermitted)
  | some w =>
    if w.size = 0 then (s, stNotPermitted)
    else if pkType p = 1 then
      let bs := p.drop 32
      let off := pkWord p 4
      if w.size * 65536 < off + bs.length then (s, stBadLength)
      else match s.store { part := w.part, fn := w.fn } (w.base + off) bs with
        | .ok s' => (s', stOk)
        | .error (.status st) => (s, st)
        | .error .held => (s, stOk)
    else
      let i := pkWord p 4
      if bitOf w.mask (i / 1024) && (s.part w.part).hasSync i then
        (s.syncAdd i (pkWord p 6 + 2 ^ 32 * pkWord p 7), stOk)
      else (s, stBadSync)

/-- Answer a request (R432). -/
def acknowledge (s : State) (p : List Byte) (st : Word16) : State :=
  s.originate (pkSrc p) 1 0x10 (pkParam p) (wordsBytes [st.toNat, pkWord p 5, 0, 0])

/-- Apply a request in its turn, record it and answer it. -/
def serveRequest (s : State) (src : Nat) (d : DupRec) (p : List Byte) : State × DupRec :=
  let a := s.applyRequest p
  let s1 := if a.2 = stOk then a.1 else a.1.noteReject p a.2
  let d1 : DupRec := { d with expected := d.expected + 1, recent := ((BitVec.ofNat 32 (pkParam p), a.2) :: d.recent).take 64 }
  (({ s1 with dups := SMap.set none s1.dups src (some d1) }).acknowledge p a.2, d1)

/-- Held successors follow while each is the next (R435). -/
def serveHeld : Nat → State → Nat → DupRec → State
  | 0, s, _, _ => s
  | n + 1, s, src, d =>
    match d.held.find? (fun h => h.1 == d.expected) with
    | none => s
    | some h =>
      let r := s.serveRequest src { d with held := d.held.erase h } h.2
      serveHeld n r.1 src r.2

/-- An arriving request at the duplicate filter (R435). -/
def takeRequest (s : State) (p : List Byte) : State :=
  let src := pkSrc p
  let epoch := BitVec.ofNat 32 (pkWord p 5)
  let seq := BitVec.ofNat 32 (pkParam p)
  let fresh (s : State) : State :=
    if seq = 1 then (s.serveRequest src { epoch := epoch, expected := 1, held := [], recent := [] } p).1 else s
  match SMap.get none s.dups src with
  | none => fresh s
  | some d =>
    if d.epoch ≠ epoch then fresh s
    else if seq = d.expected then
      let r := s.serveRequest src d p
      serveHeld 64 r.1 src r.2
    else if (seq - d.expected).toNat ≤ 63 then
      (if d.held.any (fun h => h.1 == seq) then s
       else { s with dups := SMap.set none s.dups src (some { d with held := d.held ++ [(seq, p)] }) })
    else match d.recent.find? (fun r => r.1 == seq) with
      | some r => s.acknowledge p r.2
      | none => s

end State

end Sys2Proof.Machine
end

