-- ==== Sys2Proof/Machine/Comms.lean ====
section
/-! DEFINITION. Communicators (R437 to R439, R452 to R454), trimmed quires (R440, R441), collectives from contribution to delivery
(R443 to R450), and losses that meet them (R455). -/

namespace Sys2Proof.Machine

/-! ### Trimmed quires (R440, R441) -/

def granule (c : Quire) (j : Nat) : Nat := bits c.q.toNat (128 * j) 128
/-- A granule that extends the sign of the one below it. -/
def signGranule (below : Nat) : Nat := if below.testBit 127 then 2 ^ 128 - 1 else 0

/-- LO and NG of a quire: the shortest form. -/
def trimOf (c : Quire) : Nat × Nat :=
  match (List.range 5).find? (fun j => granule c j != 0) with
  | none => (0, 0)
  | some lo =>
    let top := ((List.range 5).find? (fun h => decide (lo ≤ h)
      && (List.range 5).all (fun k => decide (k ≤ h) || granule c k == signGranule (granule c h)))).getD 4
    (lo, top - lo + 1)

def trimQuire (c : Quire) : List Byte :=
  let (lo, ng) := trimOf c
  wordsBytes [bits c.x.toNat 0 32, bits c.x.toNat 32 32, bits c.firstk.toNat 0 32,
    bits c.firstk.toNat 32 16 + c.snan.toNat * 2 ^ 16 + c.snar.toNat * 2 ^ 17 + c.spinf.toNat * 2 ^ 18 + c.sninf.toNat * 2 ^ 19
      + c.ovx.toNat * 2 ^ 20 + lo * 2 ^ 21 + ng * 2 ^ 24]
  ++ (List.range ng).flatMap (fun j => leBytes 16 (granule c (lo + j)))

/-- Rebuild one quire from the front of some bytes; none where the meta granule or the length is bad. -/
def untrimQuire (bs : List Byte) : Option (Quire × List Byte) :=
  let w (i : Nat) := leNat ((bs.drop (4 * i)).take 4)
  let lo := bits (w 3) 21 3
  let ng := bits (w 3) 24 3
  if bs.length < 16 + 16 * ng ∨ 5 < lo + ng ∨ bits (w 3) 27 5 ≠ 0 then none
  else
    let g := (List.range ng).map (fun j => leNat ((bs.drop (16 + 16 * j)).take 16))
    let q := (List.range 5).foldl (fun (acc : Nat × Nat) j =>
      let v := if j < lo ∨ ng = 0 then 0 else if j < lo + ng then g.getD (j - lo) 0 else signGranule acc.2
      (acc.1 + v * 2 ^ (128 * j), if j < lo + ng then v else acc.2)) (0, 0)
    some ({ q := BitVec.ofNat 640 q.1, x := BitVec.ofNat 64 (w 0 + w 1 * 2 ^ 32),
            firstk := BitVec.ofNat 48 (w 2 + w 3 % 2 ^ 16 * 2 ^ 32), snan := (w 3).testBit 16, snar := (w 3).testBit 17,
            spinf := (w 3).testBit 18, sninf := (w 3).testBit 19, ovx := (w 3).testBit 20 }, bs.drop (16 + 16 * ng))

def untrimAll : Nat → List Byte → Option (List Quire)
  | 0, bs => if bs.isEmpty then some [] else none
  | n + 1, bs => match untrimQuire bs with
    | none => none
    | some (c, rest) => (untrimAll n rest).map (c :: ·)

/-! ### Chunks -/

/-- Slot images of a run of bytes. -/
def imagesOf (bs : List Byte) : List Quire :=
  (List.range (bs.length / 128)).map (fun i => Quire.ofImage ((bs.drop (128 * i)).take 128))
def imageBytes (qs : List Quire) : List Byte := qs.flatMap Quire.image

def opReduces (op : Nat) : Bool := op == 0 || op == 1 || op == 4 || op == 6
def quiresPerChunk : Nat := 42
def bytesPerChunk : Nat := 4064

/-- Cut `count` units from a first index into chunks of at most `k`: first index and units of each. -/
def chunksFrom (first count k : Nat) : List (Nat × Nat) :=
  (List.range ((count + k - 1) / k)).map (fun i => (first + k * i, Nat.min k (count - k * i)))

/-- The chunks of a collective (R429): images for reductions, row by row for SMREDUCE; bytes otherwise, rank by rank for ALLGATHER. -/
def Coll.chunks (c : Coll) (nmem : Nat) : List (Nat × Nat) :=
  if c.op = 6 then (List.range c.rows).flatMap (fun i => chunksFrom (i * (c.cols + 1)) (c.cols + 1) quiresPerChunk)
  else if opReduces c.op then chunksFrom 0 c.count quiresPerChunk
  else if c.op = 3 then (List.range nmem).flatMap (fun r => chunksFrom (r * c.count) c.count bytesPerChunk)
  else if c.op = 2 then chunksFrom 0 c.count bytesPerChunk
  else []

/-- A chunk as it travels: trimmed quires after the row's granule, if any (R440, R449); bytes as they are. -/
def wireChunk (op : Nat) (data : List Byte) : List Byte :=
  if op = 6 then data.take 16 ++ (imagesOf (data.drop 16)).flatMap trimQuire
  else if opReduces op then (imagesOf data).flatMap trimQuire else data

/-- A chunk of `n` units off the wire. -/
def unwireChunk (op n : Nat) (bs : List Byte) : Option (List Byte) :=
  if op = 6 then (untrimAll n (bs.drop 16)).map (fun qs => bs.take 16 ++ imageBytes qs)
  else if opReduces op then (untrimAll n bs).map imageBytes
  else if bs.length = n then some bs else none

/-- Merge two chunks of images (R89). -/
def mergeImages (a b : List Byte) : List Byte := imageBytes ((imagesOf a).zipWith Quire.merge (imagesOf b))

/-- Merge two parts of one row under R204: the granule holds words 0, 1 and 3 of the row-state entry. -/
def mergeRowParts (d s : List Byte) : List Byte :=
  let ws (bs : List Byte) (i : Nat) := leNat ((bs.drop (4 * i)).take 4)
  let row (bs : List Byte) : RowState := RowState.ofWords [ws bs 0, ws bs 1, 0, ws bs 2]
  let rd := row d
  let rs := row s
  let flags (mv : Bool) (rest : Nat) : Nat := mv.toNat + 2 * (rd.rnan || rs.rnan).toNat + 4 * (rd.rnar || rs.rnar).toNat + rest
  let qd := imagesOf (d.drop 16)
  let qs := imagesOf (s.drop 16)
  if !rs.mv then wordsBytes [ws d 0, ws d 1, flags rd.mv 0, 0] ++ imageBytes qd
  else
    let big := if rd.mv then max rs.msnap.toInt rd.msnap.toInt else rs.msnap.toInt
    let qd1 := if rd.mv then qd.map (·.shiftRight (Nat.min (big - rd.msnap.toInt).toNat 1408)) else qd
    let sh := Nat.min (big - rs.msnap.toInt).toNat 1408
    let mb := if rd.mv then min rd.minblk.toInt rs.minblk.toInt else rs.minblk.toInt
    wordsBytes [(BitVec.ofInt 32 big).toNat, (BitVec.ofInt 32 mb).toNat, flags true 0, 0]
      ++ imageBytes (qd1.zipWith (fun a b => a.mergeShift b sh) qs)

def mergeChunk (op : Nat) (a b : List Byte) : List Byte := if op = 6 then mergeRowParts a b else mergeImages a b

/-! ### The tree (R437, R453, R454) -/

def Comm.nmem (c : Comm) : Nat := c.members.length
def Comm.gen (c : Comm) : Nat := c.lost.length

/-- The standby that takes each lost rank, in ascending rank (R454). -/
def Comm.heirs (c : Comm) : List (Nat × Option Nat) :=
  c.lost.foldl (fun acc r =>
    let e := (c.members[r]?).bind (fun m => c.standbys[m.2.2]?)
    let free := match e with
      | some d => !c.lostDevs.contains d && !acc.any (fun a => a.2 == some d)
      | none => false
    acc ++ [(r, if free then e else none)]) []

/-- The device that holds a rank. -/
def Comm.devOf (c : Comm) (r : Nat) : Option Nat :=
  match c.heirs.find? (fun h => h.1 == r) with
  | some h => h.2
  | none => (c.members[r]?).map (·.1)

def Comm.rankOf (c : Comm) (d : Nat) : Option Nat := (List.range c.nmem).find? (fun r => c.devOf r == some d)
def Comm.parentOf (c : Comm) (r : Nat) : Nat := match c.members[r]? with | some m => m.2.1 | none => 0
def Comm.childrenOf (c : Comm) (r : Nat) : List Nat := (List.range c.nmem).filter (fun x => x != 0 && c.parentOf x == r)
/-- Standbys that hold no rank and are not lost. -/
def Comm.idle (c : Comm) : List Nat := c.standbys.filter (fun d => !c.lostDevs.contains d && (c.rankOf d).isNone)
/-- Every device of the communicator that is not lost. -/
def Comm.devices (c : Comm) : List Nat :=
  ((c.members.map (·.1)) ++ c.standbys).filter (fun d => !c.lostDevs.contains d)

def Comm.digest32 (c : Comm) : Nat := c.digest.toNat % 2 ^ 32

/-- Where this device sends its own JOIN: a member to its parent, a standby to rank 0; rank 0 to nobody. -/
def Comm.joinTo (c : Comm) : Option Nat :=
  match c.own with
  | some 0 => none
  | some r => c.devOf (c.parentOf r)
  | none => c.devOf 0

/-- This device holds the JOINs of its whole subtree; rank 0 also those of the standbys. -/
def Comm.subtreeJoined (c : Comm) : Bool :=
  match c.own with
  | none => true
  | some r =>
    (c.childrenOf r).all (fun x => match c.devOf x with | some d => c.joined.contains d | none => false)
      && (r != 0 || c.idle.all c.joined.contains)

/-- The oldest collective of a communicator that has not finished here. -/
def Comm.front (c : Comm) : Option Coll := c.colls.find? (fun k => k.ph != .finished)

/-- The rank a device holds in a communicator at the moment of its loss, 0xFFF for a standby without one. -/
def Comm.rankNow (c : Comm) (dev : Nat) : Nat := (c.rankOf dev).getD 0xFFF

/-- The nearest ancestor of a rank that was not lost while a collective ran (R455). -/
def Comm.upFrom (c : Comm) (skip : List Nat) : Nat → Nat → Nat
  | 0, _ => 0
  | n + 1, r => let p := c.parentOf r; if skip.contains p then Comm.upFrom c skip n p else p
/-- The parent of a rank in a collective: ranks lost since it started are passed over. -/
def Coll.parent (k : Coll) (c : Comm) (r : Nat) : Nat := c.upFrom k.skip c.nmem r
/-- The live children of a rank in a collective (R446, R455). -/
def Coll.children (k : Coll) (c : Comm) (r : Nat) : List Nat :=
  (List.range c.nmem).filter (fun x => x != 0 && !k.skip.contains x && k.parent c x == r)

/-! ### The collective block (R444) -/

def collBlock (cid gen op root count first n : Nat) (status : Word16) (rank : Nat) : List Byte :=
  wordsBytes [cid, gen % 2 ^ 16 + op * 2 ^ 16 + root * 2 ^ 20, count % 2 ^ 32, first % 2 ^ 32, n + status.toNat * 2 ^ 16, rank, 0, 0]

def cbGen (p : List Byte) : Nat := bits (pkWord p 5) 0 16
def cbOp (p : List Byte) : Nat := bits (pkWord p 5) 16 4
def cbRoot (p : List Byte) : Nat := bits (pkWord p 5) 20 12
def cbCount (p : List Byte) : Nat := pkWord p 6
def cbFirst (p : List Byte) : Nat := pkWord p 7
def cbN (p : List Byte) : Nat := bits (pkWord p 8) 0 13
def cbStatus (p : List Byte) : Word16 := BitVec.ofNat 16 (bits (pkWord p 8) 16 16)
def cbRank (p : List Byte) : Nat := bits (pkWord p 9) 0 12

namespace State

/-! ### States of a communicator (R439, R456) -/

/-- The communicator with an identifier. -/
def commOf (s : State) (cid : Nat) : Option (Nat × Comm) :=
  (s.comms.find? (fun e => match e.2 with | some c => c.cid.toNat == cid | none => false)).bind (fun e => e.2.map (e.1, ·))

/-- A communicator enters a state: event 0x0406. -/
def commEnter (s : State) (i : Nat) (c : Comm) (st : CommState) (dev rank : Nat) (mismatch : Bool) : State :=
  (s.setComm i (some { c with st := st })).eventBoth c.part 0x0406 i stOk (st.code + 2 ^ 16 * c.gen)
    (dev + 2 ^ 12 * rank + 2 ^ 24 * mismatch.toNat)

/-- A collective of a communicator changes. -/
def modColl (s : State) (i : Nat) (k : Coll) (f : Coll → Coll) : State :=
  match s.comm i with
  | none => s
  | some c => s.setComm i (some { c with colls := c.colls.map (fun x => if x.queue = k.queue ∧ x.seq = k.seq then f x else x) })

/-- A collective ends here with a status: its packet ends, and the communicator keeps nothing of it. -/
def endColl (s : State) (i : Nat) (k : Coll) (st : Word16) : State :=
  (match s.comm i with
   | none => s
   | some c => s.setComm i (some { c with colls := c.colls.filter (fun x => !(x.queue == k.queue && x.seq == k.seq)) })).finish
    k.queue k.seq st 0

/-- Every collective of a communicator in some phase ends with a status. -/
def endColls (s : State) (i : Nat) (st : Word16) (which : Coll → Bool) : State :=
  match s.comm i with
  | none => s
  | some c => (c.colls.filter which).foldl (fun s k => s.endColl i k st) s

/-- Send one packet of a collective to the device of a rank. -/
def sendColl (s : State) (c : Comm) (k : Coll) (rank ptype first n : Nat) (st : Word16) (data : List Byte) : State :=
  match c.devOf rank with
  | none => s
  | some d =>
    s.originate d 2 ptype k.inst (collBlock c.cid.toNat c.gen k.op k.root k.count first n st (c.own.getD 0xFFF) ++ data)

/-! ### JOIN (R439) -/

def sendJoin (s : State) (c : Comm) (d : Nat) (digest : Nat) : State :=
  s.originate d 3 0x30 c.cid.toNat (collBlock c.cid.toNat c.gen 0 0 digest 0 0 stOk (c.own.getD 0xFFF))

/-- JOIN down the tree from this device: to its children, and from rank 0 to every standby without a rank. -/
def joinDown (s : State) (c : Comm) : State :=
  match c.own with
  | none => s
  | some r =>
    let ds := (c.childrenOf r).filterMap c.devOf ++ (if r = 0 then c.idle else [])
    ds.foldl (fun s d => s.sendJoin c d (Comm.digest32 c)) s

/-- The JOIN exchange goes on as far as it can here. -/
def joinStep (s : State) (i : Nat) : State :=
  match s.comm i with
  | none => s
  | some c =>
    if (c.st = .forming ∨ c.st = .remapping) ∧ Comm.subtreeJoined c then
      match c.own with
      | some 0 => (s.commEnter i { c with next := 0 } .ready 0 0 false).joinDown c
      | _ =>
        if c.joinSent then s
        else match Comm.joinTo c with
          | none => s
          | some d => (s.setComm i (some { c with joinSent := true })).sendJoin c d (Comm.digest32 c)
    else s

/-! ### Contribution (R445) -/

/-- The physical tile and first slot of a Cistern range. -/
def cisternAt (s : State) (a : Agent) (da : Nat) : Option (Nat × Nat) := (s.tileOf a da).map (·, daOff da / 128)

def slotReadable (t : Tile) (sl : Nat) : Option Why :=
  if t.stopped then some .held else if t.badSlots.contains sl then some (.status stUncorrectable) else none

/-- Read slot images for a collective; the Cascade engine may read slots of an OPEN group. -/
def readImages (s : State) (a : Agent) (da n : Nat) : Except Why (State × List Quire) :=
  if daSpace da = 2 then
    match s.cisternAt a da with
    | none => .error (.status stNotPermitted)
    | some (t, sl) =>
      match (List.range n).findSome? (fun i => slotReadable (s.tile t) (sl + i)) with
      | some w => .error w
      | none => .ok (s, (List.range n).map (fun i => (s.tile t).slot (sl + i)))
  else match s.load a da (128 * n) with
    | .error w => .error w
    | .ok (s', bs) => .ok (s', imagesOf bs)

/-- The quire slots of a row state: ℓ, then its outputs. -/
def rowSlots (t : Tile) (i : Nat) : List Nat := (t.row i).lslot.toNat :: t.rowOut (t.row i)

/-- The tile of an SMREDUCE. -/
def collTile (s : State) (a : Agent) (k : Coll) : Option Nat := s.tileOf a k.src

/-- This member's contribution for one chunk. -/
def contribution (s : State) (a : Agent) (c : Comm) (k : Coll) (ch : Nat × Nat) : Except Why (State × Option (List Byte)) :=
  let me := c.own.getD 0
  if k.op = 6 then
    match s.collTile a k with
    | none => .error (.status stNotPermitted)
    | some ph =>
      let t := s.tile ph
      let i := k.row0 + ch.1 / (k.cols + 1)
      let sl := ((rowSlots t i).drop (ch.1 % (k.cols + 1))).take ch.2
      match sl.findSome? (slotReadable t) with
      | some w => .error w
      | none =>
        let ws := (t.row i).words
        .ok (s, some (wordsBytes [ws.getD 0 0, ws.getD 1 0, ws.getD 3 0, 0] ++ imageBytes (sl.map t.slot)))
  else if opReduces k.op then
    match s.readImages a (k.src + 128 * ch.1) ch.2 with
    | .error w => .error w
    | .ok (s', qs) => .ok (s', some (imageBytes qs))
  else if k.op = 2 then
    (if me = k.root then (s.load a (k.src + ch.1) ch.2).map (fun r => (r.1, some r.2)) else .ok (s, none))
  else if k.op = 3 then
    (if ch.1 / k.count = me then (s.load a (k.src + ch.1 % k.count) ch.2).map (fun r => (r.1, some r.2)) else .ok (s, none))
  else .ok (s, none)

/-- The whole contribution, chunk by chunk. -/
def contributions (s : State) (a : Agent) (c : Comm) (k : Coll) : List (Nat × Nat) → Except Why (State × List (Nat × List Byte))
  | [] => .ok (s, [])
  | ch :: rest =>
    match s.contribution a c k ch with
    | .error w => .error w
    | .ok (s1, d) =>
      match contributions s1 a c k rest with
      | .error w => .error w
      | .ok (s2, ds) => .ok (s2, (d.map (ch.1, ·)).toList ++ ds)

/-! ### Delivery (R447 to R449) -/

/-- Images that a communicator retains while their group is OPEN (R448); one whose staging area is full unanchors the group. -/
def retain (s : State) (i ph sl : Nat) (rs : List Quire) (mine : Option (List Quire)) : State :=
  match s.comm i with
  | none => s
  | some c =>
    let live := c.kept.filter (fun k => openSlot (s.tile k.tile) k.slot)
    if (live.length + rs.length) * 128 ≤ c.stageLen * 65536 then
      s.setComm i (some { c with kept := live ++ rs.zipIdx.map (fun r =>
        { tile := ph, slot := sl + r.2, step := (s.tile ph).stepNo, image := r.1.image, mine := mine.map (fun cs => (cs.getD r.2 {}).image) }) })
    else
      (s.setComm i (some { c with kept := live })).modTile ph (fun t =>
        { t with groups := t.groups.map (fun e =>
            if e.2.isOpen && e.2.overlaps sl (sl + rs.length) then (e.1, { e.2 with anchored := false }) else e) })

/-- Deliver images at a device address. -/
def deliverImages (s : State) (i : Nat) (a : Agent) (da : Nat) (rs : List Quire) (mine : Option (List Quire)) : Except Why State :=
  if daSpace da = 2 then
    match s.cisternAt a da with
    | none => .error (.status stNotPermitted)
    | some (ph, sl) =>
      let t := s.tile ph
      if t.stopped then .error .held
      else if (List.range rs.length).all (fun j => openSlot t (sl + j)) then
        .ok ((s.setTile ph (t.mergeInto sl rs mine)).retain i ph sl rs mine)
      else .error (.status stConflict)
  else s.store a da (imageBytes rs)

/-- Deliver one part of one row of an SMREDUCE (R449). -/
def deliverRow (s : State) (a : Agent) (k : Coll) (ch : Nat × Nat) (data : List Byte) : Except Why State :=
  match s.collTile a k with
  | none => .error (.status stNotPermitted)
  | some ph =>
    let t := s.tile ph
    let i := k.row0 + ch.1 / (k.cols + 1)
    let r := t.row i
    if t.stopped then .error .held
    else if !t.rowBound i then .error (.status stConflict)
    else
      let w (j : Nat) := leNat ((data.drop (4 * j)).take 4)
      let m := RowState.ofWords [w 0, w 1, 0, w 2]
      let sl := ((rowSlots t i).drop (ch.1 % (k.cols + 1))).take ch.2
      let t1 := (sl.zip (imagesOf (data.drop 16))).foldl (fun t p => t.setSlot p.1 p.2) t
      let t2 := t1.setRow i { r with msnap := m.msnap, minblk := m.minblk, mv := m.mv, rnan := m.rnan, rnar := m.rnar }
      .ok (s.setTile ph { t2 with groups := t2.groups.map (fun e =>
        if e.2.isOpen && sl.any (fun x => e.2.overlaps x (x + 1)) then (e.1, { e.2 with anchored := false }) else e) })

/-- Deliver one chunk of the result at this member. -/
def deliverChunk (s : State) (i : Nat) (a : Agent) (c : Comm) (k : Coll) (ch : Nat × Nat) (data : List Byte) : Except Why State :=
  let me := c.own.getD 0
  let own := if k.src = k.dst && daSpace k.dst = 2 then (k.mine.find? (fun m => m.1 == ch.1)).map (fun m => imagesOf m.2) else none
  if k.op = 6 then s.deliverRow a k ch data
  else if k.op = 0 then s.deliverImages i a (k.dst + 128 * ch.1) (imagesOf data) own
  else if k.op = 1 then (if me = k.root then s.deliverImages i a (k.dst + 128 * ch.1) (imagesOf data) own else .ok s)
  else if k.op = 4 then
    let q := k.count / c.nmem
    let mineFrom := Nat.max ch.1 (me * q)
    let mineTo := Nat.min (ch.1 + ch.2) (me * q + q)
    if mineTo ≤ mineFrom then .ok s
    else
      let cut (l : List Quire) := (l.drop (mineFrom - ch.1)).take (mineTo - mineFrom)
      s.deliverImages i a (k.dst + 128 * (mineFrom - me * q)) (cut (imagesOf data)) (own.map cut)
  else if k.op = 2 then (if k.dst = 0 then .ok s else s.store a (k.dst + ch.1) data)
  else s.store a (k.dst + ch.1) data

/-! ### The up phase (R446) -/

/-- The chunk of this node for its parent, once it has all that it needs: its own first, then its children in ascending rank. -/
def upChunk (c : Comm) (k : Coll) (ch : Nat × Nat) : Option (List Byte) :=
  let me := c.own.getD 0
  let own := (k.mine.find? (fun m => m.1 == ch.1)).map (·.2)
  let kid (r : Nat) := (k.kids.find? (fun x => x.1 == r && x.2.1 == ch.1)).map (fun x => x.2.2)
  let kids := k.children c me
  if opReduces k.op then
    match own, kids.mapM kid with
    | some d, some ds => some (ds.foldl (mergeChunk k.op) d)
    | _, _ => none
  else match own with
    | some d => some d
    | none => kids.findSome? kid

/-- Chunks that can go up and have not: to the parent, or into rank 0's staging area. -/
def upStep (s : State) (i : Nat) (k : Coll) : State :=
  match s.comm i with
  | none => s
  | some c =>
    let me := c.own.getD 0
    if k.op = 5 then
      (if (k.children c me).all k.ranks.contains && k.sent.isEmpty && me != 0 then
        (s.modColl i k (fun x => { x with sent := [0] })).sendColl c k (k.parent c me) 0x22 0 0 stOk []
       else s)
    else
      (k.chunks c.nmem).foldl (fun s ch =>
        if k.sent.contains ch.1 then s
        else match upChunk c k ch with
          | none => s
          | some d =>
            if me = 0 then s.modColl i k (fun x => { x with sent := x.sent ++ [ch.1], result := x.result ++ [(ch.1, d)] })
            else
              (s.modColl i k (fun x => { x with sent := x.sent ++ [ch.1] })).sendColl c k (k.parent c me) 0x20 ch.1 ch.2 stOk
                (wireChunk k.op d)) s

/-! ### The down phase (R447) -/

/-- Rank 0 keeps R until every live member has sent DONE. -/
def dropResult (s : State) (i : Nat) (k : Coll) : State :=
  match s.comm i with
  | none => s
  | some c =>
    if k.ph == .finished && (List.range c.nmem).all (fun r => r == 0 || k.skip.contains r || k.ranks.contains r) then
      s.setComm i (some { c with colls := c.colls.filter (fun x => !(x.queue == k.queue && x.seq == k.seq)) })
    else s

/-- A chunk of R at this member: passed on to its children and kept. -/
def downChunk (s : State) (i : Nat) (k : Coll) (ch : Nat × Nat) (data : List Byte) : State :=
  match s.comm i with
  | none => s
  | some c =>
    let me := c.own.getD 0
    ((k.children c me).foldl (fun s r => s.sendColl c k r 0x21 ch.1 ch.2 stOk (wireChunk k.op data)) s).modColl i k (fun x =>
      { x with ph := .down, done := x.done ++ [ch.1], result := if me = 0 then x.result else x.result ++ [(ch.1, data)] })

/-- Deliver chunks of R in order: all of them or none. -/
def deliverChunks (s : State) (i : Nat) (a : Agent) (c : Comm) (k : Coll) : List (Nat × Nat) → Except Why State
  | [] => .ok s
  | ch :: rest =>
    match s.deliverChunk i a c k ch ((k.result.find? (fun r => r.1 == ch.1)).elim [] (·.2)) with
    | .error w => .error w
    | .ok s1 => deliverChunks s1 i a c k rest

/-- This member's part ends with a status: DONE to rank 0 where it has delivered every chunk, and its packet ends (R447). Rank 0 holds on
to R. -/
def doneColl (s : State) (i : Nat) (k : Coll) (st : Word16) : State :=
  match s.comm i with
  | none => s
  | some c =>
    if c.own.getD 0 = 0 then
      ((s.modColl i k (fun x => { x with ph := .finished })).finish k.queue k.seq st 0).dropResult i { k with ph := .finished }
    else (if st = stOk then s.sendColl c k 0 0x20 0 0 stOk [] else s).endColl i k st

/-- Delivery, once every chunk has come, so that a member which ends in another way has its DST untouched (R447, R455). One held by a
stopped tile waits. (DEDUCED, log entry 47) -/
def deliverColl (s : State) (i : Nat) (k : Coll) : State :=
  match s.comm i with
  | none => s
  | some c =>
    if !(k.chunks c.nmem).all (fun x => k.done.contains x.1) then s
    else match s.deliverChunks i { part := c.part, fn := (s.queue k.queue).owner } c k (k.chunks c.nmem) with
      | .error .held => s
      | .error (.status st) => s.doneColl i k st
      | .ok s1 => s1.doneColl i k stOk

/-- Rank 0 holds R for every chunk: the down phase. -/
def rootDown (s : State) (i : Nat) (k : Coll) : State :=
  match s.comm i with
  | none => s
  | some c =>
    if c.own.getD 1 ≠ 0 then s
    else if k.op = 5 then
      (if (k.children c 0).all k.ranks.contains then
        ((k.children c 0).foldl (fun s r => s.sendColl c k r 0x23 0 0 stOk []) s).endColl i k stOk
       else s)
    else
      let all := k.chunks c.nmem
      if all.all (fun ch => k.result.any (fun r => r.1 == ch.1)) then
        all.foldl (fun s ch =>
          match (s.comm i).bind (fun c => c.colls.find? (fun x => x.queue == k.queue && x.seq == k.seq)) with
          | none => s
          | some x =>
            if x.done.contains ch.1 || x.ph == .finished then s
            else match k.result.find? (fun r => r.1 == ch.1) with
              | none => s
              | some r => s.downChunk i x ch r.2) s
      else s

/-! ### Progress -/

/-- Collectives that run on this device (R429). -/
def collsRunning (s : State) : Nat :=
  s.comms.foldl (fun n e => n + (match e.2 with
    | some c => (c.colls.filter (fun k => k.ph == .up || k.ph == .down)).length
    | none => 0)) 0

/-- Where a packet stands in dispatch order. -/
def turnAt (s : State) (q : Nat) (seq : BitVec 32) : Nat := (s.packets.takeWhile (fun p => !(p.queue == q && p.seq == seq))).length

/-- Collectives of other communicators that wait only for a place and were dispatched before one: a place that frees goes to them first
(R429). -/
def collsAhead (s : State) (i : Nat) (k : Coll) : Nat :=
  (s.comms.filter (fun e => e.1 != i && (match e.2 with
    | some c => c.st == .ready && (match Comm.front c with
      | some x => x.ph == .waiting && decide (s.turnAt x.queue x.seq < s.turnAt k.queue k.seq)
      | none => false)
    | none => false))).length

/-- The oldest collective starts, sends up what it can, and at rank 0 comes down. -/
def collStep (s : State) (i : Nat) : State :=
  match s.comm i with
  | none => s
  | some c =>
    match Comm.front c with
    | none => s
    | some k =>
      let started : State :=
        if k.ph = .waiting then
          (if c.st = .ready ∧ s.collsRunning + s.collsAhead i k < 64 then
            let a : Agent := { part := c.part, fn := (s.queue k.queue).owner }
            match s.contributions a c k (k.chunks c.nmem) with
            | .error .held => s
            | .error (.status st) => s.endColl i k st
            | .ok (s1, mine) =>
              let s2 := s1.modColl i k (fun x => { x with ph := .up, inst := c.next, mine := mine })
              match s2.comm i with
              | none => s2
              | some c2 => s2.setComm i (some { c2 with next := c.next + 1 })
           else s)
        else s
      let again (s : State) (f : State → Coll → State) : State :=
        match (s.comm i).bind Comm.front with
        | some x => if x.queue = k.queue ∧ x.seq = k.seq then f s x else s
        | none => s
      let up := again started (fun s x => if x.ph = .up then s.upStep i x else s)
      let down := again up (fun s x => if x.ph = .up ∨ x.ph = .down then s.rootDown i x else s)
      again down (fun s x => if x.ph = .down then s.deliverColl i x else s)

/-- Collectives of a communicator go on as far as they can: each that ends lets the next start. -/
def collRun (s : State) (i : Nat) : State :=
  match s.comm i with
  | none => s
  | some c => (List.range (c.colls.length + 1)).foldl (fun s _ => s.collStep i) s

/-! ### Losses (R452 to R455) -/

/-- A child sends its parent again what it has sent (R446). -/
def resendUp (s : State) (c : Comm) (k : Coll) : State :=
  let up := k.parent c (c.own.getD 0)
  if k.op = 5 then (if k.sent.isEmpty then s else s.sendColl c k up 0x22 0 0 stOk [])
  else
    (k.chunks c.nmem).foldl (fun s ch =>
      if !k.sent.contains ch.1 then s
      else match upChunk c k ch with
        | none => s
        | some d => s.sendColl c k up 0x20 ch.1 ch.2 stOk (wireChunk k.op d)) s

/-- What a loss does to the collectives of a communicator (R455); `c` has the loss already. A node whose parent it was sends its chunks to
the new parent (R446). -/
def lossColls (s : State) (i : Nat) (c : Comm) (rank : Nat) : State :=
  let running (k : Coll) : Bool := k.ph == .up || k.ph == .down
  if rank = 0 then s.endColls i stLinkDown running
  else if c.own = some 0 then
    c.colls.foldl (fun s k =>
      if k.ph == .up then
        ((List.range c.nmem).foldl (fun s r =>
          if r = 0 || k.skip.contains r then s else s.sendColl c k r (if k.op = 5 then 0x23 else 0x21) 0 0 stLinkDown []) s).endColl
            i k stLinkDown
      else if k.ph == .down || k.ph == .finished then
        (((List.range c.nmem).filter (fun r => r != 0 && !k.skip.contains r && !k.ranks.contains r)).foldl (fun s r =>
          (k.chunks c.nmem).foldl (fun s ch =>
            match k.result.find? (fun x => x.1 == ch.1) with
            | some x => s.sendColl c k r 0x21 ch.1 ch.2 stOk (wireChunk k.op x.2)
            | none => s) s) s).dropResult i k
      else s) s
  else match c.own with
    | some me =>
      let moved (k : Coll) : Bool := { k with skip := k.skip.filter (fun r => r != rank) }.parent c me != k.parent c me
      if me = 0 then s else (c.colls.filter (fun k => k.ph == .up && moved k)).foldl (fun s k => s.resendUp c k) s
    | none => s

/-- A device is lost to a communicator as the holder of a rank, or as a standby without one (rank 0xFFF). -/
def commLoss (s : State) (i dev rank : Nat) : State :=
  match s.comm i with
  | none => s
  | some c =>
    if c.lostDevs.contains dev then s
    else
      let c0 : Comm := { c with lostDevs := c.lostDevs ++ [dev], lost := if rank < c.nmem then insAsc rank c.lost else c.lost }
      let c1 : Comm := { c0 with own := match s.devid with | some d => c0.rankOf d.toNat | none => none }
      if rank ≥ c.nmem then (s.setComm i (some c1)).joinStep i
      else
        let c2 : Comm := { c1 with
          joined := [], joinSent := false,
          colls := c1.colls.map (fun k => if k.ph == .waiting then k else { k with skip := insAsc rank k.skip }) }
        let broken := c2.heirs.any (fun h => h.2.isNone)
        let st := if c.st = .broken ∨ broken then CommState.broken else if c.st = .forming then .forming else .remapping
        let s1 := (s.commEnter i c2 st dev rank false).lossColls i c2 rank
        if st = .broken then s1.endColls i stLinkDown (fun k => k.ph == .waiting)
        else (s1.joinStep i).collRun i

/-- This device finds a loss: LOST to every other member and standby of each communicator that includes the lost device, and the
loss here (R453). -/
def findLossIn (s : State) (dev : Nat) (mine : Comm → Bool) : State :=
  (List.range 256).foldl (fun s i =>
    match s.comm i with
    | none => s
    | some c =>
      if !mine c || !(c.members.any (fun m => m.1 == dev) || c.standbys.contains dev) || c.lostDevs.contains dev then s
      else
        let rank := Comm.rankNow c dev
        let gen := if rank < c.nmem then (insAsc rank c.lost).length else c.gen
        let s1 := (c.devices.filter (fun d => d != dev && d != s.own)).foldl (fun s d =>
          s.originate d 3 0x31 dev (collBlock c.cid.toNat gen 0 0 0 0 0 stOk rank)) s
        s1.commLoss i dev rank) s

def findLoss (s : State) (dev : Nat) : State := s.findLossIn dev (fun _ => true)

end State

end Sys2Proof.Machine
end

