-- ==== Sys2Proof/Machine/Maint.lean ====
section
/-! DEFINITION. The maintenance scheduler: locks, ranks, queues and end events (R352, R354, R499, R503 to R507). -/

namespace Sys2Proof.Machine

/-- The rank of an activity on its lock, by its code (R370, R504); a link action counts as what it holds the lock as (R421). -/
def Act.rank (a : Act) : Nat :=
  match a.kind with
  | .maint _ act => act
  | .link _ action _ => if action = 3 then 1 else 2
  | .stage _ _ => 5

/-- The queued activity of lowest rank. -/
def lowestRank : List Act → Option Act
  | [] => none
  | a :: as => match lowestRank as with
    | none => some a
    | some b => some (if b.rank < a.rank then b else a)

def resKind (res : Nat) : Nat := res / 256 % 16
def resIndex (res : Nat) : Nat := res % 256
def linkRes (link : Nat) : Nat := 2 * 256 + link

/-- Resources: kind and index in range. -/
def resourceOk (kind index : Nat) : Bool :=
  match kind with
  | 0 => decide (index < 256)
  | 1 => decide (index < 8)
  | 2 => decide (index < 32)
  | 3 => decide (index < 32)
  | 4 => decide (index < 4)
  | 5 => decide (index < 2)
  | _ => false

namespace State

def lock (s : State) (res : Nat) : Lock := SMap.get {} s.rel.locks res
def setLock (s : State) (res : Nat) (l : Lock) : State := { s with rel := { s.rel with locks := SMap.set {} s.rel.locks res l } }
/-- A lock that a new request finds held (R352): a holder, or queued activities that it goes to first. (DEDUCED, log entry 51) -/
def lockBusy (s : State) (res : Nat) : Bool := (s.lock res).holder.isSome || !(s.lock res).queue.isEmpty
/-- The holder of a lock and the activities queued on it, all of which are ahead of a request that queues nothing (R352). -/
def lockLen (s : State) (res : Nat) : Nat := (if (s.lock res).holder.isSome then 1 else 0) + (s.lock res).queue.length
/-- The queue position of a request of a rank (R504). -/
def lockPos (s : State) (res rank : Nat) : Nat :=
  (if (s.lock res).holder.isSome then 1 else 0) + ((s.lock res).queue.filter (fun a => decide (a.rank < rank))).length

/-- The end event of a maintenance activity (R354, R499): to the requester, or to the PF for one that the device started. -/
def maintEvent (s : State) (a : Act) (res : Nat) (st : Word16) (result : Nat) : State :=
  s.eventTo (a.fn.getD 0) 0x0580 (a.fn.getD 0xFFFF) st (a.opcode + 2 ^ 16 * a.seq.toNat)
    (a.rank + 2 ^ 8 * resIndex res + 2 ^ 16 * resKind res + 2 ^ 32 * result)

/-- The activity that holds a lock ends; a link under test becomes DISABLED (R404), a sweep that has not come to its end stops. -/
def endMaint (s : State) (res : Nat) (st : Word16) (result : Nat) : State :=
  match (s.lock res).holder with
  | none => s
  | some a =>
    let s1 := s.setLock res { s.lock res with holder := none }
    let s2 := if resKind res = 2 then
        s1.modLink (resIndex res) (fun l => if l.st = LState.test then { l with st := LState.disabled } else l.stopSweep) else s1
    match a.kind with
    | .maint _ _ => s2.maintEvent a res st result
    | _ => s2

/-- What starting an activity does at once (R408, R424, R506, R507): one whose need is not met ends with ST_CONFLICT. A link with no
lanes in service has no healthy spare to sweep with. (DEDUCED, log entry 51) -/
def beginMaint (s : State) (res : Nat) : State :=
  match (s.lock res).holder with
  | some { kind := .maint _ act, .. } =>
    if resKind res = 2 then
      let l := s.link (resIndex res)
      if act = 4 then
        (if l.st = .disabled ∨ l.st = .down then s.setLink (resIndex res) { l with st := .test } else s.endMaint res stConflict 0)
      else if act = 2 then
        (if l.rx.spare.isSome ∧ (l.st = .active ∨ l.st = .recovery) then s.setLink (resIndex res) (l.sweepFrom 0)
         else s.endMaint res stConflict 0)
      else if act = 1 then (if l.st = .active ∨ l.st = .recovery then s else s.endMaint res stConflict 0)
      else s
    else s
  | _ => s

/-- A lock without a holder goes to the queued activity of lowest rank (R504). -/
def grantLock (s : State) (res : Nat) : State :=
  let l := s.lock res
  match l.holder, lowestRank l.queue with
  | none, some a => (s.setLock res { holder := some a, queue := l.queue.erase a }).beginMaint res
  | _, _ => s

/-- A maintenance request of host software: the state, the status and QPOS (R352, R370, R504). -/
def requestMaint (s : State) (a : Act) (res : Nat) (enq : Bool) : State × Word16 × Nat :=
  let l := s.lock res
  if !s.lockBusy res then ((s.setLock res { l with holder := some a }).beginMaint res, stOk, 0)
  else if enq && l.queue.any (fun x => x.rank == a.rank) then (s, stConflict, 0)
  else (if enq then s.setLock res { l with queue := l.queue ++ [a] } else s, stBusy, s.lockPos res a.rank)

/-- An activity that the device starts itself: it stops a running equalisation, scrub or self-test (R505), and waits for any
other holder. -/
def autoMaint (s : State) (res act : Nat) : State :=
  let a : Act := { fn := none, opcode := 0, seq := 0, kind := .maint res act }
  let s1 := match (s.lock res).holder with
    | some { kind := .maint _ h, .. } => if 2 ≤ h then s.endMaint res stAborted 0 else s
    | _ => s
  let l := s1.lock res
  if l.queue.any (fun x => x.rank == act) then s1
  else match l.holder with
    | some h => if h.rank = act then s1 else s1.setLock res { l with queue := l.queue ++ [a] }
    | none => (s1.setLock res { l with holder := some a }).beginMaint res

end State

end Sys2Proof.Machine
end

