-- ==== Sys2Proof/Machine/Repair.lean ====
section
/-! DEFINITION. What firmware does with a unit that is beyond repair: the array disabled and the logical number bound to a spare (R29, R30,
R127, R500), and uncorrectable errors as they are found (R490, R500, R612). -/

namespace Sys2Proof.Machine

namespace State

/-! ### Arrays and tiles that are lost (R29, R30, R127, R500) -/

/-- The partition whose logical tiles include a physical tile. -/
def boundPart (s : State) (ph : Nat) : Option Nat := (s.parts.find? (fun e => e.2.held && e.2.bind.contains ph)).map (·.1)

/-- A partition that cannot continue: the device is lost to its communicators (R30). -/
def losePart (s : State) (i : Nat) : State :=
  let s1 := s.setPart i { s.part i with lost := true }
  match s.devid with
  | some d => s1.findLossIn d.toNat (fun c => c.part == i)
  | none => s1

/-- A tile's array is disabled, or the whole tile retired: its mask bit is cleared, event 0x0101 is written, and its logical number
goes to the lowest-numbered spare of the partition. (DEDUCED, log entry 48) -/
def loseArray (s : State) (ph : Nat) (retired : Bool) : State :=
  let fl := if retired then { s.flash with retired := insAsc ph s.flash.retired } else { s.flash with disabled := insAsc ph s.flash.disabled }
  let s1 := { s.modTile ph (fun t => { t with arrayOn := false }) with flash := fl }
  let after := ((List.range 256).filter (fun t => (s1.tile t).arrayOn)).length
  let owner := (s1.ownerOf (·.hasTile ph)).getD 0
  match s1.boundPart ph with
  | none =>
    let p := s1.part owner
    (s1.setPart owner { p with spares := p.spares.filter (· != ph) }).eventBoth owner 0x0101 ph stOk after owner
  | some i =>
    let p := s1.part i
    match p.spares.filter (fun t => (s1.tile t).arrayOn) with
    | sp :: _ =>
      (s1.setPart i { p with bind := p.bind.map (fun t => if t = ph then sp else t), spares := p.spares.filter (· != sp) }).eventBoth i
        0x0101 ph stOk after (i + 256 + 65536 * sp)
    | [] => (s1.eventBoth i 0x0101 ph stOk after i).losePart i

/-- A launch occupies a tile. -/
def occupied (s : State) (ph : Nat) : Bool := !s.tilesFree ((s.boundPart ph).getD 255) || (s.tile ph).running

/-- Lose a tile's array, before the next launch of its partition (R30). -/
def dropArray (s : State) (ph : Nat) (retired : Bool) : State :=
  if s.flash.retired.contains ph || (!retired && s.flash.disabled.contains ph) then s
  else if s.occupied ph then
    (if s.rel.dueTiles.any (fun e => e.1 == ph) then s
     else { s with rel := { s.rel with dueTiles := s.rel.dueTiles ++ [(ph, retired)] } })
  else s.loseArray ph retired

/-- What waited for a partition's launch to end. -/
def dropDue (s : State) (part : Nat) : State :=
  let due := s.rel.dueTiles.filter (fun e => (s.part part).hasTile e.1)
  let s1 : State := { s with rel := { s.rel with dueTiles := s.rel.dueTiles.filter (fun e => !(s.part part).hasTile e.1) } }
  due.foldl (fun s e => s.loseArray e.1 e.2) s1

/-! ### Cretharel pairs (R336, R493) -/

/-- Index of a pair: 0 north, 1 south; the standby is the other one (R25). -/
def activeIdx (s : State) : Nat := s.boot.activePair.toNat
def standbyIdx (s : State) : Nat := 1 - s.activeIdx

/-- A pair fails: the standby goes out of service, or takes over; without a healthy standby the device has failed. The pair that
stopped is tested. -/
def pairFails (s : State) (standby : Bool) (cls : Nat) : State :=
  if standby then
    if !s.boot.standbyOk then s
    else
      let s1 := s.report { cls := cls, severity := 1, kind := 5, index := s.standbyIdx, action := 6 }
      ({ s1 with boot := { s1.boot with standbyOk := false } }).autoMaint (5 * 256 + s.standbyIdx) 4
  else if !s.boot.standbyOk then s.failDevice { cls := cls, severity := 4, kind := 5, index := s.activeIdx }
  else
    let old := s.activeIdx
    let res := 5 * 256 + s.standbyIdx
    let s0 := s.endMaint res stAborted 0
    let s1 : State := { s0 with boot := { s0.boot with activePair := !s0.boot.activePair, standbyOk := false } }
    let s2 := s1.report { cls := cls, severity := 1, kind := 5, index := old, action := 4 }
    (s2.eventPF 0x0102 s2.activeIdx stOk (s2.taken.length + s2.pinWait.length) 0).autoMaint (5 * 256 + old) 4

/-! ### Uncorrectable errors (R490, R500, R612) -/

/-- How often a place has been found bad before. -/
def seen (s : State) (key : Nat) : Nat := SMap.get 0 s.rel.seenBad key
def see (s : State) (key : Nat) : State := { s with rel := { s.rel with seenBad := SMap.set 0 s.rel.seenBad key (s.seen key + 1) } }
def badKey (kind index loc : Nat) : Nat := (kind * 256 + index) * 2 ^ 48 + loc

/-- Report a persistently faulty unit (R500). -/
def persistent (s : State) (kind index : Nat) (part : Option Nat) (loc action : Nat) : State :=
  s.report { cls := 0x0A, severity := 3, kind := kind, index := index, part := part, location := loc, action := action }

/-- Report an uncorrectable error (R490). -/
def reportBad (s : State) (kind index : Nat) (part : Option Nat) (pkt : Option (Nat × BitVec 32)) (loc : Nat) (st : Word16) : State :=
  (s.report { cls := if kind = 1 then 4 else 2, severity := 2, kind := kind, index := index, part := part, pkt := pkt,
              location := loc, status := st }).tally kind index (fun c => { c with uncorr := satInc c.uncorr })

/-- What an uncorrectable line of a tile's own memory does to the launch that runs there, whose work reads it: the slot's groups are
rebuilt (R102), a Basin line that the work writes again is replayed, any other input ends the launch (R299, R477), and so does a line
of the journal. A line that nothing of the launch holds, or that scrub finds (R501), is only reported. -/
def hitTile (s : State) (ph sp off line unit da : Nat) (read : Bool) (mark clear : Tile → Tile) : State :=
  let t := s.tile ph
  let groups := (t.groups.filter (fun e => !e.2.isFree && e.2.overlaps line (line + 1))).map (·.1)
  let marked := s.setTile ph (mark t)
  let told := marked.reportBad 0 ph (s.resourcePart 0 ph) none da stOk
  if !t.running then told
  else if sp = 2 then (if groups.isEmpty then told else s.replayTile ph 2 false groups da id)
  else if !read then told
  else if sp = 3 ∧ 0x3_8000 ≤ off then
    (s.reportBad 0 ph (s.resourcePart 0 ph) (s.tilePacket ph) da stReplay).failTile ph stReplay 0 t.pc
  else if sp = 3 ∧ t.auxDemand ≤ off then told
  else
    match (mark t).damage [⟨sp, unit * line, unit * line + unit⟩] with
    | some (.replay l) => marked.replayTile ph 2 false [] l clear
    | some (.lost l) => marked.loseTile ph 0 ph l
    | none => told

/-- A tile's own memory: Basin, Cistern or auxiliary SRAM by the space of the address; anything else is rewritten from the binary or
from firmware, and the step replays (R193, R490). A line found bad again after a write is persistently faulty (R500). -/
def badTile (s : State) (ph loc : Nat) (read : Bool) : State :=
  let sp := loc / 2 ^ 44
  let off := loc % 2 ^ 24
  let t := s.tile ph
  let unit := if sp = 1 then 64 else if sp = 2 then 128 else 16
  let size := if sp = 1 then basinSize else if sp = 2 then cisternSize else auxSize
  let line := off / unit
  let da := sp * 2 ^ 44 + 2 ^ 43 + t.ltile * 2 ^ 24 + unit * line
  if 1 ≤ sp ∧ sp ≤ 3 ∧ off < size then
    let was := if sp = 1 then t.badBasin.contains line else if sp = 2 then t.badSlots.contains line else t.badAux.contains line
    let mark (t : Tile) : Tile :=
      if sp = 1 then { t with badBasin := insAsc line t.badBasin }
      else if sp = 2 then { t with badSlots := insAsc line t.badSlots } else { t with badAux := insAsc line t.badAux }
    let clear (t : Tile) : Tile := { t with badBasin := t.badBasin.filter (· != line) }
    let key := badKey 0 ph (sp * 2 ^ 24 + line)
    let s1 := s.hitTile ph sp off line unit da read mark clear
    if was then s1
    else if s.seen key = 0 then s1.see key
    else ((s1.see key).persistent 0 ph (s.resourcePart 0 ph) da 6).dropArray ph true
  else if t.running then s.replayTile ph 2 false [] 0 id
  else s.report { cls := 2, severity := 1, kind := 0, index := ph, part := s.resourcePart 0 ph, action := 1 }

/-- A fault found on a tile: acted on at once, or held while the tile's clocks are stopped (R135, R195). A checker's fault touches the work
that runs; `array`: it lies in the tensor array. -/
def tileFault (s : State) (ph : Nat) (f : HeldFault) : State :=
  let t := s.tile ph
  if t.stopped then s.setTile ph { t with held := t.held ++ [f] }
  else
    match f with
    | .checker cls array groups => if t.running then s.replayTile ph cls array groups 0 id else s
    | .memory loc read => s.badTile ph loc read

/-- A line of HBM. -/
def badHbmLine (s : State) (pa : Nat) : State :=
  let line := pa / 64
  let h := stackOf pa
  let part := s.ownerOf (fun p => bitOf p.hbm (pa / 2 ^ 30))
  let key := badKey 1 h line
  let s1 := ({ s with rel := { s.rel with badHbm := insAsc line s.rel.badHbm } }).reportBad 1 h part none (64 * line) stOk
  if s.rel.badHbm.contains line then s1
  else if s.seen key = 0 then s1.see key
  else
    let s2 := (s1.see key).persistent 1 h part (64 * line) 5
    { s2 with rel := { s2.rel with persist := insAsc (256 + h) s2.rel.persist, duePages := insAsc (pa / 65536) s2.rel.duePages } }

/-- An entry of a Channel Scale Table, named by LOCATION (R153; DEDUCED, log entry 42): persistently faulty, its line is written anew from firmware's copy; failing again, the table
is retired (R500). -/
def badEntry (s : State) (die i : Nat) : State :=
  let part := s.ownerOf (·.hasCst die i)
  let key := badKey 4 die (i / 8)
  let k := die * 131072 + i
  let was := s.rel.badCst.contains k
  let s1 := ({ s with rel := { s.rel with badCst := insAsc k s.rel.badCst } }).reportBad 4 die part none i stOk
  if was then s1
  else if s.seen key = 0 then s1.see key
  else if s.seen key = 1 then
    let s2 := (s1.see key).persistent 4 die part i 1
    { s2 with rel := { s2.rel with badCst := s2.rel.badCst.filter (fun j => decide (j / 8 != k / 8)) } }
  else
    let s2 := (s1.see key).persistent 4 die part i 6
    { s2 with rel := { s2.rel with cstOut := insAsc die s2.rel.cstOut } }

end State

end Sys2Proof.Machine
end

