-- ==== Sys2Proof/Machine/TileCommit.lean ====
section
/-! DEFINITION. The commit of a step (R239, R254, R260, R271). -/

namespace Sys2Proof.Machine

namespace State

/-- The oldest uncommitted step of a tile changes. -/
def modOldest (s : State) (ph : Nat) (f : StepRec → StepRec) : State :=
  s.modTile ph (fun t => { t with steps := match t.steps with | [] => [] | x :: xs => f x :: xs })

/-- Part 1 of a commit (R260): flags and records, digests, checkpoints and the origins they move (R261). -/
def commitFirst (s : State) (ph : Nat) (st : StepRec) : State :=
  s.modTile ph (fun t =>
    let t1 := st.folds.foldl Tile.foldDigest { t with status := t.status.absorb st }
    st.ckpts.foldl (fun t c =>
      if (t.group c.1).isFree then t
      else t.setGroup c.1 { t.group c.1 with origin := st.num + 1, anchored := true, ckpt := some ⟨1, c.2.1, c.2.1 + c.2.2⟩ }) t1)

/-- How one deferred write goes: it lands (what is left of it), it waits, or it ends the launch. -/
inductive Landing where
  | landed (s : State) (rest : Option Deferred)
  | waits
  | fails (st : Word16)

/-- Perform one deferred write of step `num`, or the next WRITE packet of one for another device. The source is read as it stands
(R239), which joins the footprint (R263). -/
def landOne (s : State) (ph num : Nat) (d : Deferred) : Landing :=
  let t := s.tile ph
  let src := d.src.toNat
  let dst := d.dst.toNat
  let n := if daSpace dst = 5 then Nat.min d.len maxWrite else d.len
  let hit := (daSpace src == 2 && (slotsOf (daOff src) n).any t.badSlots.contains)
    || (t.damage [⟨daSpace src, daOff src, daOff src + n⟩]).isSome
  if hit then .fails stUncorrectable
  else
    let bs := t.ownBytes (daSpace src) (daOff src) n
    let s := s.modTile ph (fun t => { t with foot := t.foot ++ [⟨⟨daSpace src, daOff src, daOff src + n⟩, false, num⟩] })
    if daSpace dst = 5 then
      if s.canRequest (remoteDev dst) then
        let s1 := s.request (remoteDev dst) 1 (remoteOff dst) 0 bs (.tile ph d.idx)
          (match s.tilePacket ph with | some (q, _) => q | none => 0)
        .landed s1 (if d.len ≤ n then none
          else some { d with src := d.src + BitVec.ofNat 48 n, dst := d.dst + BitVec.ofNat 48 n, len := d.len - n })
      else .waits
    else match s.store (s.kernelAgent ph) dst bs with
      | .ok s1 => .landed s1 none
      | .error .held => .waits
      | .error (.status st) => .fails st

/-- Part 2 (R260): deferred writes in issue order, each struck off the step as it lands. -/
def landDeferred (s : State) (ph : Nat) : Nat → State
  | 0 => s
  | n + 1 =>
    match (s.tile ph).steps with
    | [] => s
    | st :: _ =>
      match st.deferred with
      | [] => s
      | d :: ds =>
        match s.landOne ph st.num d with
        | .waits => s
        | .fails status =>
          let s1 := s.modTile ph (fun t => { t with steps := t.steps.drop 1 })
          s1.failTile ph status 0 d.idx
        | .landed s1 rest => landDeferred (s1.modOldest ph (fun x => { x with deferred := rest.toList ++ ds })) ph n

/-- Part 3 (R260): signals in issue order; then the step is committed, and after END every group is FREE (R84). -/
def commitLast (s : State) (ph : Nat) (st : StepRec) : State :=
  let s1 := st.signals.foldl (fun s g => s.syncAdd g.1 g.2.toNat) s
  let s2 := s1.modTile ph (fun t =>
    Tile.journalDrop { t with steps := t.steps.drop 1, replays := 0, groups := if st.final then [] else t.groups })
  s2.count (unitTile ph) 0x010 1 1 0

/-- Writes that a step still owes, in packets at most. -/
def owed (st : StepRec) : Nat := st.deferred.foldl (fun n d => n + d.len / maxWrite + 2) 1

end State

/-- The oldest uncommitted step of a tile commits, once its boundary has been reached. A write for a stopped tile, or an answer
from another device, holds the commit where it is. -/
def execStepCommit (tile : Nat) (s : State) : Host.Outcome State Fault Refusal :=
  s.run (fun s =>
    let t := s.tile tile
    match t.steps with
    | [] => s
    | st :: _ =>
      if !t.running || t.stopped || t.parked || !st.closed then s
      else
        let s1 := if st.sent then s else (s.commitFirst tile st).modOldest tile (fun x => { x with sent := true })
        let s2 := s1.landDeferred tile (State.owed st)
        match (s2.tile tile).steps with
        | [] => s2
        | st2 :: _ =>
          if st2.num = st.num ∧ st2.deferred.isEmpty
              ∧ ¬ s2.reqs.any (fun r => match r.from_ with | .tile ph _ => ph == tile | _ => false)
          then s2.commitLast tile st2 else s2)

end Sys2Proof.Machine
end

