-- ==== Sys2Proof/Machine/Context.lean ====
section
/-! DEFINITION. Context save and restore (R103, R129, R130, R318, R319, R481 to R485). -/

namespace Sys2Proof.Machine

/-! ### The save area (R482, R483) -/

def tilesec (basin : Bool) (aux : Nat) : Nat :=
  if basin then (7232 * 1024 + aux + 4095) / 4096 * 4096 else 1088 * 1024

/-- CTX_SIZE of a launch (R483). -/
def ctxSize (l : Launch) (basin : Bool) : Nat := 4096 + l.nltile * tilesec basin l.auxdem

/-- A group-table entry in its 8 bytes (R83). -/
def Group.entry (g : Group) : List Byte :=
  leBytes 4 (g.base + (g.rows - 1) * 2 ^ 16)
  ++ leBytes 4 (g.cols - 1 + (match g.st with | .freeG => 0 | .openG => 1 | .closedG => 2) * 2 ^ 8)

/-- A group table read back from its 256 bytes (R83): base, extents and state from the entries; anchors, origins and checkpoints are
the journal's. -/
def Tile.groupsFrom (t : Tile) (bs : List Byte) : SMap Group :=
  (List.range 32).foldl (fun m h =>
    let v := leNat ((bs.drop (8 * h)).take 8)
    let st : GState := match bits v 40 2 with | 1 => .openG | 2 => .closedG | _ => .freeG
    SMap.set Group.empty m h
      (if st = .freeG then Group.empty
       else { t.group h with base := bits v 0 13, rows := bits v 16 13 + 1, cols := bits v 32 7 + 1, st := st })) []

/-- The row states read back from their 8,192 bytes (R197); which of them a kernel has bound is the journal's. -/
def Tile.rowsFrom (t : Tile) (bs : List Byte) : SMap RowState :=
  (List.range 512).foldl (fun m i =>
    SMap.set RowState.empty m i
      (if (t.row i).bound then RowState.ofWords (bytesWords 4 (bs.drop (16 * i))) else t.row i)) []

/-- The running digests read back: tag, CRC, bytes and instructions of each that the tile keeps. -/
def Tile.digestsFrom (t : Tile) (bs : List Byte) : List DigestRun :=
  (List.range t.digests.length).map (fun i =>
    let w (j : Nat) : Nat := leNat ((bs.drop (32 * i + 8 * j)).take 8)
    { tag := w 0, crc := BitVec.ofNat 64 (w 1), bytes := w 2, instrs := w 3 })

/-- The A registers read back. -/
def aregsFrom (bs : List Byte) : SMap Addr48 :=
  (List.range 16).foldl (fun m i => SMap.set 0 m i (BitVec.ofNat 48 (leNat ((bs.drop (8 * i)).take 8)))) []

/-- The first `n` bytes of some, padded with zeros. -/
def padTo (n : Nat) (bs : List Byte) : List Byte := bs.take n ++ List.replicate (n - bs.length) 0

/-- A tile section (R483). The manual names what some fields hold without their encoding; those bytes are the free value `free`.
(DEDUCED, log entry 40) -/
def tileSection (t : Tile) (basin : Bool) (free : Nat) : List Byte :=
  let f (at_ n : Nat) := leBytes n (free / 2 ^ (8 * at_))
  let seq := leBytes 8 t.pc ++ (List.range 16).flatMap (fun i => leBytes 8 (t.areg i).toNat) ++ f 0 120
  let groups := (List.range 32).flatMap (fun h => (t.group h).entry)
  let dig := t.digests.flatMap (fun d => leBytes 8 d.tag ++ leBytes 8 d.crc.toNat ++ leBytes 8 d.bytes ++ leBytes 8 d.instrs)
  let rows := (List.range 512).flatMap (fun i => wordsBytes (t.row i).words)
  let head := padTo 256 seq ++ padTo 256 groups ++ f 120 512 ++ List.replicate 0 0
  let a := padTo 0x440 (head ++ padTo 32 t.status.image) ++ leBytes 8 t.bgen.toNat
  let b := padTo 0x800 a ++ padTo 2048 dig ++ f 632 12288 ++ padTo 8192 rows ++ f 12920 32768 ++ List.replicate 8192 0
  let c := (List.range 8192).flatMap (fun i => (t.slot i).image)
  let d := if basin then t.basin.bytes 0 0x60_0000 ++ t.aux.bytes 0 t.auxDemand else []
  padTo (tilesec basin t.auxDemand) (padTo 0x1_0000 b ++ c ++ d)

/-- The header of a save area with CHECK zero (R482). -/
def ctxHeader (s : State) (l : Launch) (basin : Bool) : List Byte :=
  padTo 4096 (wordsBytes ([0x4354_5853, 1, l.queue + l.part * 2 ^ 14 + basin.toNat * 2 ^ 18, l.nltile,
    s.fuses.serial.toNat % 2 ^ 32, s.fuses.serial.toNat / 2 ^ 32, s.boot.epoch.toNat, s.fuses.stepping.toNat, s.jet.version.toNat,
    tilesec basin l.auxdem, 0, 0, 0, 0, 0, 0] ++ l.words))

/-- The area with its CHECK. -/
def ctxSeal (area : List Byte) : List Byte := area.take 40 ++ leBytes 8 (crc64 0 area) ++ area.drop 48

namespace State

/-! ### Saving -/

/-- The tiles of a launch in logical order. -/
def launchPhys (s : State) (l : Launch) : List Nat := s.tilesOf l.part l.nltile

/-- A tile that has been saved runs nothing; its memories stay (R103, R485). Its group-table entries are FREE at once, as at kernel end:
R83 names no other writer for a kernel that leaves the tile by a save. (DEDUCED, log entry 70) -/
def unload (s : State) (ph : Nat) : State :=
  s.modTile ph (fun t => { t with
    running := false, ended := false, parked := false, preempt := false, cutRun := none, steps := [], wait := none, groups := [], rows := [],
    foot := [], marks := [], images := [], outReads := [], active := none, shadow := none, pack := [] })

/-- Every tile of a pre-empted launch has reached its boundary: the area is written, the launch's packet ends with ST_PREEMPTED,
its queue becomes SUSPENDED, and the CONTEXT_SAVE ends after that packet, with the bytes written (R318). -/
def finishSave (s : State) (l : Launch) (save : Nat × BitVec 32) : State :=
  let tiles := (s.launchPhys l).zipIdx
  let d := s.draw
  let area := ctxHeader s l l.saveBase
    ++ tiles.flatMap (fun e => tileSection (s.tile e.1) l.saveBase (d.1 / 2 ^ (8 * 45688 * e.2)))
  let s1 := d.2.storeOrLose { part := l.part, fn := l.fn } l.saveAddr (ctxSeal area)
  let copies : List SavedTile := tiles.map (fun e =>
    { queue := l.queue, seq := l.seq, ltile := e.2, phys := e.1, basin := l.saveBase, tile := s.tile e.1 })
  let keep := s1.saved.filter (fun x => !(x.queue == l.queue && x.seq == l.seq))
  let s2 := tiles.foldl (fun s e => s.unload e.1) { s1 with saved := keep ++ copies }
  let (q, n) := l.restore.getD (l.queue, l.seq)
  let s3 := s2.modLaunch l.queue l.seq (fun x => { x with ph := .suspended, saving := none, restore := none })
  let s4 := s3.modQueue l.queue (fun c => if c.created then { c with st := QState.suspended } else c)
  (s4.finish q n stPreempted 0).saveDone save (q, n) area.length

end State

/-- The running launch of a queue: its tiles have started, and it has not completed (R318). -/
def State.runningFrom (s : State) (q : Nat) : Option Launch :=
  s.launches.find? (fun l => l.queue == q && (l.ph == .running || (l.ph == .ended && l.started)))

/-- CONTEXT_SAVE: the running launch of TQUEUE is pre-empted; with none, nothing is written; one whose tiles have ended completes first
(R318). With SAVELEN 0 the address is not checked (R15). -/
def execContextSave (queue : Nat) (seq : BitVec 32) (s : State) : Host.Outcome State Fault Refusal :=
  s.run (fun s =>
    match s.frontPacket queue seq 8 with
    | none => s
    | some p =>
      let ws := p.words
      let part := s.queuePart queue
      let a : Agent := { part := part, fn := (s.queue queue).owner }
      let tq := word ws 4 % 2 ^ 14
      let basin := (word ws 4).testBit 14
      let addr := addr48 ws 5
      let l := s.runningFrom tq
      let need := match l with | some l => ctxSize l basin | none => 0
      let room := 4096 * word ws 7
      let st := firstFail (s.headerChecks p ++
        [(!withinMasks ws [0x7FF, m32, 0x7FFF, m32, 0x7FFF, m32, 0xFFFF, m32], stBadOpcode),
         (daSpace addr != 0 || !s.allowed a addr (Nat.min need room) true, stNotPermitted),
         (!(s.queue tq).created || s.queuePart tq != part || (s.queue tq).qtype != 0, stBadQueue),
         (room != 0 && addr % 4096 != 0, stBadAlign),
         (decide (room < need), stBadLength)])
      if st != stOk then s.finish queue seq st 0
      else match l with
        | none => s.finish queue seq stOk 0
        | some l =>
          if l.saving.isSome then s
          else if l.ph == .ended then s.saveDone (queue, seq) (l.restore.getD (l.queue, l.seq)) 0
          else
            let s1 := (s.modPacket queue seq (fun p => { p with work := .save })).modLaunch l.queue l.seq (fun x =>
              { x with saving := some (queue, seq), saveAddr := addr, saveBase := basin })
            (s1.launchPhys l).foldl (fun s ph => s.modTile ph (fun t => { t with preempt := true })) s1)

/-- The instruction at a tile's program counter, run up to a boundary inside it: the `k`-th group boundary of a pass, the last edge of
an output block within `k` elements, the `k`-th block or row of a row-statistics operation (R128, R167, R194, R211). -/
def State.runCut (s : State) (ph : Nat) (t : Tile) (k : Nat) : TRes :=
  let w := t.instrAt t.pc
  let c := some k
  match opcode w with
  | 0x02 => tileSTREAM t w c
  | 0x10 => tileREQUANT (s.tctx ph) t w c
  | 0x11 => tileCVT t w c
  | 0x14 => tileJET (s.tctx ph) t w c
  | 0x15 =>
    match fld w 0 8 3 with
    | 1 => tileSMTERM t w c
    | 2 => tileSMMERGE t w c
    | 3 => tileSMNORM t w c
    | 4 => tileNSTAT t w c
    | 5 => tileNVAR t w c
    | _ => .illegal 0x01
  | 0x18 => tileTLOAD t w c
  | 0x19 =>
    match fld w 0 8 5 with
    | 0 => tileNEAR .copy t w c | 1 => tileNEAR .add t w c | 2 => tileNEAR .sub t w c | 3 => tileNEAR .mul t w c
    | 4 => tileNEAR .max t w c | 5 => tileNEAR .min t w c | 6 => tileNEAR .fma t w c | 7 => tileNEAR .normrow t w c
    | 8 => tileNEAR .affcol t w c | 9 => tileNEAR .neg t w c | 10 => tileNEAR .abs t w c
    | _ => .illegal 0x01
  | _ => .illegal 0x01

/-- A tile as a pre-emption finds it inside the instruction at its program counter, `k` boundaries in: what the instruction has done
so far, and what its resumption starts from. The tile as it stands where that instruction has not begun: it cannot issue, would end
the launch, waits for a boundary or a commit, or meets an uncorrectable line. -/
def State.cutInside (s : State) (ph : Nat) (k : Nat) : Tile :=
  let t := s.tile ph
  if !t.canIssue (t.instrAt t.pc) then t
  else match s.runCut ph t k with
    | .ok t' rd wr =>
      if (t.damage rd).isSome || hits (inputsSince t.foot t.stepNo) wr || t.steps.any (fun x => hitsDeferred x t t' wr) || t.journalDue then t
      else
        let changed := ((t.cistern ++ t'.cistern).map (·.1)).filter (fun i => t.slot i != t'.slot i)
        { t' with cutRun := some { pos := k, undo := t'.curStep.undo.take (t'.curStep.undo.length - t.curStep.undo.length),
                                   slots := changed.map (fun i => (i, t.slot i)), rows := t.rows, active := t.active,
                                   shadow := t.shadow, steps := t.steps } }
    | _ => t

/-- A tile that takes up again an instruction stopped inside: what the instruction had done is taken back, and it issues again whole,
with the bits of an uninterrupted run (R103, R481). -/
def Tile.uncut (t : Tile) : Tile :=
  match t.cutRun with
  | none => t
  | some c =>
    let put (t : Tile) (u : Nat × Nat × Byte) : Tile :=
      if u.1 = 1 then { t with basin := t.basin.setByte u.2.1 u.2.2 } else { t with aux := t.aux.setByte u.2.1 u.2.2 }
    let t1 := c.slots.foldl (fun t e => t.setSlot e.1 e.2) (c.undo.foldl put t)
    { t1 with rows := c.rows, active := c.active, shadow := c.shadow, steps := c.steps, cutRun := none }

/-- A pending pre-emption takes effect on a tile (R129, R271, R484): between two instructions, at a WAIT at once, after any commit in
progress, or at a boundary inside the instruction at the program counter; how far that instruction had run is a free value. Once it
has on every tile of the launch, the launch is saved. (DESIGN CHOICE, log entry 75) -/
def execPreemptBoundary (tile : Nat) (s : State) : Host.Outcome State Fault Refusal :=
  s.run (fun s =>
    let t := s.tile tile
    if !t.running || !t.preempt || t.parked || t.stopped || t.steps.any (·.sent) then s
    else
      let d := s.draw
      let s1 := d.2.setTile tile { s.cutInside tile d.1 with parked := true, wait := none }
      match s1.runningOf t.part with
      | none => s1
      | some l =>
        match l.saving with
        | some p => if (s1.launchPhys l).all (fun ph => (s1.tile ph).parked) then s1.finishSave l p else s1
        | none => s1)

/-! ### Restoring (R319, R485) -/

/-- Bytes of a tile section within an area. -/
def sectionAt (area : List Byte) (sec i off n : Nat) : List Byte := (area.drop (4096 + i * sec + off)).take n

namespace State

/-- The suspended launch of a queue. -/
def suspendedOf (s : State) (q : Nat) : Option Launch := s.launches.find? (fun l => l.queue == q && l.ph == .suspended)

def savedTile (s : State) (l : Launch) (i : Nat) : Option SavedTile :=
  s.saved.find? (fun x => x.queue == l.queue && x.seq == l.seq && x.ltile == i)

/-- Check 6 of R485: without the Basin, the same physical tiles with BGEN unchanged. -/
def sameTiles (s : State) (l : Launch) (area : List Byte) (sec : Nat) : Bool :=
  ((s.launchPhys l).zipIdx).all (fun e =>
    match s.savedTile l e.2 with
    | some x => x.phys == e.1 && leNat (sectionAt area sec e.2 0x440 8) == (s.tile e.1).bgen.toNat
    | none => false)

/-- The checks of R485 on a whole area. -/
def ctxValid (s : State) (part : Nat) (area : List Byte) : Bool :=
  let w (i : Nat) := leNat ((area.drop (4 * i)).take 4)
  let tq := w 2 % 2 ^ 14
  w 0 == 0x4354_5853 && w 1 == 1
    && leNat ((area.drop 40).take 8) == crc64 0 (area.take 40 ++ List.replicate 8 0 ++ area.drop 48)
    && bits (w 2) 14 4 == part
    && w 4 + 2 ^ 32 * w 5 == s.fuses.serial.toNat && w 6 == s.boot.epoch.toNat
    && w 7 == s.fuses.stepping.toNat && w 8 == s.jet.version.toNat
    && (s.queue tq).st == .suspended
    && (match s.suspendedOf tq with
        | none => false
        | some l => w 3 == l.nltile && ((w 2).testBit 18 || s.sameTiles l area (w 9)))

/-- Read a save area: its header says how long it is. -/
def ctxArea (s : State) (a : Agent) (addr room : Nat) : Except Why (State × List Byte) :=
  match s.load a addr 4096 with
  | .error w => .error w
  | .ok (s1, h) =>
    let w (i : Nat) := leNat ((h.drop (4 * i)).take 4)
    s1.load a addr (Nat.min room (4096 + w 3 % 512 * w 9))

/-- A tile takes up a launch again (R103, R130): what its section's encoding gives comes from the section; where it runs now, its
own memories stay when the save left them out. -/
def reloadTile (s : State) (l : Launch) (basin : Bool) (area : List Byte) (sec : Nat) (e : Nat × Nat) : State :=
  match s.savedTile l e.2 with
  | none => s
  | some x =>
    let cur := s.tile e.1
    let part (off n : Nat) := sectionAt area sec e.2 off n
    let slots : SMap Quire := ((List.range 8192).map (fun i => (i, Quire.ofImage (part (0x1_0000 + 128 * i) 128)))).filter
      (fun c => c.2 != Quire.cleared)
    let t : Tile := { x.tile with
      basin := if basin then cur.basin.setBytes 0 (part 0x11_0000 0x60_0000) else cur.basin,
      aux := if basin then cur.aux.setBytes 0 (part (0x11_0000 + 0x60_0000) x.tile.auxDemand) else cur.aux,
      badBasin := if basin then [] else cur.badBasin, badAux := if basin then [] else cur.badAux,
      pc := leNat (part 0 8), aregs := aregsFrom (part 8 128), status := NumRec.ofWords (bytesWords 8 (part 0x400 32)),
      digests := Tile.digestsFrom x.tile (part 0x800 2048), rows := Tile.rowsFrom x.tile (part 0x4000 8192),
      cistern := slots, groups := Tile.groupsFrom x.tile (part 0x100 256), badSlots := [], repair := cur.repair, arrayOn := cur.arrayOn, stopped := cur.stopped,
      bgen := if basin then cur.bgen + 1 else cur.bgen, sampler := cur.sampler, cstCache := [],
      preempt := false, parked := false, running := true }
    s.setTile e.1 t.uncut

/-- A restored launch resumes on the partition's tiles; where the checks no longer hold it stays suspended (R319, R485). -/
def resumeLaunch (s : State) (l : Launch) (addr room : Nat) : State :=
  let refuse (s : State) (st : Word16) : State :=
    let (q, n) := l.restore.getD (l.queue, l.seq)
    (s.modLaunch l.queue l.seq (fun x => { x with ph := .suspended, restore := none })).finish q n st 0
  match s.ctxArea { part := l.part, fn := l.fn } addr room with
  | .error (.status st) => refuse s st
  | .error .held => s
  | .ok (s1, area) =>
    let susp := s1.modLaunch l.queue l.seq (fun x => { x with ph := .suspended })
    if !susp.ctxValid l.part area then refuse s1 stConflict
    else
      let w (i : Nat) := leNat ((area.drop (4 * i)).take 4)
      let s2 := ((s1.launchPhys l).zipIdx).foldl (fun s e => s.reloadTile l ((w 2).testBit 18) area (w 9) e)
        (s1.modLaunch l.queue l.seq (fun x => { x with ph := .running }))
      (s1.launchPhys l).foldl settle
        { s2 with saved := s2.saved.filter (fun x => !(x.queue == l.queue && x.seq == l.seq)) }

end State

/-- CONTEXT_RESTORE: the area is verified, and its launch waits for the partition's tiles again (R319). With SAVELEN 0 it restores nothing
(R15). -/
def execContextRestore (queue : Nat) (seq : BitVec 32) (s : State) : Host.Outcome State Fault Refusal :=
  s.run (fun s =>
    match s.frontPacket queue seq 9 with
    | none => s
    | some p =>
      let ws := p.words
      let part := s.queuePart queue
      let a : Agent := { part := part, fn := (s.queue queue).owner }
      let addr := addr48 ws 5
      let room := 4096 * word ws 7
      let st := firstFail (s.headerChecks p ++
        [(!withinMasks ws [0x7FF, m32, 0x7FFF, m32, 0, m32, 0xFFFF, m32], stBadOpcode),
         (daSpace addr != 0 || !s.allowed a addr room false, stNotPermitted),
         (room != 0 && addr % 4096 != 0, stBadAlign)])
      if st != stOk ∨ room = 0 then s.finish queue seq st 0
      else match s.ctxArea a addr room with
        | .error (.status st) => (s.reportRead a addr room (some (queue, seq)) 0).finish queue seq st 0
        | .error .held => s
        | .ok (s1, area) =>
          if !s1.ctxValid part area then s1.finish queue seq stConflict 0
          else match s1.suspendedOf (leNat ((area.drop 8).take 4) % 2 ^ 14) with
            | none => s1.finish queue seq stConflict 0
            | some l =>
              (s1.modPacket queue seq (fun p => { p with work := .launch })).modLaunch l.queue l.seq (fun x =>
                { x with ph := .waiting, restore := some (queue, seq), saveAddr := addr }))

/-- A launch may start: it waits, its tiles are free, and nothing holds it back (R269, R311, R332, R506). -/
def State.startable (s : State) (l : Launch) : Bool :=
  l.ph == .waiting && !l.readErr && !(s.part l.part).lost && s.tilesFree l.part && !s.heldBack l && !(s.tilesOf l.part l.nltile).any s.maintains

/-- A validated launch starts its logical tiles once they are free and nothing holds it back (R269, R311, R332), or resumes on them
(R319). -/
def execLaunchStart (queue : Nat) (seq : BitVec 32) (s : State) : Host.Outcome State Fault Refusal :=
  s.run (fun s =>
    match s.launch? queue seq with
    | none => s
    | some l =>
      let s := if s.tilesFree l.part then s.dropDue l.part else s
      s.when (s.startable l) (fun s =>
        match l.restore with
        | none => s.startLaunch l
        | some (q, n) => s.resumeLaunch l l.saveAddr (4096 * (match s.packet? q n with | some p => word p.words 7 | none => 0))))

end Sys2Proof.Machine
end

