-- ==== Sys2Proof/Machine/Sluice.lean ====
section
/-! DEFINITION. The Sluice engines: DMA packets (R316, R380, R381), descriptors (R383 to R386), beats (R387 to R389), retries and halts
(R390 to R392), completion and records (R393 to R396); and the bus errors of every requester (R390, R613). -/

namespace Sys2Proof.Machine

/-! ### Descriptors (R383, R384) -/

def dOp (ws : List Nat) : Nat := word ws 0 % 16
def dRec (ws : List Nat) : Bool := (word ws 0).testBit 4
def dSig (ws : List Nat) : Bool := (word ws 0).testBit 5
def dSrc (ws : List Nat) : Nat := addr48 ws 2
def dDst (ws : List Nat) : Nat := addr48 ws 4
def dLen (ws : List Nat) : Nat := word ws 6
def dRows (ws : List Nat) : Nat := word ws 7 + 1
def dSrcStride (ws : List Nat) : Nat := word ws 8
def dDstStride (ws : List Nat) : Nat := word ws 9

/-- Allowed bits of a descriptor by OP; none for a reserved OP. -/
def dMasks : Nat → Option (List Nat)
  | 0 => some [0x3F, m32, m32, 0xFFFF, m32, 0xFFFF, 0xFF_FFFF, 0xFFFF, m32, m32, 0x7FFF, m32]
  | 1 => some [0x3F, m32, 0, 0, m32, 0xFFFF, 0xFF_FFFF, 0xFFFF, 0, m32, 0x7FFF, m32, m32, m32]
  | 2 => some [0x3F, m32, m32, 0xFFFF, m32, 0xFFFF, 0x1F, 0xF, 0, 0, 0x7FFF, m32]
  | _ => none

/-- OP, reserved fields and the fields that must be zero (row 1 of R385). -/
def dFieldsOk (ws : List Nat) : Bool :=
  match dMasks (dOp ws) with
  | none => false
  | some m => withinMasks ws m && (dSig ws || (word ws 10 == 0 && word ws 11 == 0))

/-- One side of a transfer: rows of `len` bytes, `stride` apart. -/
structure Extent where
  da     : Nat
  rows   : Nat
  len    : Nat
  stride : Nat
  write  : Bool
  deriving DecidableEq, Repr

namespace Extent

/-- Bytes of the bounding interval. -/
def span (e : Extent) : Nat := (e.rows - 1) * e.stride + e.len
def rowAt (e : Extent) (r : Nat) : Nat := e.da + r * e.stride

/-- It runs past the end of its memory, space or remote window (row 5 of R385). -/
def pastEnd (e : Extent) : Bool :=
  let sp := daSpace e.da
  if sp = 0 then decide (2 ^ 38 < e.da + e.span)
  else if sp = 1 then decide (basinSize < daOff e.da + e.span)
  else if sp = 2 then decide (cisternSize < daOff e.da + e.span)
  else if sp = 3 then false
  else if sp = 4 then decide (2 ^ 44 < e.da % 2 ^ 44 + e.span)
  else decide (2 ^ 32 < e.da % 2 ^ 32 + e.span)

/-- Alignment of a Cistern range (R86), and a row stride smaller than a row (row 4 of R385); a CONFIG has addresses alone. -/
def misaligned (config : Bool) (e : Extent) : Bool :=
  (daSpace e.da == 2 && (e.da % 128 != 0 || (!config && (e.len % 128 != 0 || e.stride % 128 != 0))))
    || (decide (1 < e.rows) && decide (e.stride < e.len))

/-- Bounding intervals of two sides share a byte (row 6 of R385). -/
def overlaps (a b : Extent) : Bool :=
  daSpace a.da == daSpace b.da && decide (a.da < b.da + b.span) && decide (b.da < a.da + a.span)

end Extent

/-- The sides of a descriptor: source and destination, or ring and head (R384). -/
def dSides (ws : List Nat) : List Extent :=
  let src : Extent := { da := dSrc ws, rows := dRows ws, len := dLen ws, stride := dSrcStride ws, write := false }
  let dst : Extent := { da := dDst ws, rows := dRows ws, len := dLen ws, stride := dDstStride ws, write := true }
  if dOp ws = 0 then [src, dst]
  else if dOp ws = 1 then [dst]
  else if dSrc ws = 0 then []
  else
    [{ da := dSrc ws, rows := 1, len := 32 * 2 ^ dLen ws, stride := 0, write := true },
     { da := dDst ws, rows := 1, len := 8, stride := 0, write := false }]

namespace State

/-- What the partition may reach of a side (row 2 of R385); `whole`: every byte counts, not the first alone. -/
def sideOpen (s : State) (a : Agent) (config whole : Bool) (e : Extent) : Bool :=
  let sp := daSpace e.da
  if sp = 5 then e.write && !config
  else
    (s.place a e.da 1 e.write).isSome &&
      (!whole ||
        (if sp = 0 then (List.range e.rows).all (fun r =>
            decide (2 ^ 38 ≤ e.rowAt r) || s.allowed a (e.rowAt r) (Nat.min e.len (2 ^ 38 - e.rowAt r)) e.write)
         else if sp = 3 then (match s.tileOf a e.da with
            | some t => decide (daOff e.da + e.span ≤ s.tileLimit 3 t)
            | none => false)
         else true))

/-- A Cistern range that touches a slot of an OPEN group (R86). -/
def sideHeldOpen (s : State) (a : Agent) (e : Extent) : Bool :=
  daSpace e.da == 2 && (match s.tileOf a e.da with
    | some t => (List.range e.rows).any (fun r => (slotsOf (daOff (e.rowAt r)) e.len).any (openSlot (s.tile t)))
    | none => false)

/-- Validation of a descriptor (R385, R386). -/
def descStatus (s : State) (a : Agent) (ws : List Nat) : Word16 :=
  let config := dOp ws == 2
  let moves := config || dLen ws != 0
  let sides := if moves then dSides ws else []
  let small := if config then decide (dLen ws ≤ 16) else decide (dRows ws * dLen ws ≤ 2 ^ 32)
  firstFail [
    (!dFieldsOk ws, stBadOpcode),
    (sides.any (fun e => !s.sideOpen a config small e), stNotPermitted),
    (dSig ws && !(s.part a.part).hasSync (word ws 10), stBadSync),
    (sides.any (·.misaligned config)
      || (config && dSrc ws != 0 && (dDst ws % 8 != 0 || dSrc ws % Nat.min (32 * 2 ^ dLen ws) 4096 != 0)), stBadAlign),
    (!small || sides.any (·.pastEnd) || (config && decide (dLen ws < 4)), stBadLength),
    (match sides with
      | [x, y] => !config && x.overlaps y
      | _ => false, stConflict),
    (sides.any (s.sideHeldOpen a), stConflict)]

/-! ### Channels (R379, R380, R392) -/

/-- A self-test holds the engine (R397, R506). -/
def engineTested (s : State) (engine : Nat) : Bool :=
  match (s.lock (3 * 256 + engine)).holder with
  | some { kind := .maint _ 4, .. } => true
  | _ => false

/-- An idle channel takes its next packet, unless the engine is under test. -/
def serve (s : State) (k : Nat) : State :=
  let c := s.chan k
  match c.pkt, c.queue with
  | none, p :: rest =>
    if s.engineTested (k / 64) then s
    else s.setChan k { c with st := .active, pkt := some p, queue := rest, runs := [], buf := [], stop := none }
  | _, _ => s

/-- The packet a channel serves ends, with the status of an abort or a halt that came after its last descriptor where there was one; the
channel takes the next (R380, R397). -/
def endChan (s : State) (k : Nat) (st : Word16) : State :=
  let c := s.chan k
  match c.pkt with
  | none => s
  | some p =>
    ((s.setChan k { c with st := .idle, pkt := none, runs := [], buf := [], stop := none, headErr := none }).finish p.queue p.seq
      (c.stop.getD st) 0).serve k

/-- A run of the channel, by its place after the packet's index, changes. -/
def modRun (s : State) (k j : Nat) (f : DescRun → DescRun) : State := s.modChan k (fun c => { c with runs := c.runs.modify j f })

/-- A channel halts, or its packet ends at once where no descriptor is in progress (R391, R392). -/
def haltChan (s : State) (k : Nat) (st : Word16) (fault : Nat) : State :=
  if (s.chan k).runs.isEmpty then s.endChan k st else s.stopChan k st fault

/-- The access of a run of the channel met a bus error (R390). -/
def chanError (s : State) (k j : Nat) (da : Nat) : State :=
  let c := s.chan k
  match c.runs[j]? with
  | none => s
  | some d =>
    if c.retryMax ≤ d.tries then s.haltChan k stBusError da
    else (s.modRun k j (fun d => { d with errAddr := some da })).modChan k (fun c => { c with st := .waiting })

def chanAgent (p : ChanPkt) : Agent := { part := p.part, fn := p.fn }
/-- The address of a descriptor of the packet, by its place after the packet's index. -/
def descAddr (p : ChanPkt) (j : Nat := 0) : Nat := p.desc + 64 * (p.idx + j)

/-- A CONFIG takes effect (R384). -/
def configure (c : Chan) (ws : List Nat) : Chan :=
  { c with ring := dSrc ws, head := dDst ws, log2 := dLen ws, retryMax := word ws 7, pidx := 0, headSeen := 0 }

/-- The descriptor at the packet's index comes to its turn: it is validated, and one that moves nothing is done (R385, R386). -/
def startDesc (s : State) (k : Nat) (p : ChanPkt) (d : DescRun) (rest : List DescRun) : State :=
  let ws := d.words
  let st := s.descStatus (chanAgent p) ws
  let d1 : DescRun := { d with checked := true, unread := false, tries := 0 }
  let put (f : Chan → Chan) (d : DescRun) : State := s.modChan k (fun c => { f c with runs := d :: rest })
  if st != stOk then put (fun c => { c with buf := [] }) { d1 with halt := some (st, 0), tdone := s.time }
  else if dOp ws = 2 then put (configure · ws) { d1 with finished := true, tdone := s.time }
  else if dLen ws = 0 then put id { d1 with finished := true, tdone := s.time }
  else put id d1

/-- Read the descriptor at the packet's index where none is in progress, if its OP is the row's or reserved, or take up the one fetched
ahead (R382, R385, R390, R391). -/
def fetchDesc (s : State) (k op : Nat) : State :=
  let c := s.chan k
  let mine (ws : List Nat) : Bool := dOp ws == op || decide (2 < dOp ws)
  match c.pkt with
  | none => s
  | some p =>
    let due := match c.runs with | [] => true | d :: _ => d.unread && d.errAddr.isNone && d.halt.isNone
    if c.stopped then s
    else if due then
      let d : DescRun := c.runs.headD { words := [], unread := true }
      match s.load (chanAgent p) (descAddr p) 64 with
      | .ok (s1, bs) =>
        let ws := bytesWords 16 bs
        if mine ws then (s1.hbmLatency (chanAgent p) (descAddr p) 64).startDesc k p { d with words := ws } [] else s
      | .error (.status st) =>
        let s1 := s.setChan k { c with runs := [d] }
        if st = stBusError then s1.chanError k 0 (descAddr p)
        else (s1.reportRead (chanAgent p) (descAddr p) 64 (some (p.queue, p.seq)) 0).haltChan k st (descAddr p)
      | .error .held => s
    else match c.runs with
      | d :: rest => if !d.checked && mine d.words then s.startDesc k p d rest else s
      | [] => s

/-- Up to `n` descriptors are fetched ahead of the one in its turn, at most four (R378, R382). One whose read would fail is left to its
turn. -/
def fetchAhead (s : State) (k : Nat) : Nat → State
  | 0 => s
  | n + 1 =>
    let c := s.chan k
    match c.pkt, c.runs with
    | some p, d :: rest =>
      if d.unread || c.stopped || 4 ≤ rest.length || p.count ≤ p.idx + c.runs.length then s
      else match s.load (chanAgent p) (descAddr p c.runs.length) 64 with
        | .ok (s1, bs) => fetchAhead ((s1.hbmLatency (chanAgent p) (descAddr p c.runs.length) 64).modChan k (fun c => { c with runs := c.runs ++ [{ words := bytesWords 16 bs }] })) k n
        | .error _ => s
    | _, _ => s

/-! ### Beats (R378, R387, R389) -/

/-- A beat reads (1) or writes (2). -/
def countBeat (s : State) (k : Nat) (p : ChanPkt) (event : Nat) : State := s.count (unitSluice (k / 64)) event 1 1 (2 ^ p.pclass)

/-- A write beat leaves the engine: for a remote window as a request, elsewhere as bytes in flight (R391, R393). -/
def beatOut (s : State) (k : Nat) (p : ChanPkt) (dst : Nat) (bs : List Byte) : Except Word16 State :=
  if daSpace dst = 5 then
    .ok (s.request (remoteDev dst) 1 (remoteOff dst) 0 bs (.chan (k / 64) (k % 64) p.seq) p.queue)
  else
    match s.place (chanAgent p) dst bs.length true with
    | none => .error stNotPermitted
    | some pl =>
      match s.writeBar pl bs.length with
      | some (.status st) => .error st
      | _ =>
        let f : Flight := match pl with
          | .hbm pa => { chan := k, queue := p.queue, seq := p.seq, da := dst, space := 0, tile := 0, addr := pa, data := bs }
          | .tile sp ph off => { chan := k, queue := p.queue, seq := p.seq, da := dst, space := sp, tile := ph, addr := off, data := bs }
          | .host fn ad => { chan := k, queue := p.queue, seq := p.seq, da := dst, space := 4, tile := fn, addr := ad, data := bs }
        .ok { s with flights := s.flights ++ [f] }

end State

/-- The beat of a descriptor at a byte position: source, destination, and bytes up to the end of the row and of the destination's 64-byte
line (R378, R384). -/
def beatAt (ws : List Nat) (pos : Nat) : Nat × Nat × Nat :=
  let len := dLen ws
  let b := pos % len
  let dst := dDst ws + pos / len * dDstStride ws + b
  (dSrc ws + pos / len * dSrcStride ws + b, dst, Nat.min (64 - dst % 64) (len - b))

/-- Bytes of a COPY or FILL. -/
def dTotal (ws : List Nat) : Nat := if dOp ws = 2 then 0 else dRows ws * dLen ws

/-- A run has read beats to issue: a COPY not yet read through. -/
def DescRun.reads (d : DescRun) : Bool := dOp d.words == 0 && !d.unread && decide (d.rpos < dTotal d.words)

namespace State

/-- Beats may issue: the channel serves a packet, is ACTIVE, and no access of it waits for a retry. -/
def moving (c : Chan) : Bool := c.st == .active && !c.stopped && c.runs.all (·.errAddr.isNone)

/-- The channel's next read beat: the state after it, or none where it can issue none now. Descriptors are read in order, each once every
read of the one before has issued and it has passed validation; 16 beats at most are held (R378, R387, R389). (DEDUCED, log entry 35) -/
def readBeat (s : State) (k : Nat) : Option State :=
  let c := s.chan k
  match c.pkt, c.runs.findIdx? (·.reads) with
  | some p, some j =>
    match c.runs[j]? with
    | none => none
    | some d =>
      let (src, _, n) := beatAt d.words d.rpos
      if !moving c || 16 ≤ c.buf.length then none
      else if !d.checked && (j = 0 || s.descStatus (chanAgent p) d.words != stOk) then none
      else
        let s0 := s.modRun k j (fun d => { d with checked := true })
        match s0.load (chanAgent p) src n with
        | .error .held => none
        | .error (.status st) =>
          some (if st = stBusError then s0.chanError k j src
            else (s0.reportRead (chanAgent p) src n (some (p.queue, p.seq)) 0).haltChan k st src)
        | .ok (s1, bs) =>
          some ((((s1.countBeat k p 1).hbmLatency (chanAgent p) src n).modRun k j (fun d => { d with rpos := d.rpos + n, tries := 0 })).modChan k
            (fun c => { c with buf := c.buf ++ [bs] }))
  | _, _ => none

/-- The channel's next write beat: of the descriptor in its turn, from the staging buffer or the pattern. -/
def writeBeat (s : State) (k : Nat) : Option State :=
  let c := s.chan k
  match c.pkt, c.runs with
  | some p, d :: _ =>
    let ws := d.words
    let (_, dst, n) := beatAt ws d.pos
    let fill := dOp ws == 1
    let pat := leBytes 8 (word64 ws 12)
    let bs := if fill then (List.range n).map (fun i => pat.getD ((d.pos % dLen ws + i) % 8) 0) else c.buf.headD []
    if !moving c || !d.checked || d.finished || !(fill || decide (d.pos < d.rpos)) then none
    else if daSpace dst = 5 && !s.canRequest (remoteDev dst) then none
    else
      some (match s.beatOut k p dst bs with
        | .error st => (s.reportRead (chanAgent p) dst n (some (p.queue, p.seq)) 0).haltChan k st dst
        | .ok s1 =>
          let last := decide (dTotal ws ≤ d.pos + n)
          ((s1.countBeat k p 2).modRun k 0 (fun d =>
            { d with pos := d.pos + n, tries := if fill then 0 else d.tries, finished := last, tdone := if last then s.time else d.tdone })).modChan k
              (fun c => if fill then c else { c with buf := c.buf.drop 1 }))
  | _, _ => none

/-- A beat of a channel: write or read. -/
def beat (s : State) (k : Nat) (write : Bool) : Option State := if write then s.writeBeat k else s.readBeat k

/-- Where the last grant of an engine, a class and a direction is noted. -/
def grantKey (k pclass : Nat) (write : Bool) : Nat := (k / 64 * 4 + pclass) * 2 + write.toNat

/-- It is the channel's turn for a beat: no channel of a higher class of its engine can issue one, and round robin among those of its
class that can has reached it (R387). (DEDUCED, log entry 38) -/
def beatTurn (s : State) (k : Nat) (write : Bool) : Bool :=
  let cls (c : Chan) : Nat := match c.pkt with | some p => p.pclass | none => 0
  let mine := cls (s.chan k)
  let can := s.chans.filter (fun e => e.1 / 64 == k / 64 && e.2.pkt.isSome && (s.beat e.1 write).isSome)
  can.all (fun e => decide (cls e.2 ≤ mine))
    && nextServed ((can.filter (fun e => cls e.2 == mine)).map (·.1 % 64)) (SMap.get 63 s.granted (grantKey k mine write)) == some (k % 64)

/-- Up to `n` beats of a channel, each in its turn. -/
def beats (s : State) (k : Nat) (write : Bool) : Nat → State
  | 0 => s
  | n + 1 =>
    if s.beatTurn k write then
      match s.beat k write, (s.chan k).pkt with
      | some s1, some p => beats { s1 with granted := SMap.set 63 s1.granted (grantKey k p.pclass write) (k % 64) } k write n
      | _, _ => s
    else s

/-! ### Landings (R133, R389, R391, R393, R394) -/

/-- A write in flight lands at its place; one for a stopped tile stays (R133, R393). One that may not be made when it gets there halts its
channel, if its packet still runs, and is reported to the queue's next FENCE if not (R391). (DESIGN CHOICE for the latter, log entry 35) -/
def landFlight (s : State) (f : Flight) : State :=
  let p : Place := if f.space = 0 then .hbm f.addr else if f.space = 4 then .host f.tile f.addr else .tile f.space f.tile f.addr
  let gone : State := { s with flights := s.flights.erase f }
  match s.writeBar p f.data.length with
  | some .held => s
  | some (.status st) =>
    let s1 := gone.reportRead { part := s.queuePart f.queue, fn := (s.queue f.queue).owner } f.da f.data.length (some (f.queue, f.seq)) 0
    if (match (s1.chan f.chan).pkt with | some p => p.queue == f.queue && p.seq == f.seq | none => false) then s1.haltChan f.chan st f.da
    else s1.noteRemote f.queue st
  | none => gone.put p f.data

/-- Writes in flight land, oldest first. -/
def land (s : State) (mine : Flight → Bool) : State := (s.flights.filter mine).foldl State.landFlight s

/-- The oldest `n` writes in flight of a channel land, in the order they left (R389). -/
def landChan (s : State) (k n : Nat) : State := ((s.flights.filter (fun f => f.chan == k)).take n).foldl landFlight s

end State

/-- Two writes in flight of one channel to one 64-byte line, which land in the order they left (R389). -/
def Flight.sameLine (f g : Flight) : Bool := f.chan == g.chan && f.space == g.space && f.tile == g.tile && f.addr / 64 == g.addr / 64

/-- FENCE: what the queue's earlier packets wrote lands before it completes, after what their channels wrote to the same lines before. -/
def execFence (queue : Nat) (seq : BitVec 32) (s : State) : Host.Outcome State Fault Refusal :=
  s.run (fun s =>
    match s.frontPacket queue seq 5 with
    | none => s
    | some p =>
      let st := firstFail (s.headerChecks p ++ [(!withinMasks p.words [0x7FF, m32, 0x7FFF, m32], stBadOpcode)])
      if st != stOk then s.finish queue seq st 0
      else (s.land (fun f => s.flights.any (fun g => g.queue == queue && f.sameLine g))).modPacket queue seq (fun p => { p with work := .fence }))

namespace State

/-! ### Completion and records (R393 to R396) -/

/-- A record (R395). -/
def sluiceRecord (k : Nat) (c : Chan) (p : ChanPkt) (d : DescRun) (st : Word16) (fault : Nat) : List Byte :=
  wordsBytes [0x84 + (if c.pidx < 2 ^ c.log2 then 256 else 0) + 65536 * st.toNat, word d.words 1,
    k / 64 + 32 * (k % 64) + 2048 * p.pclass + 65536 * (p.idx % 65536), d.pos % 2 ^ 32, d.pos / 2 ^ 32 % 2 + 2 * Nat.min d.retries 15,
    fault % 2 ^ 32, fault / 2 ^ 32 % 2 ^ 32, d.tdone % 2 ^ 32]

def ringFull (c : Chan) : Bool := (c.pidx + 2 ^ (c.log2 + 1) - c.headSeen) % 2 ^ (c.log2 + 1) == 2 ^ c.log2

/-- The descriptor is over: its SIG where it completed well, then the next descriptor or the packet's end (R392, R393). -/
def afterRecord (s : State) (k : Nat) (p : ChanPkt) (d : DescRun) : State :=
  match d.halt with
  | some (st, _) => s.endChan k st
  | none =>
    let s1 := s.count (unitSluice (k / 64)) 5 1 1 (2 ^ p.pclass)
    let s2 := if dSig d.words then s1.syncAdd (word d.words 10) (word d.words 11) else s1
    let c := s2.chan k
    if p.count ≤ p.idx + 1 || (c.stop.isSome && c.runs.length ≤ 1) then s2.endChan k stOk
    else s2.modChan k (fun c => { c with st := .active, runs := c.runs.drop 1, headErr := none, pkt := some { p with idx := p.idx + 1 } })

/-- Write the record into a ring with space, and go on. A record for a stopped tile waits at its router (R133); one that cannot land is lost
(R613). -/
def recordOut (s : State) (k : Nat) (p : ChanPkt) (d : DescRun) : State :=
  let c := s.chan k
  let (st, fault) := d.halt.getD (stOk, 0)
  let at_ := c.ring + 32 * (c.pidx % 2 ^ c.log2)
  let bs := sluiceRecord k c p d st fault
  let put (s : State) : State := (s.setChan k { c with pidx := (c.pidx + 1) % 2 ^ (c.log2 + 1) }).afterRecord k p d
  match s.store (chanAgent p) at_ bs with
  | .error .held => s
  | _ => put (s.storeOrLose (chanAgent p) at_ bs)

/-- HEADADDR could not be read for good: no record, and the packet ends (R613). -/
def headFails (s : State) (k : Nat) (st : Word16) : State := s.endChan k st

/-- A read of HEADADDR met a bus error, the `tries`-th reissue of it (R613). -/
def headError (s : State) (k tries : Nat) : State :=
  if (s.chan k).retryMax ≤ tries then s.headFails k stBusError
  else s.modChan k (fun c => { c with st := .waiting, headErr := some tries })

/-- A descriptor that is done, or has halted, completes: the record that is due needs space in the ring, for which HEADADDR is
read again (R393, R396). With none in progress, a packet that has been stopped ends (R392). `tries`: reissues of that read so far. -/
def completeDesc (s : State) (k tries : Nat) : State :=
  let c := s.chan k
  match c.pkt, c.runs with
  | some p, d :: _ =>
    if !d.finished && d.halt.isNone then s
    else if c.ring = 0 || !(dRec d.words || d.halt.isSome) then s.afterRecord k p d
    else if !ringFull c then s.recordOut k p d
    else
      match s.load (chanAgent p) c.head 8 with
      | .ok (s1, bs) =>
        let c1 := { c with headSeen := leNat bs % 2 ^ (c.log2 + 1), headErr := none }
        if ringFull c1 then s1.setChan k { c1 with st := .waiting } else (s1.setChan k c1).recordOut k p d
      | .error (.status st) =>
        if st = stBusError then s.headError k tries
        else (s.reportRead (chanAgent p) c.head 8 (some (p.queue, p.seq)) 0).headFails k st
      | .error .held => s.setChan k { c with st := .waiting }
  | some _, [] => if c.stop.isSome then s.endChan k stOk else s
  | none, _ => s

/-- A DMA packet of an aborted queue: its descriptors in progress halt, what has completed stands, no retry is issued, and the packet ends
with ST_ABORTED (R312, R391, R392, R397). -/
def abortDma (s : State) (q : Nat) (seq : BitVec 32) : State :=
  let s1 := s.chans.foldl (fun s e =>
    match (s.chan e.1).pkt with
    | some p =>
      if p.queue = q ∧ p.seq = seq then
        let s1 := s.haltChan e.1 stAborted 0
        if (s.chan e.1).runs.isEmpty then s1
        else s1.modChan e.1 (fun c => { c with st := .active, stop := some stAborted, headErr := none })
      else s
    | none => s) s
  if s1.chans.any (fun e => e.2.queue.any (fun p => p.queue == q && p.seq == seq)) then
    let drop (c : Chan) : Chan := { c with queue := c.queue.filter (fun p => !(p.queue == q && p.seq == seq)) }
    { s1 with chans := SMap.mapVals {} (fun _ c => drop c) s1.chans }.finish q seq stAborted 0
  else s1

/-- The rows that move a descriptor of one OP on: the channel takes its packet and its descriptor, fetches some ahead, and while that
descriptor is in its turn issues beats; then some of its writes in flight land. -/
def sluiceRow (s : State) (engine chan op : Nat) (b : Beats) (land : Nat) : State :=
  if engine < 32 ∧ chan < 64 then
    let k := engine * 64 + chan
    let s1 := ((s.serve k).fetchDesc k op).fetchAhead k b.ahead
    let mine := match (s1.chan k).runs with | d :: _ => dOp d.words == op && !d.unread | [] => false
    (if mine then (s1.beats k false b.reads).beats k true b.writes else s1).landChan k land
  else s

end State

/-- DMA (R316, R381). -/
def execDma (queue : Nat) (seq : BitVec 32) (s : State) : Host.Outcome State Fault Refusal :=
  s.run (fun s =>
    match s.frontPacket queue seq 2 with
    | none => s
    | some p =>
      let ws := p.words
      let part := s.queuePart queue
      let fn := (s.queue queue).owner
      let a : Agent := { part := part, fn := fn }
      let engine := word ws 4 % 32
      let k := engine * 64 + bits (word ws 4) 5 6
      let desc := addr48 ws 5
      let count := word ws 7
      let st := firstFail (s.headerChecks p ++
        [(!withinMasks ws [0x7FF, m32, 0x7FFF, m32, 0x1FFF, m32, 0xFFFF, 0xFFFF], stBadOpcode),
         (!(s.part part).hasEngine engine || !s.readable a desc (64 * count) false, stNotPermitted),
         (count != 0 && desc % 64 != 0, stBadAlign)])
      if st != stOk then s.finish queue seq st 0
      else if count = 0 then s.finish queue seq stOk 0
      else if s.rel.sluiceOut.contains engine then s.finish queue seq stUncorrectable 0
      else
        let c : ChanPkt := { queue := queue, seq := seq, desc := desc, count := count, idx := 0, pclass := bits (word ws 4) 11 2,
                             part := part, fn := fn }
        ((s.modPacket queue seq (fun p => { p with work := .dma })).modChan k (fun x => { x with queue := x.queue ++ [c] })).serve k)

/-- A COPY: read beats into the staging buffer, write beats out of it. -/
def execSluiceCopy (engine chan : Nat) (beats : Beats) (land : Nat) (s : State) : Host.Outcome State Fault Refusal :=
  s.run (·.sluiceRow engine chan 0 beats land)

/-- A FILL: write beats of the pattern, and read beats of the descriptors that follow it. -/
def execSluiceFill (engine chan : Nat) (beats : Beats) (land : Nat) (s : State) : Host.Outcome State Fault Refusal :=
  s.run (·.sluiceRow engine chan 1 beats land)

/-- A CONFIG. -/
def execSluiceConfig (engine chan : Nat) (s : State) : Host.Outcome State Fault Refusal :=
  s.run (·.sluiceRow engine chan 2 ⟨0, 0, 0⟩ 0)

/-- The descriptor in progress completes, or writes its halt record. -/
def execSluiceDescComplete (engine chan : Nat) (s : State) : Host.Outcome State Fault Refusal :=
  s.run (fun s => s.when (decide (engine < 32) && decide (chan < 64) && (s.chan (engine * 64 + chan)).st == .active) (fun s =>
    s.completeDesc (engine * 64 + chan) 0))

/-- The reissue of a failed access: `ok` says whether it meets no bus error again (R390). -/
def execSluiceRetry (engine chan : Nat) (ok : Bool) (s : State) : Host.Outcome State Fault Refusal :=
  s.run (fun s =>
    let k := engine * 64 + chan
    let c := s.chan k
    match c.pkt with
    | none => s
    | some p =>
      let counted (s : State) (j : Nat) : State :=
        (s.modRun k j (fun d => { d with retries := d.retries + 1 })).count (State.unitSluice engine) 3 1 1 (2 ^ p.pclass)
      match c.headErr, c.runs.findIdx? (·.errAddr.isSome) with
      | some n, _ => if ok then (counted s 0).completeDesc k (n + 1) else (counted s 0).headError k (n + 1)
      | none, some j =>
        let da := ((c.runs[j]?).bind (·.errAddr)).getD 0
        let s1 := (counted s j).modRun k j (fun d => { d with tries := d.tries + 1 })
        if ok then (s1.modRun k j (fun d => { d with errAddr := none })).modChan k (fun c => { c with st := .active })
        else s1.chanError k j da
      | none, none => s)

namespace State

/-- A channel that only a full ring holds. -/
def heldByRing (c : Chan) : Bool := c.st == .waiting && c.headErr.isNone && !c.runs.isEmpty && c.runs.all (·.errAddr.isNone)

end State

/-- A channel that a full ring holds reads HEADADDR again. -/
def execHeadaddrReread (engine chan : Nat) (stores : List Host.Cell) (s : State) : Host.Outcome State Fault Refusal :=
  s.run (fun s =>
    let s := s.hostStores stores
    s.when (State.heldByRing (s.chan (engine * 64 + chan))) (·.completeDesc (engine * 64 + chan) 0))

/-! ### Bus errors (R390, R613) -/

namespace State

/-- A bus error at a channel's access in progress: the descriptor's read, the next read beat, or the next write beat. Host memory reports none
for a write, and a remote window none at all. -/
def chanMeets (s : State) (k : Nat) (write : Bool) : State :=
  let c := s.chan k
  match c.pkt with
  | none => s
  | some p =>
    if !moving c then s
    else
      match c.runs with
      | [] => if write then s else (s.modChan k (fun c => { c with runs := [{ words := [], unread := true }] })).chanError k 0 (descAddr p)
      | d :: _ =>
        if d.unread then (if write then s else s.chanError k 0 (descAddr p))
        else if write then
          let dst := (beatAt d.words d.pos).2.1
          s.when (decide (daSpace dst < 4) && (s.beat k true).isSome) (·.chanError k 0 dst)
        else match c.runs.findIdx? (·.reads) with
          | some j => s.when (s.beat k false).isSome (fun s =>
              s.chanError k j (beatAt ((c.runs.getD j d).words) (c.runs.getD j d).rpos).1)
          | none => s

/-- A launch packet whose header's read is in progress, or reissued. -/
def headerRead (s : State) (q : Nat) (seq : BitVec 32) : Option Packet := s.frontPacket q seq 1

end State

/-- A bus error is reported to its requester. (DEDUCED, log entry 37) -/
def execBusError (who : Requester) (s : State) : Host.Outcome State Fault Refusal :=
  s.run (fun s =>
    match who with
    | .fetch q => s.when (s.turnOf q) (·.modQueue q (fun c => { c with fetchErr := true }))
    | .launch q n =>
      match s.headerRead q n with
      | some p => s.modPacket p.queue p.seq (fun p => { p with work := .reread 0 })
      | none =>
        match s.launch? q n with
        | some l => s.when (s.startable l && l.restore.isNone) (·.modLaunch q n (fun l => { l with readErr := true }))
        | none => s
    | .channel e c write => s.when (decide (e < 32) && decide (c < 64)) (·.chanMeets (e * 64 + c) write)
    | .head e c =>
      let k := e * 64 + c
      s.when (State.heldByRing (s.chan k)) (fun s => s.headError k 0))

/-- A submission fetch or a launch's read is reissued: `ok` says whether it meets no bus error again. -/
def execReadReissue (who : Requester) (ok : Bool) (s : State) : Host.Outcome State Fault Refusal :=
  s.run (fun s =>
    match who with
    | .fetch q =>
      let c := s.queue q
      s.when c.fetchErr (fun s =>
        let n := c.retries + 1
        if ok then (s.setQueue q { c with retries := n }).fetchEntry q
        else if 3 ≤ n then (s.setQueue q { c with retries := n }).fetchFails q stBusError
        else s.setQueue q { c with retries := n })
    | .launch q m =>
      match s.packet? q m, s.launch? q m with
      | some p, l =>
        (match p.work with
         | .reread n =>
           if ok then s.validateLaunch p (n + 1)
           else if 3 ≤ n + 1 then s.finish q m stBusError 0
           else s.modPacket q m (fun p => { p with work := .reread (n + 1) })
         | _ =>
           match l with
           | none => s
           | some l =>
             if l.readErr && s.startable { l with readErr := false } then
               let l1 := { l with retries := l.retries + 1 }
               let s1 := s.modLaunch q m (fun _ => l1)
               if ok then (s1.modLaunch q m (fun x => { x with readErr := false })).startLaunch l1
               else if 3 ≤ l1.retries then s1.endUnstarted l1 stBusError
               else s1
             else s)
      | none, _ => s
    | _ => s)

end Sys2Proof.Machine
end

