-- ==== Sys2Proof/Machine/Mailbox.lean ====
section
/-! DEFINITION. The mailbox: doorbell writes, take, cancel, responses (R337 to R346), the permission and validation that every command
shares (R14, R347 to R350, R352), and the end events of deferred commands (R354). -/

namespace Sys2Proof.Machine

/-! ### Requests as taken (R343, R346) -/

namespace Taken

/-- Word `i` of the copied page. -/
def raw (t : Taken) (i : Nat) : Nat := word t.words i
def opcode (t : Taken) : Nat := t.raw 0 % 65536
def plen (t : Taken) : Nat := t.raw 1 % 4096
/-- Parameter word `i`, 8 and on: bytes at or beyond PLEN read as zero. -/
def w (t : Taken) (i : Nat) : Nat := t.raw i % 2 ^ (8 * Nat.min 4 (t.plen - 4 * (i - 8)))
def w64 (t : Taken) (i : Nat) : Nat := t.w i + 2 ^ 32 * t.w (i + 1)
def addr (t : Taken) (i : Nat) : Nat := t.w i + 2 ^ 32 * (t.w (i + 1) % 65536)
def noirq (t : Taken) : Bool := (t.raw 2).testBit 0
def enq (t : Taken) : Bool := (t.raw 3).testBit 0
def partv (t : Taken) : Bool := (t.raw 3).testBit 12
def partNo (t : Taken) : Nat := bits (t.raw 3) 8 4
/-- Words `i` to `i + n − 1` of the parameters. -/
def ws (t : Taken) (i n : Nat) : List Nat := (List.range n).map (fun k => t.w (i + k))

end Taken

/-- What a command answers: its status, the failing word, QPOS, and the result words from w8. -/
structure Ans where
  st   : Word16 := 0
  err  : Nat := 0x3FF
  qpos : Nat := 0
  res  : List Byte := []
  /-- It has been accepted and completes later: no response yet. -/
  later : Bool := false
  deriving DecidableEq, Repr

def ok : Ans := {}
def okWords (ws : List Nat) : Ans := { res := wordsBytes ws }

/-- A check: it fails, its status, the word that holds the field. -/
abbrev Chk := Bool × Word16 × Nat

/-- A failure comes before another: its status does in the order of R14, or its word does within that status, as the opcode does before the
header and the header before the parameters (R349). -/
def Chk.before (a b : Word16 × Nat) : Bool :=
  decide (statusRank a.1 < statusRank b.1) || (statusRank a.1 == statusRank b.1 && decide (a.2 < b.2))

/-- The first failing check: its status, and the first word that fails with it. -/
def firstChk (cs : List Chk) : Word16 × Nat :=
  cs.foldl (fun best c => if c.1 && (best.1 == stOk || Chk.before c.2 best) then c.2 else best) (stOk, 0x3FF)

/-- The word of a failure that no field of the request causes (R345). -/
def noWord : Nat := 0x3FF

/-- Who may send a command (R347). -/
inductive Who where
  | any | part | pf | pfDebug
  deriving DecidableEq, Repr

/-- What the tables of R355 to R375 say of a command: opcode, requesters, whether it honours ENQ, its exact parameter length and the
allowed bits of its parameter words from w8. -/
structure Cmd where
  op    : Nat
  who   : Who
  enq   : Bool := false
  plen  : Nat
  masks : List Nat := []
  deriving DecidableEq, Repr

/-- Reserved fields of the request header (R343, R349). -/
def headerChks (c : Cmd) (t : Taken) : List Chk :=
  [(decide (65536 ≤ t.raw 0), stBadOpcode, 0), (decide (4096 ≤ t.raw 1), stBadOpcode, 1), (decide (2 ≤ t.raw 2), stBadOpcode, 2),
   (t.raw 3 ||| 0x1F01 != 0x1F01 || (t.enq && !c.enq), stBadOpcode, 3),
   (t.raw 4 != 0, stBadOpcode, 4), (t.raw 5 != 0, stBadOpcode, 5), (t.raw 6 != 0, stBadOpcode, 6), (t.raw 7 != 0, stBadOpcode, 7)]

namespace State

/-- The partition a command acts on (R347, R348). -/
def actsOn (s : State) (t : Taken) : Option Nat := if t.partv then some t.partNo else (s.func t.fn).bound

/-- The checks that every command shares, in order (R346 to R349). (DEDUCED, log entry 28) -/
def sharedChks (s : State) (c : Cmd) (t : Taken) : List Chk :=
  headerChks c t
  ++ [(t.partv && !(s.part t.partNo).held, stBadOpcode, 3)]
  ++ c.masks.zipIdx.map (fun m => (t.w (8 + m.2) ||| m.1 != m.1, stBadOpcode, 8 + m.2))
  ++ [((match c.who with
        | .any => false
        | .part => t.fn != 0 && (s.func t.fn).bound.isNone
        | .pf => t.fn != 0
        | .pfDebug => t.fn != 0 || !s.sec.unlocked), stNotPermitted, 0),
      (t.partv && t.fn != 0, stNotPermitted, 3),
      (c.who == .part && (s.actsOn t).isNone, stNotPermitted, 3),
      (t.plen != c.plen, stBadLength, 1)]

/-! ### Responses (R340, R345) -/

/-- The response page (R345); bytes after the results are zero. -/
def responseBytes (s : State) (op : Nat) (seq : BitVec 16) (ttake : Nat) (a : Ans) : List Byte :=
  let res := if a.st = stOk then a.res else []
  wordsBytes [op + 65536 * seq.toNat, a.st.toNat + 65536 * a.qpos, res.length, a.err, ttake % 2 ^ 32, ttake / 2 ^ 32 % 2 ^ 32,
    s.time % 2 ^ 32, s.time / 2 ^ 32 % 2 ^ 32] ++ res

/-- The response is written: BUSY clears, DONE sets, and the mailbox vector is raised unless NOIRQ asks for silence (R340, R547). -/
def answer (s : State) (fn op : Nat) (seq : BitVec 16) (ttake : Nat) (noirq : Bool) (a : Ans) : State :=
  let page := Mem.setBytes [] 0 (s.responseBytes op seq ttake a)
  let s1 := s.modFunc fn (fun f => { f with mbx := { f.mbx with resp := page, busy := false, done := true } }.setIrq 0)
  if noirq then s1 else s1.raise fn 0

/-- A command ends; without a response where its function has been reset (R377) or the device has failed (R496). -/
def conclude (s : State) (t : Taken) (a : Ans) : State :=
  let s1 := match (s.func t.fn).bound with
    | some p => s.interval p 0x04 (t.opcode / 256) (s.time - t.time)
    | none => s
  if t.lost || s.boot.failed then s1 else s1.answer t.fn t.opcode t.seq t.time t.noirq a

/-- The oldest taken command ends. -/
def respond (s : State) (t : Taken) (a : Ans) : State := ({ s with taken := s.taken.drop 1 }).conclude t a

/-- The partition a command names or acts on; 255, which is none, where there is none. -/
def partOf (s : State) (t : Taken) : Nat := (s.actsOn t).getD 255

/-- Execute the oldest taken command if it is this function's and of this row: validate it, act, and answer (R349, R350). Commands
commit in take order. `qpos`: the queue position of a request that a lock stops, by the failing word (R352). (DEDUCED, log entry 27) -/
def command (s : State) (fn : Nat) (c : Taken → Cmd) (mine : Taken → Bool) (checks : State → Taken → Nat → List Chk)
    (act : State → Taken → Nat → State × Ans) (qpos : State → Taken → Nat → Nat := fun _ _ _ => 0) : State :=
  match s.taken with
  | [] => s
  | t :: _ =>
    if t.fn ≠ fn ∨ t.opcode ≠ (c t).op ∨ mine t = false then s
    else
      let r := firstChk (s.sharedChks (c t) t ++ checks s t (s.partOf t))
      if r.1 ≠ stOk then s.respond t { st := r.1, err := r.2, qpos := if r.1 = stBusy then qpos s t r.2 else 0 }
      else
        let a := act s t (s.partOf t)
        if a.2.later then { a.1 with taken := a.1.taken.drop 1, pinWait := a.1.pinWait ++ [t] } else a.1.respond t a.2

/-- The pins that waited complete once the clocks of every tile that runs go (R132, R377). -/
def pinsDone (s : State) : State :=
  if s.pinWait.isEmpty || s.tiles.any (fun e => e.2.running && e.2.stopped) then s
  else s.pinWait.foldl (fun s t => s.conclude t ok) { s with pinWait := [] }

/-- A command that only reads. -/
def query (s : State) (fn : Nat) (c : Cmd) (checks : State → Taken → Nat → List Chk) (res : State → Taken → Nat → List Nat) : State :=
  s.command fn (fun _ => c) (fun _ => true) checks (fun s t p => (s, okWords (res s t p)))

/-! ### Deferred activities (R354) -/

def addAct (s : State) (t : Taken) (k : ActKind) : State :=
  { s with acts := s.acts ++ [{ fn := some t.fn, opcode := t.opcode, seq := t.seq, kind := k }] }

/-- The end event of a deferred command. -/
def deferredEvent (s : State) (a : Act) (st : Word16) (data1 : Nat) : State :=
  match a.fn with
  | some f => s.eventTo f (a.opcode / 256 * 256 + 0x80) f st (a.opcode + 65536 * a.seq.toNat) data1
  | none => s

end State

/-- The agent of a command that reads or writes memory; LOG = 0 is open to the PF's (R274). -/
def cmdAgent (t : Taken) (part : Nat) : Agent := { part := part, fn := t.fn, firm := t.fn == 0 }

/-! ### Doorbells (R337, R338, R341) -/

namespace State

/-- A value is written to MBX_DOORBELL (R341): GO alone is accepted, or ignored with OVERRUN; CANCEL alone withdraws a request not yet
taken; both together are ignored with OVERRUN. -/
def ringMbx (s : State) (fn v : Nat) : State :=
  let f := s.func fn
  let go := v.testBit 16
  let cancel := v.testBit 17
  if go && !cancel && !f.mbx.busy && f.mbx.ready then
    ({ s with gos := s.gos ++ [fn] }).setFunc fn { f with
      mbx := { f.mbx with busy := true, taken := false, done := false, seq := BitVec.ofNat 16 v } }
  else if go then s.setFunc fn { f with mbx := { f.mbx with overrun := true } }
  else if cancel && f.mbx.busy && !f.mbx.taken then
    ({ s with gos := s.gos.filter (· != fn) }).answer fn 0 f.mbx.seq 0 false { st := stAborted }
  else s

/-- A value is written to MBX_STATE, whose DONE and OVERRUN a 1 clears (R338). -/
def clearMbx (s : State) (fn v : Nat) : State :=
  s.modFunc fn (fun f => { f with mbx := { f.mbx with
    done := f.mbx.done && !v.testBit 18, overrun := f.mbx.overrun && !v.testBit 19 } })

end State

/-- A doorbell write with GO, after the stores that the host made before it. -/
def execMbxGo (fn : Nat) (value : BitVec 32) (stores : List Host.Cell) (s : State) : Host.Outcome State Fault Refusal :=
  .next ((s.hostStores stores).when ((s.func fn).reach && value.getLsbD 16) (·.barWrite.ringMbx fn value.toNat))

/-- A doorbell write with CANCEL. -/
def execMbxCancel (fn : Nat) (value : BitVec 32) (s : State) : Host.Outcome State Fault Refusal :=
  .next (s.when ((s.func fn).reach && value.getLsbD 17) (·.barWrite.ringMbx fn value.toNat))

/-- Host software clears DONE and OVERRUN. -/
def execMbxDoneClear (fn : Nat) (value : BitVec 32) (s : State) : Host.Outcome State Fault Refusal :=
  .next (s.when (s.func fn).reach (·.barWrite.clearMbx fn value.toNat))

/-! ### Take (R340, R344, R350) -/

/-- Opcodes of the command tables. -/
def knownOpcode (op : Nat) : Bool :=
  [0x0100, 0x0101, 0x0102, 0x0103, 0x0104, 0x0110, 0x0111, 0x0112, 0x0113, 0x0200, 0x0201, 0x0202, 0x0203, 0x0204, 0x0205, 0x0206,
   0x0210, 0x0211, 0x0212, 0x0213, 0x0220, 0x0221, 0x0300, 0x0301, 0x0302, 0x0310, 0x0311, 0x0400, 0x0401, 0x0410, 0x0411, 0x0412,
   0x0420, 0x0421, 0x0422, 0x0430, 0x0500, 0x0501, 0x0502, 0x0503, 0x0504, 0x0505, 0x0600, 0x0601, 0x0602, 0x0603, 0x0604, 0x0700,
   0x0701, 0x0710, 0x0711, 0x0720, 0x0721, 0x0800, 0x0801, 0x0802, 0x0803, 0x0900, 0x0901, 0x0902, 0x0903, 0x0904].contains op

/-- Firmware takes the earliest request (R350). One whose opcode no table lists fails with ST_BAD_OPCODE (R344, R349). -/
def execMbxTake (fn : Nat) (s : State) : Host.Outcome State Fault Refusal :=
  s.run (fun s =>
    match s.gos with
    | [] => s
    | g :: rest =>
      if g ≠ fn then s
      else
        let f := s.func fn
        let t : Taken := { fn := fn, seq := f.mbx.seq, words := (List.range 1024).map (fun i => f.mbx.req.word 0 i), time := s.time }
        let s1 := ({ s with gos := rest }).setFunc fn { f with mbx := { f.mbx with taken := true } }
        if knownOpcode t.opcode then { s1 with taken := s1.taken ++ [t] }
        else s1.answer fn t.opcode t.seq t.time t.noirq { st := stBadOpcode, err := 0 })

/-! ### End events (R354, R421) -/

/-- DATA1 of event 0x0480. -/
def Link.report (l : Link) : Nat :=
  l.st.code + 16 * l.lanes + 256 * l.rx.spare.getD 15 + (if l.st = .down then 4096 * l.cause else 0)

/-- A link action is over (R421): its status once the link stands where the action ends. (DEDUCED, log entry 34) -/
def linkActionEnd (l : Link) (action lane : Nat) : Option Word16 :=
  let settled := l.st == .down || (l.st == .disabled && !l.disabling)
  if action = 0 then (if settled then some stOk else none)
  else if l.st = .active then
    (if action = 3 ∧ l.rx.roles.contains lane then (if l.spreq.isNone then some stConflict else none) else some stOk)
  else if settled then some (if l.st = .down then stLinkDown else stAborted)
  else none

/-- A deferred activity that has ended writes its end event, and lets go of its link's lock. -/
def execDeferredActivityEnd (act : Nat) (s : State) : Host.Outcome State Fault Refusal :=
  s.run (fun s =>
    match s.acts[act]? with
    | none => s
    | some a =>
      let gone : State := { s with acts := s.acts.eraseIdx act }
      match a.kind with
      | .link n action lane =>
        (match linkActionEnd (s.link n) action lane with
         | none => s
         | some st =>
           let s1 := if (gone.lock (linkRes n)).holder = some a then gone.endMaint (linkRes n) st 0 else gone
           s1.deferredEvent a st (s.link n).report)
      | .stage bank image =>
        ({ gone with flash := if bank then { gone.flash with bank1 := Mem.setBytes [] 0 image }
                              else { gone.flash with bank0 := Mem.setBytes [] 0 image } }).deferredEvent a stOk 0
      | .maint _ _ => s)

end Sys2Proof.Machine
end

