-- ==== Sys2Proof/Machine/MbxDevice.lean ====
section
/-! DEFINITION. The device group of mailbox commands (R355): identity (R356), the reproducibility key (R361, R362), Jet set loads (R189 to
R191), the boot report (R607), partitions (R30 to R36, R357, R358) and function bindings (R359). -/

namespace Sys2Proof.Machine

/-! ### Identity -/

namespace State

/-- Tiles with an enabled array (R29). -/
def arraysOn (s : State) : List Nat := (List.range 256).filter (fun t => (s.tile t).arrayOn)

/-- The words of DEV_IDENTIFY (R356). -/
def identity (s : State) (fn : Nat) : List Nat :=
  let f := s.func fn
  [s.fuses.partnum.toNat + 65536 * s.fuses.stepping.toNat, s.fuses.serial.toNat % 2 ^ 32, s.fuses.serial.toNat / 2 ^ 32,
   s.boot.fwver.toNat, s.jet.version.toNat, s.arraysOn.length,
   (match s.devid with | some d => d.toNat + 2 ^ 12 | none => 0) + 65536 * fn,
   (match f.bound with | some p => p + 16 | none => 0) + 256 * s.boot.activePair.toNat + 512 * s.boot.standbyOk.toNat
     + 1024 * s.boot.straps.tracesel.toNat + 2048 * s.sec.unlocked.toNat,
   s.flash.ownerCtr.toNat, 0]

/-! ### The reproducibility key (R361, R362) -/

/-- The effective mode bits. -/
def keyMode (mode : Nat) : Nat :=
  mode % 2 + (if mode.testBit 0 || mode.testBit 1 then 2 else 0) + (if mode.testBit 2 then 4 else 0)

def reproKey (s : State) (mode setmask : Nat) : List Byte :=
  (sha384 (wordsBytes [0x4B45_5931, s.fuses.stepping.toNat, s.jet.version.toNat, keyMode mode, setmask, 0, 0, 0])).take 16

end State

/-- DEV_IDENTIFY. -/
def execDevIdentify (fn : Nat) (s : State) : Host.Outcome State Fault Refusal :=
  s.run (·.query fn { op := 0x0100, who := .any, plen := 0 } (fun _ _ _ => []) (fun s t _ => s.identity t.fn))

/-- DEV_ARRAYS. -/
def execDevArrays (fn : Nat) (s : State) : Host.Outcome State Fault Refusal :=
  s.run (·.query fn { op := 0x0101, who := .part, plen := 0 } (fun _ _ _ => []) (fun s _ _ =>
    let on := s.arraysOn
    (List.range 8).map (fun w => (on.filter (fun t => t / 32 == w)).foldl (fun m t => m + 2 ^ (t % 32)) 0) ++ [on.length]))

/-- REPRO_KEY. -/
def execReproKey (fn : Nat) (s : State) : Host.Outcome State Fault Refusal :=
  s.run (·.query fn { op := 0x0102, who := .part, plen := 8, masks := [7, 7] } (fun _ _ _ => []) (fun s t _ =>
    bytesWords 4 (s.reproKey (t.w 8) (t.w 9)) ++ [s.fuses.stepping.toNat, s.jet.version.toNat, State.keyMode (t.w 8), t.w 9]))

/-- BOOT_REPORT (R607). -/
def execBootReport (fn : Nat) (s : State) : Host.Outcome State Fault Refusal :=
  s.run (·.query fn { op := 0x0104, who := .pf, plen := 0 } (fun _ _ _ => []) (fun s _ _ =>
    let b := s.boot
    [b.cause.toNat + 2 ^ 4 * b.uvrail.toNat + 2 ^ 8 * b.prevfail.toNat + 2 ^ 16 * b.prevclass.toNat + 2 ^ 24 * b.recovery.toNat
       + 2 ^ 25 * b.fwbank.toNat + 2 ^ 26 * b.secDamaged.toNat,
     b.hbmoff.toNat, b.newdis % 512 + 65536 * (s.flash.retired.length % 512), b.epoch.toNat, b.tready.toNat % 2 ^ 32,
     b.tready.toNat / 2 ^ 32]))

/-! ### Jet sets (R181, R189 to R191) -/

/-- A set image, by its bytes. -/
abbrev JetImage := List Byte

namespace JetImage

def w (b : JetImage) (i : Nat) : Nat := pkWord b i
def nslot (b : JetImage) : Nat := b.w 2 % 512
def nconst (b : JetImage) : Nat := b.w 3 % 512
def codeOff (b : JetImage) : Nat := b.w 5
def dir (b : JetImage) (i : Nat) : Nat := b.w (16 + 2 * i)
def dirC (b : JetImage) (i : Nat) : Nat := b.w (17 + 2 * i)
def arity (b : JetImage) (i : Nat) : Nat := bits (b.dir i) 22 2
def poolOff (b : JetImage) : Nat := 64 + 8 * b.nslot

/-- First byte and microinstructions of a program. -/
def place (b : JetImage) (d : Nat) : Nat × Nat := (b.codeOff + 4 * (d % 65536), bits d 16 6 + 1)
/-- The programs of the image: native and, where there is one, compatibility. -/
def programs (b : JetImage) : List (Nat × Nat) :=
  (List.range (Nat.min b.nslot 256)).flatMap (fun i =>
    if b.arity i = 0 then [] else b.place (b.dir i) :: (if (b.dirC i).testBit 22 then [b.place (b.dirC i)] else []))
def inside (b : JetImage) (p : Nat × Nat) : Bool := decide (64 ≤ p.1) && decide (p.1 + 4 * p.2 + 96 ≤ b.length)
def code (b : JetImage) (p : Nat × Nat) : List Word32 :=
  (List.range p.2).map (fun i => BitVec.ofNat 32 (leNat ((b.drop (p.1 + 4 * i)).take 4)))

/-- A valid microprogram (R179, R181). -/
def progOk (nconst : Nat) (p : List Word32) : Bool :=
  p.zipIdx.all (fun u =>
    let op := uop u.1
    decide (op ≤ 0x11) && (op == 0) == (u.2 + 1 == p.length) && bits u.1.toNat 26 6 == 0
      && (op != 2 || decide (uK u.1 < nconst)) && (op == 2 || op == 7 || uK u.1 == 0))

/-- MAGIC, ARITY, reserved fields and encodings, and programs (the first row of R190); a program outside the image is left to the
row of lengths. -/
def formOk (b : JetImage) : Bool :=
  b.w 0 == 0x4A53_4554 && b.w 1 != 0 && decide (b.w 2 < 512) && decide (b.w 3 < 512) && b.codeOff % 4 == 0
    && (List.range 10).all (fun i => b.w (6 + i) == 0)
    && (List.range (Nat.min b.nslot 256)).all (fun i => b.arity i != 3 && decide (b.dir i < 2 ^ 24) && decide (b.dirC i < 2 ^ 23))
    && (List.range (Nat.min b.nconst 256)).all (fun i =>
      let c := leNat ((b.drop (b.poolOff + 16 * i + 12)).take 4)
      decide (c < 16) && bits c 1 3 != 7)
    && (b.programs.filter b.inside).all (fun p => progOk b.nconst (b.code p))

/-- A constant of the pool (R169). -/
def pool (b : JetImage) (k : Nat) : Nat := leNat ((b.drop (b.poolOff + 16 * k)).take 16)

/-- A program as numbers: its words, and the constants that they name, which decide its results too (R177). -/
def progWords (b : JetImage) (p : Nat × Nat) : List Nat :=
  let us := b.code p
  us.map (·.toNat) ++ (us.filter (fun u => uop u == 2)).map (fun u => b.pool (uK u))

/-- A slot of the image as numbers: arity, native program, whether it has a compatibility program, that program. -/
def slotWords (b : JetImage) (i : Nat) : List Nat :=
  if b.nslot ≤ i ∨ b.arity i = 0 then [0]
  else
    let cp := (b.dirC i).testBit 22
    b.arity i :: b.progWords (b.place (b.dir i)) ++ [cp.toNat] ++ (if cp then b.progWords (b.place (b.dirC i)) else [])

end JetImage

/-- The standard set's slots (R183, R192): their programs are the firmware image's own. -/
def stdJetSlot (i : Nat) : Option JetSlot :=
  if i < 12 then some { arity := 1, prog := none, compat := some none }
  else if i = 32 ∨ i = 33 ∨ i = 34 then some { arity := 2, prog := none, compat := none }
  else none

/-- The words and constants of a slot of the standard set. -/
def stdWords (i : Nat) : List Nat := if (stdJetSlot i).isSome then Config.stdSlot i else [0]

/-- A slot of an image as the Jet holds it: one that is the standard set's own is that. -/
def JetImage.slot (b : JetImage) (i : Nat) : Option JetSlot :=
  if b.nslot ≤ i ∨ b.arity i = 0 then none
  else if (stdJetSlot i).isSome ∧ b.slotWords i = stdWords i then stdJetSlot i
  else some { arity := b.arity i, prog := some (b.code (b.place (b.dir i))),
              compat := if (b.dirC i).testBit 22 then some (some (b.code (b.place (b.dirC i)))) else none }

/-- The set of an image. -/
def JetImage.set (b : JetImage) : JetSet :=
  { version := BitVec.ofNat 32 (b.w 1),
    slots := (List.range (Nat.min b.nslot 256)).foldl (fun m i => SMap.set none m i (b.slot i)) [],
    consts := (List.range (Nat.min b.nconst 256)).foldl (fun m i =>
      SMap.set 0 m i (BitVec.ofNat 128 (b.pool i))) [] }

namespace State

/-- Owner keys that the device trusts (R603). -/
def ownerKeys (s : State) : List (Option (List Byte)) :=
  if s.boot.secDamaged then [none, none, none, none] else s.flash.keys
def ownerKey (s : State) (i : Nat) : Option (List Byte) := s.ownerKeys.getD i none

def signedBy (b key : List Byte) : Bool := ecdsaVerify key (b.drop (b.length - 96)) (b.take (b.length - 96))

/-- The checks of R190 on an image that has been read. (DEDUCED, log entry 31) -/
def jetChks (s : State) (b : JetImage) : List Chk :=
  let span := decide (168 ≤ b.length) && decide (b.length ≤ 96 * 1024)
  let kelkuen := span && signedBy b Config.jetKey
  let owned := span && s.ownerKeys.any (fun k => match k with | some k => signedBy b k | none => false)
  [(!b.formOk || (!kelkuen && (List.range 64).any (fun i => b.slotWords i != stdWords i)), stBadOpcode, 8),
   (!kelkuen && !owned, stNotPermitted, 8),
   (decide (b.nslot < 1) || decide (256 < b.nslot) || decide (256 < b.nconst) || b.w 4 != b.length
     || b.programs.any (fun p => !b.inside p) || decide (b.length < b.poolOff + 16 * b.nconst + 96), stBadLength, 10),
   (s.tiles.any (fun t => t.2.running), stBusy, 8)]

end State

/-- JETSET_LOAD (R190). -/
def execJetsetLoad (fn : Nat) (s : State) : Host.Outcome State Fault Refusal :=
  s.run (·.command fn (fun _ => { op := 0x0103, who := .pf, plen := 12, masks := [m32, 0xFFFF, 0x1_FFFF] }) (fun _ => true)
    (fun s t part =>
      let a := cmdAgent t part
      let da := t.addr 8
      let n := t.w 10
      (!s.readable a da n false, stNotPermitted, 8) :: (da % 64 != 0, stBadAlign, 8) ::
        (if s.readable a da n false then match s.load a da n with
          | .ok (_, b) => s.jetChks b
          | .error (.status st) => [(true, st, noWord)]
          | .error .held => []
         else []))
    (fun s t part =>
      match s.load (cmdAgent t part) (t.addr 8) (t.w 10) with
      | .ok (s1, b) =>
        let old := s1.jet.version
        let s2 : State := { s1 with jet := JetImage.set b, boot := { s1.boot with jetdig := sha384 b } }
        let s3 := s2.funcs.foldl (fun s f => s.eventTo f.1 0x0103 0 stOk s2.jet.version.toNat old.toNat) s2
        (s3, okWords [s2.jet.version.toNat])
      | .error (.status st) => (s, { st := st })
      | .error .held => (s, { st := stBusy })))

/-! ### Partitions (R30, R32 to R36, R357, R358) -/

/-- Granules of a descriptor, from word `i` of the request. -/
def Taken.desc (t : Taken) (i : Nat) : Part :=
  { tblk := BitVec.ofNat 16 (t.w i), spare := BitVec.ofNat 16 (t.w i / 65536), sluice := BitVec.ofNat 32 (t.w (i + 1)),
    dbpage := BitVec.ofNat 32 (t.w (i + 2)), syncgrp := BitVec.ofNat 32 (t.w (i + 3)), slotgrp := BitVec.ofNat 16 (t.w (i + 4)),
    commgrp := BitVec.ofNat 16 (t.w (i + 4) / 65536),
    cst := [BitVec.ofNat 16 (t.w (i + 5)), BitVec.ofNat 16 (t.w (i + 5) / 65536), BitVec.ofNat 16 (t.w (i + 6)),
      BitVec.ofNat 16 (t.w (i + 6) / 65536)],
    hbm := BitVec.ofNat 192 ((List.range 6).foldl (fun n k => n + t.w (i + 7 + k) * 2 ^ (32 * k)) 0) }

namespace Part

/-- A partition's granules as the sixteen words of R357. -/
def words (p : Part) : List Nat :=
  [p.tblk.toNat + 65536 * p.spare.toNat, p.sluice.toNat, p.dbpage.toNat, p.syncgrp.toNat, p.slotgrp.toNat + 65536 * p.commgrp.toNat,
   (p.cst.getD 0 0).toNat + 65536 * (p.cst.getD 1 0).toNat, (p.cst.getD 2 0).toNat + 65536 * (p.cst.getD 3 0).toNat]
  ++ (List.range 6).map (fun k => bits p.hbm.toNat (32 * k) 32) ++ [0, 0, 0]

/-- Granules of both. -/
def meet (a b : Part) : Part :=
  { tblk := a.tblk &&& b.tblk, sluice := a.sluice &&& b.sluice, dbpage := a.dbpage &&& b.dbpage, syncgrp := a.syncgrp &&& b.syncgrp,
    slotgrp := a.slotgrp &&& b.slotgrp, commgrp := a.commgrp &&& b.commgrp, cst := List.zipWith (· &&& ·) a.cst b.cst,
    hbm := a.hbm &&& b.hbm }

/-- What stays of `a` once the granules of `m` have left it. -/
def without (a m : Part) : Part :=
  { a with tblk := a.tblk &&& ~~~m.tblk, spare := a.spare &&& ~~~m.tblk, sluice := a.sluice &&& ~~~m.sluice,
           dbpage := a.dbpage &&& ~~~m.dbpage, syncgrp := a.syncgrp &&& ~~~m.syncgrp, slotgrp := a.slotgrp &&& ~~~m.slotgrp,
           commgrp := a.commgrp &&& ~~~m.commgrp, cst := List.zipWith (fun x y => x &&& ~~~y) a.cst m.cst, hbm := a.hbm &&& ~~~m.hbm }

/-- `a` with the granules of `d`, whose SPARE bits replace those of its blocks (R358). -/
def with_ (a d : Part) : Part :=
  { a with held := true, tblk := a.tblk ||| d.tblk, spare := (a.spare &&& ~~~d.tblk) ||| d.spare, sluice := a.sluice ||| d.sluice,
           dbpage := a.dbpage ||| d.dbpage, syncgrp := a.syncgrp ||| d.syncgrp, slotgrp := a.slotgrp ||| d.slotgrp,
           commgrp := a.commgrp ||| d.commgrp, cst := List.zipWith (· ||| ·) a.cst d.cst, hbm := a.hbm ||| d.hbm }

/-- It holds no granule. -/
def bare (p : Part) : Bool :=
  p.tblk == 0 && p.sluice == 0 && p.dbpage == 0 && p.syncgrp == 0 && p.slotgrp == 0 && p.commgrp == 0 && p.cst.all (· == 0) && p.hbm == 0

/-- Die `d` holds one of its tile blocks. -/
def onDie (p : Part) (d : Nat) : Bool := (List.range 4).any (fun b => bitOf p.tblk (4 * d + b))

/-- Engines and Channel Scale Table granules lie on dies with a tile block (R32). -/
def dieOk (p : Part) (granules : Part) : Bool :=
  (List.range 4).all (fun d => p.onDie d ||
    ((List.range 8).all (fun e => !bitOf granules.sluice (8 * d + e)) && granules.cst.getD d 0 == 0))

/-- What every partition must hold (R33). -/
def enough (p : Part) : Bool := p.tblk != 0 && p.sluice != 0 && p.dbpage != 0 && p.syncgrp != 0

end Part

namespace State

/-- The spares and the logical binding of a partition's tiles (R30, R357): the spare of a block is its highest-numbered tile with an
enabled array; retired tiles take no logical number (R500). -/
def bindings (s : State) (p : Part) : List Nat × List Nat :=
  let mine := (List.range 256).filter p.hasTile
  let on (t : Nat) : Bool := (s.tile t).arrayOn
  let spares := (List.range 16).filterMap (fun b =>
    if bitOf p.spare b && bitOf p.tblk b then (((List.range 16).map (fun i => 16 * b + i)).filter on).getLast? else none)
  (mine.filter (fun t => on t && !spares.contains t) ++ mine.filter (fun t => !on t && !s.flash.retired.contains t), spares)

/-- Bind the logical tiles of a partition again. -/
def rebind (s : State) (i : Nat) : State :=
  let p := s.part i
  let b := s.bindings p
  s.setPart i { p with bind := b.1, spares := b.2, lost := false }

/-- A queue of a partition holds unfinished packets (R34). -/
def unfinished (s : State) (i : Nat) : Bool :=
  s.queues.any (fun e => e.2.created && (s.part i).hasPage (e.1 / 512)
    && ((e.2.qtype == 0 && (e.2.used != 0 || !e.2.fetched.isEmpty)) || s.packets.any (fun k => k.queue == e.1)))

/-- A tile of the granules runs a kernel (R34), or belongs to a SUSPENDED launch (R487). -/
def runsOn (s : State) (m : Part) : Bool :=
  s.tiles.any (fun e => e.2.running && m.hasTile e.1)
    || s.launches.any (fun l => l.ph == .suspended && ((s.part l.part).bind.take l.nltile).any m.hasTile)

/-- The counters of units that move are zeroed (R558): a cycle counter keeps the clock count at which it was. -/
def zeroCtrs (s : State) (m : Part) : State :=
  let tiles := (List.range 256).filter m.hasTile
  let cyc (d : Nat) : Nat := s.tele.aclk.getD d 0
  let fcyc (d : Nat) : Nat := s.tele.roots.getD d 0 / 4
  let moved (unit : Nat) : Bool := if unit < 256 then m.hasTile unit else unit / 4096 == 1 && m.hasEngine (unit % 4096)
  let c1 := SMap.mapVals {} (fun k (c : Ctr) => if moved (k / 256) then { c with value := 0 } else c) s.tele.ctrs
  let c2 := tiles.foldl (fun (l : SMap Ctr) t => SMap.set {} l (t * 256) { value := BitVec.ofNat 64 (cyc (dieOf t)) }) c1
  let c3 := ((List.range 32).filter m.hasEngine).foldl
    (fun (l : SMap Ctr) e => SMap.set {} l ((4096 + e) * 256) { value := BitVec.ofNat 64 (fcyc (e / 8)) }) c2
  { s with tele := { s.tele with ctrs := c3 } }

/-- Moved granules as they begin to serve their new partition (R358, R379): tiles, sync objects, slots, table entries, HBM and its
translations, channels, doorbell pages. -/
def clearGranules (s : State) (m : Part) : State :=
  let mine (pa : Nat) : Bool := bitOf m.hbm (pa / 2 ^ 30)
  { s.zeroCtrs m with
    tiles := SMap.mapVals {} (fun i t => if m.hasTile i then
      { repair := t.repair, arrayOn := t.arrayOn, stopped := t.stopped, sampler := { t.sampler with staged := [], buffer := [] } } else t) s.tiles,
    sync := s.sync.filter (fun e => !m.hasSync e.1),
    arms := s.arms.filter (fun e => !m.hasSync e.1),
    slots := s.slots.filter (fun e => !m.hasSlot e.1),
    cst := s.cst.filter (fun e => !m.hasCst (e.1 / 131072) (e.1 % 131072)),
    hbm := s.hbm.filter (fun e => !mine e.1),
    parts := SMap.mapVals {} (fun _ p => { p with pages := p.pages.filter (fun g => match g.2 with
      | some g => g.host || !mine g.addr
      | none => false) }) s.parts,
    chans := s.chans.filter (fun e => !m.hasEngine (e.1 / 64)),
    dbOwner := s.dbOwner.filter (fun e => !m.hasPage e.1) }

/-- What each other partition gives up to a descriptor. -/
def gives (s : State) (target : Nat) (d : Part) : List (Nat × Part) :=
  (s.parts.filter (fun e => e.1 != target && e.2.held && !(e.2.meet d).bare)).map (fun e => (e.1, e.2.meet d))

/-- The locks that moving granules meet, with the word that names the granule: tiles, engines, Channel Scale Tables. -/
def moveLocks (s : State) (gives : List (Nat × Part)) : List (Nat × Nat) :=
  (((List.range 256).filter (fun t => gives.any (·.2.hasTile t))).map (9, ·)
    ++ ((List.range 32).filter (fun e => gives.any (·.2.hasEngine e))).map (10, 3 * 256 + ·)
    ++ ((List.range 4).filter (fun d => gives.any (fun g => g.2.cst.getD d 0 != 0))).map (14, 4 * 256 + ·)).filter
      (fun r => s.lockBusy r.2)

/-- The queue position of a movement that a lock stops: that of the first held lock among the granules of the failing word; 0 where no
lock does (R352). -/
def moveQpos (s : State) (target : Nat) (d : Part) (word : Nat) : Nat :=
  match (s.moveLocks (s.gives target d)).find? (fun r => r.1 == word) with
  | some r => s.lockLen r.2
  | none => 0

/-- Checks of a movement of granules (R34, R358). A target that would hold less than R33 asks is refused as R34 says, unless nothing moves.
(DEDUCED, log entries 29, 51) -/
def moveChks (s : State) (target : Nat) (d : Part) : List Chk :=
  let after := (s.part target).with_ d
  let gives := s.gives target d
  [(d.spare &&& ~~~after.tblk != 0, stConflict, 9),
   (!(target == 0 && gives.isEmpty) && !after.enough, stConflict, 9),
   (!after.dieOk d, stConflict, 10),
   (gives.any (fun g =>
      let r := (s.part g.1).without g.2
      (!r.bare || !(s.boundFuncs g.1).isEmpty) && (!r.enough || !r.dieOk r)), stConflict, 9),
   (gives.any (fun g => s.queues.any (fun q => q.2.created && g.2.hasPage (q.1 / 512))), stBusy, 11),
   (gives.any (fun g => s.comms.any (fun c => c.2.isSome && g.2.hasComm c.1)), stBusy, 13),
   (gives.any (fun g => s.unfinished g.1 || s.runsOn g.2), stBusy, 9)]
  ++ (s.moveLocks gives).map (fun r => (true, stBusy, r.1))

/-- Move granules to a partition (R358). -/
def moveGranules (s : State) (target : Nat) (d : Part) : State :=
  let gives := s.gives target d
  let s1 := gives.foldl (fun s g => s.clearGranules g.2) s
  let s2 := gives.foldl (fun s g =>
    let r := (s.part g.1).without g.2
    s.setPart g.1 (if r.bare && (s.boundFuncs g.1).isEmpty then {} else r)) s1
  let s3 := s2.setPart target ((s2.part target).with_ d)
  let changed := insAsc target (gives.map (·.1))
  let s4 := changed.foldl (fun s i => if (s.part i).held then s.rebind i else s) s3
  changed.foldl (fun s i => s.eventBoth i 0x0104 i stOk (s.part i).bind.length 0) s4

end State

def descMasks : List Nat :=
  [m32, m32, m32, m32, m32, m32, m32, m32, m32, m32, m32, m32, m32, 0, 0, 0]

/-- PART_ASSIGN (R358). -/
def execPartAssign (fn : Nat) (s : State) : Host.Outcome State Fault Refusal :=
  s.run (·.command fn (fun _ => { op := 0x0110, who := .pf, plen := 68, masks := 15 :: descMasks }) (fun _ => true)
    (fun s t _ => s.moveChks (t.w 8) (t.desc 9))
    (fun s t _ =>
      let s1 := s.moveGranules (t.w 8) (t.desc 9)
      (s1, okWords [(s1.part (t.w 8)).bind.length]))
    (qpos := fun s t w => s.moveQpos (t.w 8) (t.desc 9) w))

/-- PART_DESTROY (R358). -/
def execPartDestroy (fn : Nat) (s : State) : Host.Outcome State Fault Refusal :=
  s.run (·.command fn (fun _ => { op := 0x0111, who := .pf, plen := 4, masks := [15] }) (fun _ => true)
    (fun s t _ =>
      let d := t.w 8
      (d == 0 || !(s.boundFuncs d).isEmpty, stConflict, 8) ::
        (if d = 0 then [] else s.moveChks 0 { s.part d with spare := 0 }))
    (fun s t _ => (s.moveGranules 0 { s.part (t.w 8) with spare := 0 }, ok))
    (qpos := fun s t w => s.moveQpos 0 { s.part (t.w 8) with spare := 0 } w))

/-- PART_QUERY (R355, R357). -/
def execPartQuery (fn : Nat) (s : State) : Host.Outcome State Fault Refusal :=
  s.run (·.query fn { op := 0x0112, who := .part, plen := 0 } (fun _ _ _ => []) (fun s _ p =>
    let q := s.part p
    q.words ++ [q.bind.length] ++ bytesWords 64 ((q.bind.map (BitVec.ofNat 8)) ++ List.replicate (256 - q.bind.length) 0)))

/-! ### Function bindings (R359) -/

namespace State

/-- A function that may not be bound anew: it has a created queue or an armed threshold, or another command of its own runs. -/
def funcBusy (s : State) (f by_ : Nat) : Bool :=
  s.queues.any (fun q => q.2.created && q.2.owner == f) || s.arms.any (fun a => a.2.fn == f) || (f != by_ && (s.func f).mbx.busy)

/-- Assign a function exactly these doorbell pages. -/
def assignPages (s : State) (f mask : Nat) : State :=
  { s with dbOwner := (List.range 32).foldl (fun m p =>
      if mask.testBit p then SMap.set none m p (some f)
      else if SMap.get none m p = some f then SMap.set none m p none else m) s.dbOwner }

end State

def funcBindCmd : Cmd := { op := 0x0113, who := .pf, plen := 8, masks := [0x1F7F, m32] }

/-- FUNC_BIND (R359). (DEDUCED, log entry 29) -/
def execFuncBind (fn : Nat) (s : State) : Host.Outcome State Fault Refusal :=
  s.run (·.command fn (fun _ => funcBindCmd) (fun t => !(t.w 8).testBit 12)
    (fun s t _ =>
      let f := t.w 8 % 128
      let p := bits (t.w 8) 8 4
      [(decide (64 < f), stBadOpcode, 8), (!(s.part p).held, stBadOpcode, 8),
       ((List.range 32).any (fun g => (t.w 9).testBit g &&
          (!(s.part p).hasPage g || (match s.pageOwner g with | some o => o != f | none => false))), stConflict, 9),
       (s.funcBusy f t.fn, stBusy, 8)])
    (fun s t _ =>
      let f := t.w 8 % 128
      ((s.modFunc f (fun x => { x with bound := some (bits (t.w 8) 8 4) })).assignPages f (t.w 9), ok)))

/-- FUNC_BIND with UNBIND (R359). -/
def execFuncUnbind (fn : Nat) (s : State) : Host.Outcome State Fault Refusal :=
  s.run (·.command fn (fun _ => funcBindCmd) (fun t => (t.w 8).testBit 12)
    (fun s t _ =>
      let f := t.w 8 % 128
      [(decide (64 < f) || bits (t.w 8) 8 4 != 0, stBadOpcode, 8), (t.w 9 != 0, stBadOpcode, 9), (s.funcBusy f t.fn, stBusy, 8)])
    (fun s t _ =>
      let f := t.w 8 % 128
      ((s.modFunc f (fun x => { x with bound := none })).assignPages f 0, ok)))

end Sys2Proof.Machine
end

