-- ==== Sys2Proof/Machine/MbxMemory.lean ====
section
/-! DEFINITION. The memory and translation group of mailbox commands (R365): MAP and UNMAP (R32, R276, R277, R279, R366, R606), the
Channel Scale Table (R151, R153, R367). -/

namespace Sys2Proof.Machine

/-! ### Pages (R366) -/

/-- The range of a mapping command: VA, pages, page size. -/
def mapVa (t : Taken) : Nat := t.addr 8
def mapPages (t : Taken) : Nat := t.w 10 % 2 ^ 13
def mapBig (t : Taken) : Bool := (t.w 10).testBit 16
def mapUnit (t : Taken) : Nat := if mapBig t then 2 ^ 21 else 2 ^ 16
def mapBytes (t : Taken) : Nat := mapPages t * mapUnit t

namespace State

/-- Granules of HBM that serve (R606): the stacks of their die are in service. -/
def granuleOn (s : State) (g : Nat) : Bool := !bitOf s.boot.hbmoff (2 * (g / 48)) && !bitOf s.boot.hbmoff (2 * (g / 48) + 1)

/-- A partition's granules in the order in which pages are placed: those of the dies that hold its tile blocks first (R32). -/
def granulesOf (s : State) (p : Part) : List Nat :=
  let mine := (List.range 192).filter (fun g => bitOf p.hbm g && s.granuleOn g)
  mine.filter (fun g => p.onDie (g / 48)) ++ mine.filter (fun g => !p.onDie (g / 48))

/-- HBM in use: every partition's HBM pages as address and size, and the retired 64 KiB pages (R500). -/
def framesUsed (s : State) : List (Nat × Nat) :=
  s.parts.flatMap (fun e => e.2.pages.filterMap (fun g => match g.2 with
    | some g => if g.host then none else some (g.addr, if g.big then 2 ^ 21 else 2 ^ 16)
    | none => none))
  ++ s.flash.pages.map (fun p => (65536 * p, 65536))

/-- Bytes of HBM that the translation tables of a partition take: 1 MiB, and 256 bytes for each second-level table (R276, R277). -/
def tableBytes (pages : SMap (Option Page)) : Nat :=
  2 ^ 20 + 256 * ((pages.filter (fun g => match g.2 with | some g => !g.big | none => false)).foldl
    (fun (a : Nat × Option Nat) g => if a.2 = some (g.1 / 32) then a else (a.1 + 1, some (g.1 / 32))) (0, none)).1

/-- A frame of some size at an address meets none that is in use. -/
def frameFree (used : List (Nat × Nat)) (a n : Nat) : Bool := used.all (fun u => decide (u.1 + u.2 ≤ a) || decide (a + n ≤ u.1))

/-- The first free frame of a granule at or after an address; past a frame in use the search goes on. -/
def nextFrame : Nat → List (Nat × Nat) → Nat → Nat → Nat → Option Nat
  | 0, _, _, _, _ => none
  | fuel + 1, used, a, stop, n =>
    if stop < a + n then none
    else match used.find? (fun u => decide (a < u.1 + u.2) && decide (u.1 < a + n)) with
      | none => some a
      | some u => nextFrame fuel used ((u.1 + u.2 + n - 1) / n * n) stop n

def firstFrame (used : List (Nat × Nat)) (n : Nat) : List Nat → Option Nat
  | [] => none
  | g :: gs => match nextFrame (used.length + 1) used (g * 2 ^ 30) ((g + 1) * 2 ^ 30) n with
    | some a => some a
    | none => firstFrame used n gs

/-- Frames for `k` pages, first fit. -/
def pickFrames : Nat → List (Nat × Nat) → Nat → List Nat → Option (List Nat)
  | 0, _, _, _ => some []
  | k + 1, used, n, gs => match firstFrame used n gs with
    | none => none
    | some a => (pickFrames k ((a, n) :: used) n gs).map (a :: ·)

/-- Frames that firmware may choose: of the partition's granules in service, free, one by one apart, and on the home dies while those
have room. -/
def placeOk (s : State) (p : Part) (used : List (Nat × Nat)) (n : Nat) : List Nat → Bool
  | [] => true
  | a :: as =>
    let gs := s.granulesOf p
    let home := gs.filter (fun g => p.onDie (g / 48))
    a % n == 0 && gs.contains (a / 2 ^ 30) && frameFree used a n
      && (home.contains (a / 2 ^ 30) || (firstFrame used n home).isNone) && placeOk s p ((a, n) :: used) n as

/-- The frames of a MAP: as asked where they may be chosen, else first fit; none where the partition's HBM cannot hold the pages. -/
def framesFor (s : State) (i k n : Nat) (big : Bool) (va : Nat) (place : List Nat) : Option (List Nat) :=
  let p := s.part i
  let used := s.framesUsed
  let after := (List.range k).foldl (fun m j => SMap.insert m ((va + j * n) / 65536)
    (some { big := big, wr := false, host := false, addr := 0, fn := 0 })) p.pages
  let mine := (p.pages.filterMap (fun g => match g.2 with
    | some g => if g.host then none else some (if g.big then 2 ^ 21 else 2 ^ 16)
    | none => none)).sum
  let gone := (s.flash.pages.filter (fun g => bitOf p.hbm (g / 2 ^ 14))).length * 65536
  if (s.granulesOf p).length * 2 ^ 30 < mine + k * n + tableBytes after + gone then none
  else if place.length = k ∧ s.placeOk p used n place then some place
  else pickFrames k used n (s.granulesOf p)

/-- A page of a range is mapped. -/
def rangeMapped (s : State) (i va bytes : Nat) : Bool :=
  (List.range (bytes / 65536)).any (fun j => (s.pageAt i (va + 65536 * j)).isSome)

/-- Zero-fill a range of HBM: every line is written anew (R296). -/
def zeroHbm (s : State) (lo n : Nat) : State :=
  { s with hbm := s.hbm.filter (fun e => decide (e.1 < lo) || decide (lo + n ≤ e.1)),
           rel := { s.rel with badHbm := s.rel.badHbm.filter (fun l => decide (64 * l < lo) || decide (lo + n ≤ 64 * l)) } }

/-- Add mappings. -/
def mapIn (s : State) (i va n : Nat) (big wr : Bool) (host : Bool) (fn : Nat) (addrs : List Nat) : State :=
  let p := s.part i
  let s1 := s.setPart i { p with pages := addrs.zipIdx.foldl (fun m a =>
    SMap.set none m ((va % 2 ^ 38 + a.2 * n) / 65536) (some { big := big, wr := wr, host := host, addr := a.1, fn := fn })) p.pages }
  if host then s1 else addrs.foldl (fun s a => s.zeroHbm a n) s1

/-- Device addresses of space 0 that a created queue ring or a configured channel uses in a partition (R279). -/
def ringRanges (s : State) (i : Nat) : List (Nat × Nat) :=
  (s.queues.filter (fun e => e.2.created && (s.func e.2.owner).bound == some i && daSpace e.2.base == 0)).map
    (fun e => (e.2.base, 64 * e.2.size))
  ++ (s.chans.filter (fun e => (s.part i).hasEngine (e.1 / 64) && e.2.ring != 0)).flatMap (fun e =>
    (if daSpace e.2.ring = 0 then [(e.2.ring, 32 * 2 ^ e.2.log2)] else []) ++ (if daSpace e.2.head = 0 then [(e.2.head, 8)] else []))

/-- A command that removes entries of a range must wait (R279). -/
def mapHeld (s : State) (i va bytes : Nat) : Bool :=
  !(s.runTiles i).isEmpty
  || s.chans.any (fun e => (s.part i).hasEngine (e.1 / 64) && e.2.st != .idle)
  || (s.ringRanges i).any (fun r => meets r.1 r.2 va bytes)

/-- The translation entry of a virtual address, and its level (R277, R365). -/
def mapEntry (s : State) (i va : Nat) : Nat × Nat :=
  match s.pageAt i va with
  | some g => (3 + 4 * g.wr.toNat + 8 * g.host.toNat + g.addr, if g.big then 0 else 1)
  | none =>
    let base := va % 2 ^ 38 / 2 ^ 21 * 32
    (0, if (List.range 32).any (fun j => (SMap.get none (s.part i).pages (base + j)).isSome) then 1 else 0)

end State

/-- VA's space (R366). -/
def vaChk (t : Taken) : Chk := (4096 ≤ t.w 9 % 65536, stBadOpcode, 9)

/-- MAP (R366). `place`: the physical addresses that firmware picks for HBM pages. (DESIGN CHOICE, log entry 32) -/
def execMap (fn : Nat) (place : List Nat) (s : State) : Host.Outcome State Fault Refusal :=
  s.run (·.command fn
    (fun _ => { op := 0x0300, who := .part, plen := 20, masks := [m32, 0xFFFF, 0x7_1FFF, m32, 0xFFFF] }) (fun _ => true)
    (fun s t part =>
      let host := (t.w 10).testBit 18
      let ha := t.addr 11
      let n := mapUnit t
      let k := mapPages t
      [vaChk t, (!host && t.w 11 != 0, stBadOpcode, 11), (!host && t.w 12 != 0, stBadOpcode, 12)] ++
      (if k = 0 then [] else
        [(mapVa t % n != 0, stBadAlign, 8), (ha % n != 0, stBadAlign, 11),
         (decide (4096 < k) || decide (2 ^ 38 < mapVa t + mapBytes t), stBadLength, 10),
         (host && decide (2 ^ 44 < ha + mapBytes t), stBadLength, 11)]
        ++ (if 4096 < k ∨ 2 ^ 38 < mapVa t + mapBytes t then [] else
          [(s.rangeMapped part (mapVa t) (mapBytes t), stConflict, 8),
           (!host && (s.framesFor part k n (mapBig t) (mapVa t) place).isNone, stConflict, 10)])))
    (fun s t part =>
      let host := (t.w 10).testBit 18
      let n := mapUnit t
      let k := mapPages t
      let addrs := if host then (List.range k).map (fun j => t.addr 11 + j * n)
        else (s.framesFor part k n (mapBig t) (mapVa t) place).getD []
      (if k = 0 then s else s.mapIn part (mapVa t) n (mapBig t) ((t.w 10).testBit 17) host t.fn addrs, ok)))

/-- UNMAP (R279, R366). -/
def execUnmap (fn : Nat) (s : State) : Host.Outcome State Fault Refusal :=
  s.run (·.command fn (fun _ => { op := 0x0301, who := .part, plen := 12, masks := [m32, 0xFFFF, 0x1_1FFF] }) (fun _ => true)
    (fun s t part =>
      let n := mapUnit t
      let k := mapPages t
      vaChk t :: (if k = 0 then [] else
        [(mapVa t % n != 0, stBadAlign, 8),
         (decide (4096 < k) || decide (2 ^ 38 < mapVa t + mapBytes t), stBadLength, 10)]
        ++ (if 4096 < k ∨ 2 ^ 38 < mapVa t + mapBytes t then [] else
          [((List.range k).any (fun j => match s.pageAt part (mapVa t + j * n) with
              | some g => g.big != mapBig t
              | none => true), stConflict, 8),
           (s.mapHeld part (mapVa t) (mapBytes t), stBusy, 8)])))
    (fun s t part =>
      let p := s.part part
      (if mapPages t = 0 then s else
        s.setPart part { p with pages := p.pages.filter (fun g =>
          decide (65536 * g.1 < mapVa t) || decide (mapVa t + mapBytes t ≤ 65536 * g.1)) }, ok)))

/-- MAP_QUERY. -/
def execMapQuery (fn : Nat) (s : State) : Host.Outcome State Fault Refusal :=
  s.run (·.query fn { op := 0x0302, who := .part, plen := 8, masks := [m32, 0xFFFF] }
    (fun _ t _ => [vaChk t, (decide (2 ^ 38 ≤ mapVa t), stBadLength, 8)])
    (fun s t p => let e := s.mapEntry p (mapVa t); [e.1 % 2 ^ 32, e.1 / 2 ^ 32, e.2]))

/-! ### Channel Scale Tables (R151, R153, R367) -/

def cstDie (t : Taken) : Nat := t.w 8 % 4
def cstFirst (t : Taken) : Nat := t.w 9
def cstCount (t : Taken) : Nat := t.w 10

/-- Entries within the partition's granules, and within the table. -/
def State.cstChks (s : State) (t : Taken) (part : Nat) : List Chk :=
  [((List.range (Nat.min (cstCount t) 1024)).any (fun i =>
      decide (cstFirst t + i < 131072) && !(s.part part).hasCst (cstDie t) (cstFirst t + i)), stNotPermitted, 9),
   (decide (506 < cstCount t), stBadLength, 10), (cstCount t != 0 && decide (131072 < cstFirst t + cstCount t), stBadLength, 9)]

/-- A self-test holds the lock of a die's table (R153). -/
def State.cstLocked (s : State) (die : Nat) : Bool :=
  match (s.lock (4 * 256 + die)).holder with
  | some a => (match a.kind with | .maint _ act => act == 4 | _ => false)
  | none => false

/-- CST_WRITE. -/
def execCstWrite (fn : Nat) (s : State) : Host.Outcome State Fault Refusal :=
  s.run (·.command fn (fun t => { op := 0x0310, who := .part, plen := 16 + 8 * cstCount t, masks := [3, 0x1_FFFF, 0x3FF, 0] })
    (fun _ => true)
    (fun s t part =>
      (List.range (Nat.min (cstCount t) 506)).map (fun i => (t.w (13 + 2 * i) % 65536 != 0, stBadOpcode, 13 + 2 * i))
      ++ s.cstChks t part
      ++ [(cstCount t != 0 && s.cstLocked (cstDie t), stBusy, 8),
          (cstCount t != 0 && s.tiles.any (fun e => e.2.running && e.2.part == part && dieOf e.1 == cstDie t), stBusy, 8)])
    (fun s t _ =>
      let d := cstDie t
      let s1 := (List.range (cstCount t)).foldl (fun s i => s.setCstEntry d (cstFirst t + i) (BitVec.ofNat 64 (t.w64 (12 + 2 * i)))) s
      let hit (k : Nat) : Bool := decide (d * 131072 + cstFirst t ≤ k) && decide (k < d * 131072 + cstFirst t + cstCount t)
      ({ s1 with rel := { s1.rel with badCst := s1.rel.badCst.filter (fun k => !hit k) } }, ok))
    (qpos := fun s t _ => if s.cstLocked (cstDie t) then s.lockLen (4 * 256 + cstDie t) else 0))

/-- CST_READ. -/
def execCstRead (fn : Nat) (s : State) : Host.Outcome State Fault Refusal :=
  s.run (·.query fn { op := 0x0311, who := .part, plen := 12, masks := [3, 0x1_FFFF, 0x3FF] } (fun s t part => s.cstChks t part)
    (fun s t _ => (List.range (cstCount t)).flatMap (fun i =>
      let v := (s.cstEntry (cstDie t) (cstFirst t + i)).toNat
      [v % 2 ^ 32, v / 2 ^ 32])))

end Sys2Proof.Machine
end

