-- ==== Sys2Proof/Machine/Reliab.lean ====
section
/-! DEFINITION. Faults and maintenance as they happen (R490 to R507, R524): uncorrectable errors, the Cretharel pairs, failure of the
device, patrol scrub, and the maintenance scheduler's own steps. -/

namespace Sys2Proof.Machine

namespace State

/-- An uncorrectable error at a place of a resource. A Sluice engine's staging buffers serve its channels, `loc` being the one, and the access
that fails is the write of the beat that leaves the buffer next; a control-complex memory is its pair's. `read`: work that runs there reads it; else patrol scrub finds it. -/
def uncorrectable (s : State) (kind index loc : Nat) (read : Bool) : State :=
  match kind with
  | 0 => if index < 256 then s.tileFault index (.memory loc read) else s
  | 1 => if loc < 192 * 2 ^ 30 ∧ index = stackOf loc then s.badHbmLine loc else s
  | 3 =>
    if index < 32 ∧ loc < 64 then
      let k := index * 64 + loc
      let c := s.chan k
      let s1 := s.reportBad 3 index (s.resourcePart 3 index) (c.pkt.map (fun p => (p.queue, p.seq))) 0
        (if c.runs.isEmpty then stOk else stUncorrectable)
      let s2 := match c.runs.find? (fun d => !d.finished) with
        | some d => if c.stopped then s1 else s1.haltChan k stUncorrectable (if d.words.isEmpty then 0 else (beatAt d.words d.pos).2.1)
        | none => s1
      let key := badKey 3 index loc
      if s.seen key = 0 then s2.see key
      else
        let s3 := (s2.see key).persistent 3 index (s.resourcePart 3 index) 0 6
        { s3 with rel := { s3.rel with sluiceOut := insAsc index s3.rel.sluiceOut } }
    else s
  | 4 => if index < 4 ∧ loc < 131072 then s.badEntry index loc else s
  | 5 => if index < 2 then (s.tally 5 index (fun c => { c with uncorr := satInc c.uncorr })).pairFails (index != s.activeIdx) 2 else s
  | _ => s

/-- The partition whose granule holds the place where something was corrected (R612). Of a stack or a Channel Scale Table, which
several may own, the place is a free value `v`: the input names the resource alone (log entry 43). -/
def placePart (s : State) (kind index v : Nat) : Option Nat :=
  if kind = 1 then s.ownerOf (fun p => bitOf p.hbm (48 * (index / 2) + v % 48))
  else if kind = 4 then s.ownerOf (·.hasCst index (8192 * (v % 16))) else s.resourcePart kind index

/-- A correctable error: the word is written back and counted (R490). -/
def corrected (s : State) (kind index n : Nat) : State :=
  (List.range (Nat.min n 0xFFFF)).foldl (fun s _ =>
    let d := s.draw
    let s0 := if kind = 1 then d.2.count (unitStack index) 0x003 1 1 0 else d.2
    (s0.report { cls := if kind = 1 then 3 else 1, severity := 0, kind := kind, index := index, part := s.placePart kind index d.1,
                 action := 1 }).tally kind index (fun c => { c with corrected := BitVec.ofNat 64 (sat64 c.corrected.toNat 1) })) s

/-- The device fails through something that is no resource of R370: the record's resource is left open (R497). -/
def failAnywhere (s : State) (cls : Nat) : State :=
  let d := s.draw
  d.2.failDevice { cls := cls, severity := 4, kind := d.1 % 16, index := d.1 / 16 % 256 }

end State

/-- An uncorrectable error is found and reported. (DEDUCED, log entry 43) -/
def execUncorrectableError (kind index : Nat) (location : BitVec 48) (s : State) : Host.Outcome State Fault Refusal :=
  s.run (·.uncorrectable kind index location.toNat true)

/-- A fault that a tile detects: replay from the journal, or the launch's end (R477, R478); held while its clocks are stopped (R135).
`cls` is the class of R497: residue
mismatch, checker alarm, or an uncorrectable line that the work will write again; `array`: it lies in the tensor array.
(DEDUCED, log entry 41) -/
def execTileFaultReplay (tile cls : Nat) (array : Bool) (groups : List Nat) (s : State) : Host.Outcome State Fault Refusal :=
  s.run (fun s =>
    s.when ((s.tile tile).running && (cls == 5 || cls == 6 || cls == 2)) (·.tileFault tile (.checker cls (array && cls != 2) groups)))

/-- A Cretharel pair's comparison fails (R493). (DEDUCED, log entry 50) -/
def execLockstepMismatch (standby : Bool) (s : State) : Host.Outcome State Fault Refusal := s.run (·.pairFails standby 7)

/-- The fault manager's copies (R494): one that is lost is restarted; with both, the device has failed. -/
def execFaultManagerLoss (north south : Bool) (s : State) : Host.Outcome State Fault Refusal :=
  s.run (fun s => s.when (north && south) (·.failAnywhere 6))

/-- A clock is lost (R495). -/
def execClockLoss (s : State) : Host.Outcome State Fault Refusal := s.run (·.failAnywhere 8)

/-- Thermal shutdown thresholds by the sensor's place: compute die, I/O die, HBM stack (R522, R524). -/
def shutdownAt (sensor : Nat) : Nat := if sensor < 6 then 115 else 105

/-- A sensor above its shutdown threshold for 10 ms (R524). -/
def execThermalShutdown (sensor temp : Nat) (s : State) : Host.Outcome State Fault Refusal :=
  .next (s.when ((sensor < 6 || (8 ≤ sensor && sensor < 16)) && shutdownAt sensor < temp && !s.boot.porst) (fun s =>
    let s1 := s.failAnywhere 0x0C
    { s1 with boot := { s1.boot with thermtrip := true } }))

/-! ### Scrub (R501, R502) -/

/-- A slice of scrub on a resource whose lock is free, or held by a scrub. (DEDUCED, log entry 62) -/
def execScrubSlice (resource corrected : Nat) (bad : List (BitVec 48)) (s : State) : Host.Outcome State Fault Refusal :=
  s.run (fun s =>
    let kind := resKind resource
    let mine := match (s.lock resource).holder with
      | some a => (match a.kind with | .maint _ act => act == 3 | _ => false)
      | none => (s.lock resource).queue.isEmpty
    s.when (mine && kind != 2 && decide (resource < 6 * 256)) (fun s =>
      bad.foldl (fun s l => s.uncorrectable kind (resIndex resource) l.toNat false) (s.corrected kind (resIndex resource) corrected)))

/-- The set period of a resource in minutes, and the one in force. -/
def State.setPeriod (s : State) (resource : Nat) : Nat := 60 * (if resKind resource = 1 then s.rel.scrubHbm else s.rel.scrubSram)
def State.scrubPeriod (s : State) (resource : Nat) : Nat :=
  let p := SMap.get 0 s.rel.periods resource
  if p = 0 then s.setPeriod resource else Nat.min p (s.setPeriod resource)

/-- The period halves, down to 15 minutes, or doubles back to the one set (R502). -/
def execScrubRate (resource : Nat) (halve : Bool) (s : State) : Host.Outcome State Fault Refusal :=
  s.run (fun s =>
    let cur := s.scrubPeriod resource
    let put (s : State) (p : Nat) : State :=
      { s with rel := { s.rel with periods := SMap.set 0 s.rel.periods resource (if p = s.setPeriod resource then 0 else p) } }
    if 6 * 256 ≤ resource ∨ resKind resource = 2 then s
    else if halve then
      s.when (decide (15 < cur)) (fun s =>
        let p := Nat.max 15 (cur / 2)
        let d := (put s p).draw
        d.2.eventPF 0x0503 (resIndex resource + 256 * resKind resource) stOk p (17 + d.1 % 2 ^ 32))
    else put s (Nat.min (2 * cur) (s.setPeriod resource)))

/-! ### The scheduler (R499, R500, R504 to R507) -/

/-- A freed lock goes to the activity of lowest rank. -/
def execMaintLockGrant (resource : Nat) (s : State) : Host.Outcome State Fault Refusal := s.run (·.grantLock resource)

/-- A repair that a persistent fault made due (R500, R505). -/
def execAutoRepair (resource : Nat) (s : State) : Host.Outcome State Fault Refusal :=
  s.run (fun s => s.when (s.rel.persist.contains resource) (fun s =>
    ({ s with rel := { s.rel with persist := s.rel.persist.filter (· != resource) } }).autoMaint resource 0))

namespace State

/-- What an activity needs before it can run to its end (R506); that of a tile holds with the tile while its clocks are stopped
(R510). -/
def maintReady (s : State) (res act : Nat) : Bool :=
  let index := resIndex res
  match resKind res with
  | 0 => !(s.tile index).stopped && (act == 3 || !(s.tile index).running)
  | 2 => (act != 1 || (s.link index).spreq.isNone) && (act != 2 || (s.link index).sweep.isNone)
  | 3 => s.chans.all (fun e => e.1 / 64 != index || e.2.st != .active)
  | 4 => act == 3 || s.tiles.all (fun e => dieOf e.1 != index || !e.2.running)
  | _ => true

/-- The outcome of a tile's repair: row `result[6:0]` of band `result[7]` is taken out of use, or the array is disabled: by the
repair itself, or because the band has a second faulty row (R125, R127). The state and the result. -/
def repairTile (s : State) (ph result : Nat) : State × Nat :=
  let band := bits result 7 1
  let row := BitVec.ofNat 7 result
  let r := (s.tile ph).repair
  let old := if band = 0 then r.1 else r.2
  if result = 0xFFFF ∨ 256 ≤ result ∨ (old ≠ 0x7F ∧ old ≠ row) then (s.dropArray ph false, 0xFFFF)
  else if 64 < row.toNat then (s, result)
  else
    let new := if band = 0 then (row, r.2) else (r.1, row)
    ({ s.modTile ph (fun t => { t with repair := new }) with
        flash := { s.flash with repairs := SMap.set (0x7F, 0x7F) s.flash.repairs ph new } }, result)

/-- Repair of an HBM stack: the pages that hold its failing lines are retired (R500). -/
def repairStack (s : State) (h : Nat) : State :=
  let mine (p : Nat) : Bool := (List.range 256).any (fun i => stackOf (65536 * p + 256 * i) == h && s.seen (badKey 1 h (1024 * p + 4 * i)) != 0
    || (List.range 4).any (fun j => s.seen (badKey 1 h (1024 * p + 4 * i + j)) != 0))
  let due := s.rel.duePages.filter mine
  { s with flash := { s.flash with pages := due.foldl (fun l p => insAsc p l) s.flash.pages },
           rel := { s.rel with duePages := s.rel.duePages.filter (fun p => !mine p) } }

end State

/-- A running activity ends: its effect, and event 0x0580 (R499). (PRESUMED, log entry 49) -/
def execMaintActivityEnd (resource : Nat) (result : BitVec 16) (s : State) : Host.Outcome State Fault Refusal :=
  s.run (fun s =>
    match (s.lock resource).holder with
    | some { kind := .maint _ act, .. } =>
      s.when (s.maintReady resource act) (fun s =>
        let index := resIndex resource
        let kind := resKind resource
        if kind = 0 ∧ act = 0 then
          let r := s.repairTile index result.toNat
          r.1.endMaint resource stOk r.2
        else if kind = 1 ∧ act = 0 then (s.repairStack index).endMaint resource stOk result.toNat
        else if kind = 3 then
          let s1 := s.endMaint resource stOk result.toNat
          (List.range 64).foldl (fun s c => s.serve (64 * index + c)) s1
        else if kind = 5 then
          let s1 := s.endMaint resource stOk result.toNat
          if index = s.activeIdx then s1
          else
            let s2 : State := { s1 with boot := { s1.boot with standbyOk := result == 0 } }
            if result = 0 then s2 else s2.eventPF 0x0502 index stOk 0 0
        else s.endMaint resource stOk result.toNat)
    | _ => s)

end Sys2Proof.Machine
end

