-- ==== Sys2Proof/Machine/MbxSecurity.lean ====
section
/-! DEFINITION. The security and the debug group of mailbox commands (R372, R373, R375, R376, R599). -/

namespace Sys2Proof.Machine

/-! ### Measurements (R372, R552) -/

/-- Little-endian words of bytes. -/
def wordsOf (bs : List Byte) : List Nat := bytesWords (bs.length / 4) bs

/-- `n` bytes of a free value. -/
def freeBytes (n d : Nat) : List Byte := leBytes n d

/-- ATTEST; the signature under the device's own key is open. -/
def execAttest (fn : Nat) (s : State) : Host.Outcome State Fault Refusal :=
  s.run (·.command fn (fun _ => { op := 0x0700, who := .part, plen := 32, masks := List.replicate 8 m32 }) (fun _ => true) (fun _ _ _ => [])
    (fun s t _ =>
      let d := s.draw
      (d.2, okWords (t.ws 8 8 ++ wordsOf s.boot.fwdig ++ wordsOf s.boot.jetdig ++ bytesWords 4 (s.reproKey 0 0)
        ++ [s.boot.fwver.toNat, s.boot.svn.toNat + 2 ^ 31 * s.sec.unlocked.toNat] ++ wordsOf (freeBytes 96 d.1)))))

/-- CERT_READ: the part of the chain that exists. -/
def execCertRead (fn : Nat) (s : State) : Host.Outcome State Fault Refusal :=
  s.run (·.command fn (fun _ => { op := 0x0701, who := .part, plen := 8, masks := [0xFFFF, 0xFFF] }) (fun _ => true)
    (fun _ t _ => [(decide (4060 < t.w 9), stBadLength, 9)])
    (fun s t _ =>
      (s, { res := wordsBytes [Config.certChain.length % 65536] ++ (Config.certChain.drop (t.w 8)).take (t.w 9) })))

/-! ### Owner keys (R373, R603) -/

def ksSlot (t : Taken) : Nat := t.w 8 % 4
def ksAuth (t : Taken) : Nat := t.w 8 / 4 % 4
/-- Parameter bytes of words `i` to `i + n − 1`. -/
def Taken.bytes (t : Taken) (i n : Nat) : List Byte := wordsBytes (t.ws i n)

namespace State

/-- No owner key is enrolled. -/
def noOwner (s : State) : Bool := s.flash.keys.all (·.isNone)

/-- AUTHSIG verifies: over the words before it, SERIAL and OWNERCTR, by the key in AUTHSLOT. -/
def authOk (s : State) (t : Taken) (before sigAt : Nat) : Bool :=
  match s.ownerKey (ksAuth t) with
  | none => false
  | some k => ecdsaVerify k (t.bytes sigAt 24)
      (t.bytes 8 before ++ leBytes 8 s.fuses.serial.toNat ++ leBytes 4 s.flash.ownerCtr.toNat)

/-- An accepted change of the owner keys: OWNERCTR advances with the fused counter that mirrors it. -/
def setKey (s : State) (slot : Nat) (k : Option (List Byte)) : State :=
  { s with flash := { s.flash with keys := s.flash.keys.set slot k, ownerCtr := s.flash.ownerCtr + 1 },
           fuses := { s.fuses with ownerCtr := s.flash.ownerCtr + 1 } }

end State

/-- OWNER_KEY_ENROL. (DEDUCED, log entry 55) -/
def execOwnerKeyEnrol (fn : Nat) (s : State) : Host.Outcome State Fault Refusal :=
  s.run (·.command fn (fun _ => { op := 0x0710, who := .pf, plen := 196, masks := 15 :: List.replicate 48 m32 }) (fun _ => true)
    (fun s t _ =>
      [(s.noOwner && !s.boot.secDamaged && (t.ws 33 24).any (· != 0), stBadOpcode, 33),
       (s.boot.secDamaged || (!s.noOwner && !s.authOk t 25 33), stNotPermitted, 33),
       ((s.flash.keys.getD (ksSlot t) none).isSome, stConflict, 8)])
    (fun s t _ => (s.setKey (ksSlot t) (some (t.bytes 9 24)), ok)))

/-- OWNER_KEY_REVOKE. -/
def execOwnerKeyRevoke (fn : Nat) (s : State) : Host.Outcome State Fault Refusal :=
  s.run (·.command fn (fun _ => { op := 0x0711, who := .pf, plen := 100, masks := 15 :: List.replicate 24 m32 }) (fun _ => true)
    (fun s t _ => [(s.boot.secDamaged || !s.authOk t 1 9, stNotPermitted, 9)])
    (fun s t _ => (s.setKey (ksSlot t) none, ok)))

/-! ### Firmware banks (R599, R601) -/

namespace Flash

/-- The boot descriptor in use: the valid copy with the higher generation. -/
def desc (f : Flash) : Option (Nat × Bool) :=
  match f.desc0, f.desc1 with
  | some a, some b => some (if a.1 < b.1 then b else a)
  | some a, none => some a
  | none, b => b

/-- The bank that the descriptor selects; bank 0 where no copy is valid. -/
def selected (f : Flash) : Bool := match f.desc with | some d => d.2 | none => false

def bank (f : Flash) (b : Bool) : Mem := if b then f.bank1 else f.bank0

/-- Write the descriptor: the copy that is not in use takes the next generation. -/
def select (f : Flash) (b : Bool) : Flash :=
  let next := match f.desc with | some d => d.1 + 1 | none => 1
  if f.desc0.isSome && f.desc0 == f.desc then { f with desc1 := some (next, b) } else { f with desc0 := some (next, b) }

end Flash

def bankSize : Nat := 12 * 2 ^ 20

/-- The oldest taken command is an FW_STAGE whose image lies in a tile with stopped clocks: the read waits at the tile's router (R133). -/
def State.stageHeld (s : State) : Bool :=
  match s.taken with
  | t :: _ => t.opcode == 0x0720 && t.w 10 != 0 && decide (t.w 10 ≤ bankSize) &&
      (match s.load (cmdAgent t (s.partOf t)) (t.addr 8) (t.w 10) with | .error .held => true | _ => false)
  | [] => false

/-- FW_STAGE: the image is copied, then written into the bank that is not selected. (DEDUCED, log entry 56) -/
def execFwStage (fn : Nat) (s : State) : Host.Outcome State Fault Refusal :=
  s.run (fun s => s.when (!s.stageHeld) (·.command fn
    (fun _ => { op := 0x0720, who := .pf, plen := 12, masks := [m32, 0xFFFF, m32] }) (fun _ => true)
    (fun s t part =>
      let a := cmdAgent t part
      let n := t.w 10
      let fits := decide (n ≤ bankSize)
      [(n != 0 && fits && !s.allowed a (t.addr 8) n false, stNotPermitted, 8), (!fits, stBadLength, 10)]
      ++ (if n != 0 && fits && s.allowed a (t.addr 8) n false then
            (match s.load a (t.addr 8) n with
             | .error (.status st) => [(true, st, noWord)]
             | _ => [])
          else []))
    (fun s t part =>
      if t.w 10 = 0 then
        (s.deferredEvent { fn := some t.fn, opcode := t.opcode, seq := t.seq, kind := .stage false [] } stOk 0, ok)
      else
        match s.load (cmdAgent t part) (t.addr 8) (t.w 10) with
        | .ok (s1, image) => (s1.addAct t (.stage (!s1.flash.selected) image), ok)
        | .error (.status st) => (s, { st := st })
        | .error .held => (s, { st := stBusy }))))

/-- FW_SELECT. -/
def execFwSelect (fn : Nat) (s : State) : Host.Outcome State Fault Refusal :=
  s.run (·.command fn (fun _ => { op := 0x0721, who := .pf, plen := 4, masks := [1] }) (fun _ => true) (fun _ _ _ => [])
    (fun s t _ => ({ s with flash := s.flash.select (t.w 8 == 1) }, ok)))

/-! ### Debug (R375, R376) -/

/-- DEBUG_CHALLENGE: a nonce, which is open. -/
def execDebugChallenge (fn : Nat) (s : State) : Host.Outcome State Fault Refusal :=
  s.run (·.command fn (fun _ => { op := 0x0900, who := .pf, plen := 0 }) (fun _ => true) (fun _ _ _ => [])
    (fun s _ _ =>
      let d := s.draw
      let n := freeBytes 32 d.1
      ({ d.2 with sec := { d.2.sec with nonce := some n } }, okWords (wordsOf n))))

def unlockCmd : Cmd := { op := 0x0901, who := .pf, plen := 100, masks := 3 :: List.replicate 24 m32 }

namespace State

/-- SIG verifies by the owner key in KSLOT over the NONCE given out last and not used, and SERIAL. -/
def unlockOk (s : State) (t : Taken) : Bool :=
  match s.ownerKey (t.w 8), s.sec.nonce with
  | some k, some n => ecdsaVerify k (t.bytes 9 24) (n ++ leBytes 8 s.fuses.serial.toNat)
  | _, _ => false

/-- The oldest taken command of the PF is a DEBUG_UNLOCK whose SIG is verified, for well or ill: none of the checks before it fails. -/
def unlockTried (s : State) (fn : Nat) : Bool :=
  match s.taken with
  | t :: _ => fn == 0 && t.fn == 0 && t.opcode == 0x0901 && (firstChk (s.sharedChks unlockCmd t)).1 != stBadOpcode
  | [] => false

end State

/-- DEBUG_UNLOCK: the verification uses the nonce up, and its failure comes before a wrong PLEN (R14). (DEDUCED, log entry 77) -/
def execDebugUnlock (fn : Nat) (s : State) : Host.Outcome State Fault Refusal :=
  s.run (fun s =>
    let tried := s.unlockTried fn
    let s1 := s.command fn (fun _ => unlockCmd) (fun _ => true) (fun s t _ => [(!s.unlockOk t, stNotPermitted, 9)])
      (fun s _ _ => ({ s with sec := { s.sec with unlocked := true } }, ok))
    s1.when tried (fun s => { s with sec := { s.sec with nonce := none } }))

/-- The kinds of resource in which a fault of a kind can be injected. -/
def injects (fkind : Nat) : List Nat :=
  match fkind with
  | 0 => [0, 3, 4, 5]
  | 1 => [0, 3, 4, 5]
  | 2 => [0]
  | 3 => [2]
  | 4 => [5]
  | 5 => [1]
  | _ => []

/-- FAULT_INJECT: what a fault of the kind does; one that nothing meets stays without effect. The command itself has committed, so a
failover does not execute it again (R336). -/
def execFaultInject (fn : Nat) (s : State) : Host.Outcome State Fault Refusal :=
  s.run (·.command fn (fun _ => { op := 0x0902, who := .pfDebug, plen := 16, masks := [0xFFF, 15, m32, 0xFFFF] }) (fun _ => true)
    (fun _ t _ => [(!resourceOk (resKind (t.w 8)) (resIndex (t.w 8)), stBadOpcode, 8),
      (!(injects (t.w 9)).contains (resKind (t.w 8)), stBadOpcode, 9)])
    (fun s t _ =>
      let k := resKind (t.w 8)
      let i := resIndex (t.w 8)
      let loc := t.addr 10
      let s1 :=
        match t.w 9 with
        | 0 => s.corrected k i 1
        | 1 => s.uncorrectable k i loc true
        | 2 => s.tileFault i (.checker 5 true [])
        | 3 => s.modLink (i % 32) (fun l => { l with corrupt := true })
        | 4 => { ({ s with taken := s.taken.drop 1 }).pairFails (i != s.activeIdx) 7 with taken := s.taken }
        | 5 => s.uncorrectable 1 i loc true
        | _ => s
      (s1, ok)))

/-- TRACE_CONFIG: only while the strap gives the balls to the trace port. (DESIGN CHOICE, log entry 64) -/
def execTraceConfig (fn : Nat) (s : State) : Host.Outcome State Fault Refusal :=
  s.run (·.command fn (fun _ => { op := 0x0903, who := .pfDebug, plen := 8, masks := [1, m32] }) (fun _ => true)
    (fun s _ _ => [(!s.boot.straps.tracesel, stConflict, 8)])
    (fun s t _ => ({ s with tele := { s.tele with trace := t.w 8 == 1, traceFilter := BitVec.ofNat 32 (t.w 9) } }, ok)))

/-- DEBUG_LOCK: perturbations stop (R550). -/
def execDebugLock (fn : Nat) (s : State) : Host.Outcome State Fault Refusal :=
  s.run (·.command fn (fun _ => { op := 0x0904, who := .pf, plen := 0 }) (fun _ => true) (fun _ _ _ => [])
    (fun s _ _ => ({ s with sec := { s.sec with unlocked := false }, tele := { s.tele with tstOn := false } }, ok)))

end Sys2Proof.Machine
end

