-- ==== Sys2Proof/Machine/Rill.lean ====
section
/-! DEFINITION. The rows of the Rill links: states (R404, R405, R418 to R420), marker blocks (R400, R401), equalisation (R406), flits
(R412, R415 to R417), failing lanes and sparing (R409 to R411), and what DOWN does (R419, R423). -/

namespace Sys2Proof.Machine

namespace State

/-! ### DOWN, ACTIVE and width -/

/-- The packets of a link that the peer has not acknowledged, by their fronts, and those that still wait to be sent (R419). -/
def handedOver (l : Link) : List (List Byte) := (l.replay.map (·.head) ++ l.waiting.map (·.head)).eraseDups

/-- What the Cascade engine does with packets handed over as not delivered (R419): a request of this device that the link carried is to be
sent again (R436), and ends with ST_REPLAY_EXHAUSTED if it is never answered and its packet was among them after that cause; a running
collective of this device that depended on one ends. A packet in transit is lost. (DEDUCED, log entry 46) -/
def notDelivered (s : State) (n : Nat) (heads : List (List Byte)) (exhausted : Bool) : State :=
  let mine := heads.filter (fun h => pkSrc h == s.own)
  let of_ (r : RemReq) (h : List Byte) : Bool := pkType h ≤ 2 && pkDst h == r.dst && pkParam h == r.seq.toNat
  let s1 : State := { s with reqs := s.reqs.map (fun r =>
      if r.via = some n then { r with lost := true, exhausted := r.exhausted || (exhausted && mine.any (of_ r)) } else r) }
  mine.foldl (fun s h =>
    if pkType h / 16 ≠ 2 then s
    else match s.commOf (pkWord h 4) with
      | none => s
      | some (i, c) =>
        match c.colls.find? (fun k => (k.ph == .up || k.ph == .down) && k.inst == pkParam h) with
        | some k => if cbGen h = c.gen then (s.endColl i k (if exhausted then stReplay else stLinkDown)).collRun i else s
        | none => s) s1

/-- A link enters DOWN (R404, R419, R420, R423): its unacknowledged flits are not delivered, and a silent or failed neighbour is
lost to its communicators. A link that is being disabled ends DISABLED (R424). -/
def linkDown (s : State) (n cause : Nat) : State :=
  let l := s.link n
  let off := if l.disabling then l.off .disabled 0 else l.off .down cause
  let s1 := ((s.setLink n off).eventPF 0x0402 n stOk cause l.replay.length).notDelivered n (handedOver l) (cause == 2)
  if (cause = 3 ∨ cause = 4) ∧ l.peerV then s1.findLoss l.peer.toNat else s1

/-- A link that is being disabled ends (R419, R421). -/
def linkOff (s : State) (n : Nat) : State :=
  let l := s.link n
  (s.setLink n (l.off .disabled 0)).notDelivered n (handedOver l) false

/-- A link whose last flit has been acknowledged while it is being disabled sends RECOVER with disable and powers down (R421). In
RECOVERY it goes on sending it until its limit (R424). -/
def linkQuiet (s : State) (n : Nat) : State :=
  let l := s.link n
  if l.disabling && l.replay.isEmpty && l.st != .recovery then
    (if l.st = .active ∨ l.st = .config then s.putLink n (l.control 2 [1]) else s).linkOff n
  else s

/-- A link as it goes on: RECOVERY tells the peer (R412), and a fourth episode for one flit is DOWN (R418). -/
def putOn (s : State) (n : Nat) (l : Link) : State :=
  if (s.link n).st = .active ∧ l.st = .recovery then
    (if l.exhausted then s.linkDown n 2 else s.putLink n (l.control 2 [0]))
  else s.putLink n l

/-- CONFIG is over where R405 holds on both ends: both IDs, our CONFIG acknowledged and the peer's answered, the widths agreed; a peer
with our own ID sends the link DOWN. -/
def tryActive (s : State) (n : Nat) : State :=
  let l := s.link n
  match s.devid with
  | none => s
  | some d =>
    if l.st != .config || !l.peerV then s
    else if l.peer = d ∨ (l.cfgSeen ∧ l.cfgDev = d) then s.linkDown n 6
    else if l.cfgSeen && l.cfgAcked && l.cfgSent && l.cfgAnswered && l.peerHalf == l.rx.half
        && (l.cfgHalf || !(l.rx.half || l.tx.half)) then
      let l1 := l.activate
      (s.putLink n l1).eventPF 0x0401 n stOk (l.peer.toNat + 2 ^ 16 * l1.lanes) 0
    else s

/-- CONFIG begins its exchange, anew where the ID has changed (R405, R424). Without a fabric ID the link waits. -/
def startConfig (s : State) (n : Nat) : State :=
  let l : Link := { s.link n with st := .config, cfgSeen := false, cfgAcked := false, cfgSent := false, cfgAnswered := false }
  (s.putLink n (match s.devid with | some d => l.config n d s.fuses.stepping | none => l)).tryActive n

/-- RECOVERY is over once the lanes have aligned and the peer's RESUME has come (R404, R418). -/
def tryResume (s : State) (n : Nat) : State :=
  let l := s.link n
  if l.st = .recovery ∧ l.aligned ∧ l.resumed then s.putLink n l.activate else s

/-- New receive lanes; a change of width writes event 0x0404 (R411). -/
def setLanes (s : State) (n : Nat) (r : Lanes) : State :=
  let l := s.link n
  let s1 := s.setLink n { l with rx := r }
  if r.half = l.rx.half then s1 else s1.eventPF 0x0404 n stOk r.roles.length 0

/-- A failing lane in the fault log (R490, R497), and the unit that is persistently faulty where no healthy spare is left
(R500). -/
def reportLane (s : State) (link lane : Nat) : State :=
  s.report { cls := 9, severity := 1, kind := 2, index := link, location := lane }
def reportNoSpare (s : State) (link lane : Nat) : State :=
  if (s.link link).rx.spare.isSome then s
  else s.report { cls := 0x0A, severity := 3, kind := 2, index := link, location := lane, action := 6 }

/-- A lane counts as failed. -/
def failLane (s : State) (link lane : Nat) : State := s.modLink link (fun l => { l with rx := l.rx.fail lane })

/-- A sparing switch has moved the role of lane `f` (R410, R423), and the activity that held the lock for it is over. -/
def spared (s : State) (n f : Nat) (own : Bool) : State :=
  let s1 := (s.eventPF 0x0403 n stOk (f + 16 * (s.link n).rx.spare.getD 15) own.toNat).reportNoSpare n f
  match (s1.lock (linkRes n)).holder with
  | some { fn := none, kind := .maint _ 1, .. } => s1.endMaint (linkRes n) stOk 0
  | _ => s1

/-- Event 0x0580 of a running sweep that a failing lane stops (R424). -/
def stopSweep (s : State) (n : Nat) : State :=
  match (s.lock (linkRes n)).holder with
  | some { kind := .maint _ 2, .. } => s.endMaint (linkRes n) stAborted 0
  | _ => s

/-- The receive lanes that RECOVERY's ALIGN finds healthy (R410, R411, R424): a switch in progress completes, then the spare takes a data
lane that is lost, and otherwise the width halves; DOWN with fewer than four. -/
def alignAgain (s : State) (n : Nat) (healthy : List Nat) : State :=
  let l := s.link n
  let ok := l.byPlane (healthy.filter (fun p => !l.rx.failed.contains p))
  let idle (l : Link) : Link := { l with spreq := none, rxSwitch := none, spOwn := false }
  let s1 := match l.spreq, l.sweep with
    | some f, none =>
      if l.rx.spare.any ok.contains then (s.modLink n (fun l => idle { l with rx := l.rx.switch f })).spared n f l.spOwn
      else s.modLink n (fun l => idle (if l.spOwn then { l with rx := l.rx.fail f } else l))
    | _, _ => s
  let rx := (s1.link n).rx
  let kept := ok.filter (fun p => !rx.failed.contains p)
  if kept.length < 4 then s1.linkDown n 5
  else
    let lost := rx.roles.filter (fun p => !kept.contains p)
    let s2 := if lost.isEmpty then s1 else s1.stopSweep n
    let s3 := s2.setLanes n (rx.again kept)
    match lost, rx.half == (s3.link n).rx.half && !rx.half with
    | [f], true => (s3.reportLane n f).spared n f true
    | _, _ => s3

end State

/-- A link number that exists. -/
def linkOk (n : Nat) : Bool := decide (n < 32)

/-! ### Training (R404, R406) -/

/-- Signal has been present for 1 ms. -/
def execLinkDetectDone (link : Nat) (s : State) : Host.Outcome State Fault Refusal :=
  s.runLinks (fun s => s.when (linkOk link && (s.link link).st == .detect) (·.modLink link (fun l =>
    { l with st := .train, taps := presetTaps, eqReq := [] })))

/-- Every lane's coefficients have converged. -/
def execTrainConverged (link : Nat) (s : State) : Host.Outcome State Fault Refusal :=
  s.runLinks (fun s => s.when (linkOk link && (s.link link).st == .train) (·.modLink link (fun l => { l with st := .align, marks := [] })))

/-- Marker lock and deskew on these receive lanes, at least four, and on those transmit lanes at the peer (R404, R410, R411). How a
transmitter learns which of its lanes the peer has locked to is not stated; `lanes.far` says it, and with fewer than four there the transmit
lanes stay. (DESIGN CHOICE, log entry 45) -/
def execAlignLocked (link : Nat) (lanes : LanePair) (s : State) : Host.Outcome State Fault Refusal :=
  s.runLinks (fun s =>
    let l := s.link link
    let here := sortLanes lanes.near
    let there := sortLanes lanes.far
    if !linkOk link then s
    else if l.st = .align then
      let ok := l.byPlane (here.filter (fun p => !l.rx.failed.contains p))
      s.when (decide (4 ≤ ok.length)) (fun s =>
        ((s.setLanes link (l.rx.align l.retrain (Lanes.found l.marks ok) ok)).modLink link (fun l =>
          if there.length < 4 then l else { l with tx := l.tx.align l.retrain (Lanes.fresh there) there })).startConfig link)
    else if l.st = .recovery then
      let s1 := s.alignAgain link here
      s1.when ((s1.link link).st == .recovery) (fun s =>
        (s.putLink link (Link.resume
          { (s.link link) with aligned := true, tx := if there.length < 4 then l.tx else l.tx.again there })).tryResume link)
    else s)

/-- A state's time limit has passed (R404). Where the peer's FAILED falls into the same marker period, its MARKER_BLOCK comes first
(R424). (DESIGN CHOICE, log entry 44) -/
def execLinkStateTimeout (link : Nat) (s : State) : Host.Outcome State Fault Refusal :=
  s.runLinks (fun s =>
    let l := s.link link
    s.when (linkOk link && (l.st == .train || l.st == .align || l.st == .recovery
      || (l.st == .config && s.devid.isSome && l.peerV))) (·.linkDown link 1))

/-! ### Marker blocks (R400, R401, R406, R410, R420) -/

/-- A link that sends and reads marker blocks. -/
def Link.marking (l : Link) : Bool :=
  l.st == .train || l.st == .align || l.st == .config || l.st == .active || l.st == .recovery

/-- One code step of a tap, by 1 up or 2 down; at an end of its signed 6-bit range it goes no further. (PRESUMED, log entry 45) -/
def stepTap (taps : List (List Int)) (lane : Nat) (r : Nat × Nat) : List (List Int) :=
  let cs := taps.getD lane []
  let v := cs.getD r.1 0
  let v1 := if r.2 = 1 then (if v < 31 then v + 1 else v) else if r.2 = 2 then (if -32 < v then v - 1 else v) else v
  taps.set lane (cs.set r.1 v1)

/-- The peer's requests of the last period, one step a lane (R406). -/
def Link.equalise (l : Link) : Link :=
  { l with eqReq := [], taps := l.eqReq.foldl (fun t e => stepTap t e.1 e.2) l.taps }

/-- The requests that this device's receivers make in a period, from their own error estimates, which the model does not have: free. None
outside TRAIN, ACTIVE and RECOVERY (R406, R407). (DESIGN CHOICE, log entry 45) -/
def eqAsk (l : Link) (v : Nat) : EqAsk :=
  if l.st = .train ∨ l.st = .active ∨ l.st = .recovery then
    (List.range 9).map (fun i => (v / 18 ^ i % 6, v / 18 ^ i / 6 % 3))
  else []

namespace State

/-- The last marker periods of a link of a device that has failed or is being reset (R496, R598): HEARTBEAT stands still. After the last
of them the link powers down, and a reset that waits for the links takes effect. -/
def lastPeriod (s : State) (n : Nat) (reset : State → BitVec 4 → State) : State :=
  let l := s.link n
  let l1 : Link := ({ l with mcount := l.mcount + 1 } : Link).sendBlocks n s.devid s.boot.failed []
  if l.dying ≠ 1 then s.setLink n { l1 with dying := l.dying - 1 }
  else
    let s1 := s.setLink n (l1.off .down 0)
    match s1.boot.resetDue with
    | some c => if s1.links.any (fun e => e.2.dying != 0) then s1 else reset s1 c
    | none => s1

end State

/-- What a good marker block tells a link, states apart. -/
def Link.readMarker (l : Link) (w : Nat → Nat) : Link :=
  let spreq := w 5 % 16
  let spack := bits (w 5) 4 4
  let lane := bits (w 4) 5 4
  { l with
    peerLink := BitVec.ofNat 5 (bits (w 1) 8 5), peerHalf := (w 1).testBit 13, peerCount := BitVec.ofNat 32 (w 2),
    peerBeat := BitVec.ofNat 16 (w 3), peer := BitVec.ofNat 12 (w 7), peerV := (w 7).testBit 12,
    eqReq := if w 4 % 8 < 5 ∧ (bits (w 4) 3 2 = 1 ∨ bits (w 4) 3 2 = 2) ∧ lane < 9 then
        SMap.set (0, 0) l.eqReq lane (w 4 % 8, bits (w 4) 3 2) else l.eqReq,
    spack := if spreq < 9 then some spreq else none,
    spat := if spreq < 9 ∧ l.spack ≠ some spreq then l.mcount + 2 else l.spat,
    rxSwitch := match l.spreq with
      | some f => if l.plane f = spack ∧ l.rxSwitch = none then some (f, BitVec.ofNat 32 (w 6)) else l.rxSwitch
      | none => l.rxSwitch }

/-- A marker block that keeps R401: its MAGIC, its reserved fields, a lane and a link that exist. -/
def markerGood (words : List Word32) : Bool :=
  let w (i : Nat) : Nat := (words.getD i 0).toNat
  words.length == 8 && w 0 == 0xA5C3_3C5A && bits (w 1) 14 18 == 0 && decide (bits (w 1) 4 4 < 9)
    && (decide (w 1 % 16 < 8) || w 1 % 16 == 15) && bits (w 3) 17 15 == 0 && bits (w 4) 9 23 == 0 && bits (w 5) 8 24 == 0
    && bits (w 7) 13 19 == 0

/-- Lanes that disagree in ALIGN: another link's lane, or two lanes that claim one logical lane in one marker period (R402). -/
def marksClash (marks : SMap (Nat × Nat × BitVec 32)) (lane link role : Nat) (count : BitVec 32) : Bool :=
  marks.any (fun m => m.1 != lane && (m.2.1 != link || (m.2.2.1 == role && role != 15 && m.2.2.2 == count)))

/-- A received marker block of a physical lane. In ALIGN, also that of RECOVERY, the lanes are told apart by it. -/
def execMarkerBlock (link lane : Nat) (words : List Word32) (s : State) : Host.Outcome State Fault Refusal :=
  s.runLinks (fun s =>
    let l := s.link link
    let w (i : Nat) : Nat := (words.getD i 0).toNat
    s.when (linkOk link && l.marking && decide (lane < 9) && markerGood words) (fun s =>
      let l0 := l.readMarker w
      let l1 : Link := { l0 with planes := SMap.set 9 l0.planes lane (bits (w 1) 4 4) }
      if (w 3).testBit 16 && (l.st == .active || l.st == .recovery) then (s.setLink link l1).linkDown link 4
      else if l.st = .align ∨ (l.st = .recovery ∧ l.aligned = false) then
        let role := w 1 % 16
        let from_ := bits (w 1) 8 5
        if marksClash l.marks lane from_ role (BitVec.ofNat 32 (w 2)) then s.linkDown link 1
        else s.setLink link { l1 with marks := SMap.set (32, 16, 0) l1.marks lane (from_, role, BitVec.ofNat 32 (w 2)) }
      else (s.setLink link l1).tryActive link))

/-- HEARTBEAT has stood still for 100 µs (R420). -/
def execPeerSilent (link : Nat) (s : State) : Host.Outcome State Fault Refusal :=
  s.runLinks (fun s => s.when (linkOk link && (s.link link).st == .active) (·.linkDown link 3))

/-! ### Flits (R405, R412, R415 to R418, R421) -/

/-- A link that receives flits. -/
def Link.open (l : Link) : Bool := l.st == .config || l.st == .active || l.st == .recovery

/-- A flit arrives: a damaged one is counted and discarded; a good one of the row's type delivers its header, then `body`. A link
whose replays have been in vain goes DOWN, and one that is being disabled ends once all is acknowledged. -/
def State.flit (s : State) (n : Nat) (flit : List Byte) (fec : Bool) (type : Nat) (body : State → State) : State :=
  let l := s.link n
  if !linkOk n || !l.open then s
  else if !flitGood flit fec then s.putLink n (l.damaged (flitType flit == 1))
  else if flitType flit ≠ type then s
  else
    let s1 := s.putOn n (l.header flit)
    if (s1.link n).open then (body s1).linkQuiet n else s1

/-- CTLOP of a LINKCTL flit, and word `i` of its payload. -/
def ctlWord (flit : List Byte) (i : Nat) : Nat := flitWord flit (3 + i)

/-- A DATA flit; only an ACTIVE link takes it (R404). -/
def execDataFlit (link : Nat) (flit : List Byte) (fec : Bool) (s : State) : Host.Outcome State Fault Refusal :=
  s.runLinks (fun s => s.flit link flit fec 1 (fun s =>
    let l := s.link link
    if l.st != .active then s else s.putLink link (l.accept flit)))

/-- An IDLE flit. -/
def execIdleFlit (link : Nat) (flit : List Byte) (fec : Bool) (s : State) : Host.Outcome State Fault Refusal :=
  s.runLinks (fun s => s.flit link flit fec 0 (fun s => s))

/-- LINKCTL CONFIG: what the peer says of itself, answered with CONFIG_ACK once this device has a fabric ID (R405). -/
def execLinkctlConfig (link : Nat) (flit : List Byte) (fec : Bool) (s : State) : Host.Outcome State Fault Refusal :=
  s.runLinks (fun s => s.flit link flit fec 2 (fun s =>
    let l := s.link link
    if ctlWord flit 0 % 16 ≠ 0 ∨ l.st ≠ .config then s
    else
      let l1 : Link :=
        { l with cfgSeen := true, cfgHalf := (ctlWord flit 2).testBit 16, cfgDev := BitVec.ofNat 12 (ctlWord flit 1),
                 cfgLink := BitVec.ofNat 5 (bits (ctlWord flit 1) 16 5), cfgStep := BitVec.ofNat 16 (ctlWord flit 2) }
      (s.putLink link (if s.devid.isSome then { l1.control 1 [] with cfgAnswered := true } else l1)).tryActive link))

/-- LINKCTL CONFIG_ACK. -/
def execLinkctlConfigAck (link : Nat) (flit : List Byte) (fec : Bool) (s : State) : Host.Outcome State Fault Refusal :=
  s.runLinks (fun s => s.flit link flit fec 2 (fun s =>
    if ctlWord flit 0 % 16 ≠ 1 ∨ (s.link link).st ≠ .config then s
    else (s.modLink link (fun l => { l with cfgAcked := true })).tryActive link))

/-- LINKCTL RECOVER: the peer has entered RECOVERY, or powers its lanes down (R418, R421). -/
def execLinkctlRecover (link : Nat) (flit : List Byte) (fec : Bool) (s : State) : Host.Outcome State Fault Refusal :=
  s.runLinks (fun s => s.flit link flit fec 2 (fun s =>
    if ctlWord flit 0 % 16 ≠ 2 then s
    else if (ctlWord flit 1).testBit 0 then s.linkDown link 7
    else if (s.link link).st = .active then s.putOn link (s.link link).recover
    else s))

/-- LINKCTL RESUME: the peer's ACKSEQ (R418). -/
def execLinkctlResume (link : Nat) (flit : List Byte) (fec : Bool) (s : State) : Host.Outcome State Fault Refusal :=
  s.runLinks (fun s => s.flit link flit fec 2 (fun s =>
    if ctlWord flit 0 % 16 ≠ 3 ∨ (s.link link).st ≠ .recovery then s
    else (s.putLink link { (s.link link).acked (BitVec.ofNat 12 (ctlWord flit 1)) with resumed := true }).tryResume link))

/-- ACKSEQ has not advanced for 1 µs (R417, R418). -/
def execAckTimeout (link : Nat) (s : State) : Host.Outcome State Fault Refusal :=
  s.runLinks (fun s =>
    let l := s.link link
    s.when (linkOk link && l.st == .active && !l.replay.isEmpty) (·.putOn link l.startReplay))

/-- No valid flit for 1 µs (R418). -/
def execFlitSilence (link : Nat) (s : State) : Host.Outcome State Fault Refusal :=
  s.runLinks (fun s => s.when (linkOk link && (s.link link).st == .active) (fun s => s.putOn link (s.link link).recover))

/-! ### Lanes (R409 to R411, R424) -/

/-- A lane is declared failing (R409): a data lane asks for sparing; without a spare to take its role, or while another switch is in
progress, the link retrains at half width, or goes DOWN with fewer than four healthy lanes (R411, R424). A lane that fails in TRAIN or
ALIGN is found there, and one that fails in CONFIG leaves its role at once. -/
def execLaneFailing (link lane : Nat) (s : State) : Host.Outcome State Fault Refusal :=
  s.runLinks (fun s =>
    let l := s.link link
    let serving := l.st == .active || l.st == .recovery
    let own : Bool := l.sweep.isNone && l.spreq == some lane
    let failed (s : State) : State := (s.failLane link lane).reportLane link lane
    s.when (linkOk link && decide (lane < 9) && !l.rx.failed.contains lane && !own) (fun s =>
      if l.st = .test ∨ l.st = .train ∨ l.st = .align then failed s
      else if l.st = .config then
        let s1 := failed s
        let ok := (List.range 9).filter (fun p => !(s1.link link).rx.failed.contains p)
        if ok.length < 4 then s1.linkDown link 5 else (s1.setLanes link ((s1.link link).rx.again ((s1.link link).byPlane ok))).tryActive link
      else if !serving then s
      else if !l.rx.roles.contains lane then
        let s1 := failed (s.stopSweep link)
        if l.rx.spare = some lane then s1.reportNoSpare link lane else s1
      else if l.rx.spare.isSome && !l.rx.half && (l.spreq.isNone || l.sweep.isSome) then
        ((s.autoMaint (linkRes link) 1).modLink link (fun l => { l with spreq := some lane, spOwn := true, rxSwitch := none })).reportLane
          link lane
      else
        let s1 := failed (s.stopSweep link)
        if 9 < 4 + (s1.link link).rx.failed.length then s1.linkDown link 5
        else if l.st = .active then s1.putOn link (s1.link link).recover
        else s1.modLink link (fun l => { l with aligned := false, marks := [] })))

/-- The agreed marker period has come, in either direction (R410, R423); a switch of the sweep goes on with it (R408). -/
def execLaneSpareSwitch (link : Nat) (s : State) : Host.Outcome State Fault Refusal :=
  s.runLinks (fun s =>
    let l := s.link link
    let reached (now due : BitVec 32) : Bool := decide ((now - due).toNat < 2 ^ 31)
    s.when (linkOk link && (l.st == .active || l.st == .recovery)) (fun s =>
      let s1 := match l.spack with
        | some f => if l.tx.roles.contains f && reached l.mcount l.spat then s.setLink link { l with tx := l.tx.swap f } else s
        | none => s
      match l.rxSwitch with
      | some (f, due) =>
        if !reached l.peerCount due then s1
        else if l.sweep.isSome then s1.modLink link (·.sweepSwitch f)
        else
          (s1.modLink link (fun l => { l with rx := l.rx.switch f, spreq := none, rxSwitch := none, spOwn := false })).spared link f l.spOwn
      | none => s1))

/-- A link that is being disabled has waited 100 µs for the rest of its acknowledgements (R421). -/
def execDisableTimeout (link : Nat) (s : State) : Host.Outcome State Fault Refusal :=
  s.runLinks (fun s => s.when (linkOk link && (s.link link).disabling) (·.linkOff link))

end Sys2Proof.Machine
end

