-- ==== Sys2Proof/Machine/Weir.lean ====
section
/-! DEFINITION. Clocks, power and the Weir loops (R511 to R529, R585): operating points, the power and thermal loops, adaptive voltage,
droop, thermal emergencies, placement adaptation. None of them changes a bit of any result. -/

namespace Sys2Proof.Machine

/-- An operating point (R513, R514). -/
structure Opp where
  rootmul : Nat
  vcrit   : Nat
  vmin    : Nat
  vpin    : Nat
  vmax    : Nat
  pmax    : Nat
  deriving DecidableEq, Repr

/-- The table of R514. -/
def opps : List Opp :=
  [⟨60, 780, 810, 870, 900, 1390⟩, ⟨54, 740, 770, 830, 860, 1220⟩, ⟨48, 700, 730, 790, 820, 1070⟩, ⟨42, 665, 695, 755, 785, 930⟩,
   ⟨36, 630, 660, 720, 750, 810⟩, ⟨30, 600, 630, 690, 720, 700⟩, ⟨24, 575, 605, 665, 695, 600⟩, ⟨12, 540, 570, 630, 660, 470⟩]

def oppOf (i : Nat) : Opp := opps.getD i ⟨60, 780, 810, 870, 900, 1390⟩

/-- An entry of OPP_LIST (R513); every point of the table is pinnable. -/
def Opp.words (o : Opp) : List Nat := [o.rootmul + 128 + 65536 * o.pmax, o.vmin + 65536 * o.vmax, o.vcrit + 65536 * o.vpin, 0]

namespace Weir

/-- The sum of the last ten samples: ten times P100 (R519). -/
def sum10 (w : Weir) : Nat := (w.samples.take 10).sum
def p100 (w : Weir) : Nat := w.sum10 / 10
/-- P100 exceeds the cap. -/
def aboveCap (w : Weir) : Bool := decide (10 * w.cap < w.sum10)
/-- The throttle level of a die (R516). -/
def throttle (w : Weir) (die : Nat) : Nat := Nat.max w.tp (w.td.getD die 0)
/-- A reading of a sensor's place, in °C. (DESIGN CHOICE, log entry 7) -/
def temp (w : Weir) (k : Nat) : Option Nat := match SMap.get 0 w.temps k with | 0 => none | t + 1 => some t
/-- A reading above a threshold. -/
def above (w : Weir) (k limit : Nat) : Bool := match w.temp k with | some t => decide (limit < t) | none => false
/-- Voltages after a move to a new point: each rail whose regulator answers goes where `v` says (R515, R585). -/
def setVolts (w : Weir) (v : Nat → Nat) : Weir :=
  { w with volts := w.volts.zipIdx.map (fun e => if w.mute.getD e.2 false then e.1 else v e.2) }

end Weir

namespace State

def setWeir (s : State) (f : Weir → Weir) : State := { s with weir := f s.weir }
/-- Note that the tile rate has changed (R519). -/
def rateChanged (s : State) : State := s.setWeir (fun w => { w with since := s.time })

/-- The pin ends (R526). -/
def endPin (s : State) (reason : Nat) : State :=
  if s.weir.pinned then
    (s.setWeir (fun w => { w with pinned := false, overCap := 0, hotTp := 0, calm := 0 })).eventPF 0x0801 s.weir.opp stOk reason s.weir.p100
  else s

/-- The device runs at another point; adaptive voltage sets each rail within the new point's limits (R515, R517). -/
def moveOpp (s : State) (opp cause : Nat) : State :=
  if opp = s.weir.opp then s
  else
    let o := oppOf opp
    let d := s.draw
    let s1 := d.2.setWeir (fun w =>
      { w.setVolts (fun i => o.vmin + 5 * (d.1 / 1000 ^ i % ((o.vmax - o.vmin) / 5 + 1))) with opp := opp, hotTp := 0, since := s.time })
    s1.eventPF 0x0803 opp stOk s.weir.opp cause

/-- The device-wide power throttle level changes. -/
def setTp (s : State) (tp : Nat) : State :=
  if tp = s.weir.tp then s
  else (s.setWeir (fun w => { w with tp := tp, hotTp := 0, calm := 0 })).rateChanged

end State

/-! ### Power (R519 to R521, R526) -/

/-- A sample of the package's power; the second above 1,600 W in a row is the fast limit. (DEDUCED, log entry 52) -/
def execPowerSample (watts : Nat) (s : State) : Host.Outcome State Fault Refusal :=
  s.run (fun s =>
    let hit := decide (1600 < watts) && (match s.weir.samples with | x :: _ => decide (1600 < x) | [] => false)
    let s1 := s.setWeir (fun w => { w with samples := (watts :: w.samples).take 1000 })
    if !hit || s1.weir.fast then s1
    else ((s1.endPin 1).setTp (Nat.min (s.weir.tp + 2) 8)).setWeir (fun w => { w with fast := true }))

/-- One period of the power loop; it needs ten samples. -/
def execPowerLoopTick (s : State) : Host.Outcome State Fault Refusal :=
  s.run (fun s =>
    let w := s.weir
    let aboveCap := if w.aboveCap then w.overCap + 1 else 0
    if w.samples.length < 10 then s
    else if w.pinned then
      (if 100 ≤ aboveCap then s.endPin 1 else s.setWeir (fun w => { w with overCap := aboveCap })).setWeir (fun w => { w with fast := false })
    else
      let e := Nat.min (w.energy + w.sum10 - 10 * w.cap) 200000
      let tp := if w.fast then w.tp
        else if e = 200000 ∧ w.aboveCap then Nat.min (w.tp + 1) 8
        else if e = 0 ∧ w.sum10 + 500 < 10 * w.cap then w.tp - 1 else w.tp
      (s.setTp tp).setWeir (fun x =>
        { x with energy := e, fast := false, overCap := aboveCap,
                 hotTp := if w.tp = 8 ∧ w.aboveCap then w.hotTp + 1 else 0,
                 calm := if tp = 0 then w.calm + 1 else 0 }))

namespace State

/-- Why a loop would step down now: 1 power, 2 thermal, none (R521 to R523). -/
def stepDownCause (s : State) : Option Nat :=
  let w := s.weir
  if w.tp = 8 ∧ 10 ≤ w.hotTp then some 1
  else if (List.range 4).any (fun d => w.td.getD d 0 == 8 && w.above d 95) || w.above 4 95 || w.above 5 95 then some 2
  else none

/-- The power loop may step up (R521, R585). -/
def mayStepUp (s : State) : Bool :=
  let w := s.weir
  w.tp == 0 && decide (100 ≤ w.calm) && w.energy == 0 && w.td.all (· == 0) && w.mute.all (!·)
    && decide (w.sum10 + 10 * (oppOf (w.opp - 1)).pmax ≤ 10 * w.cap + 10 * (oppOf w.opp).pmax)

end State

/-- A step of the loops to an adjacent point: at most one each millisecond, none while a point is pinned (R515, R521, R525). -/
def execFreqStep (opp : Nat) (s : State) : Host.Outcome State Fault Refusal :=
  s.run (fun s =>
    let w := s.weir
    let due := match w.lastStep with | some t => decide (t + 100000 ≤ s.time) | none => true
    let stamp (s : State) : State := s.setWeir (fun w => { w with lastStep := some s.time })
    if w.pinned || !due then s
    else if opp = w.opp + 1 ∧ opp < 8 then
      (match s.stepDownCause with | some c => stamp (s.moveOpp opp c) | none => s)
    else if opp + 1 = w.opp ∧ s.mayStepUp then stamp (s.moveOpp opp 3)
    else s)

/-! ### Temperature (R522 to R524) -/

/-- One period of the thermal loop, with the hottest reading of each place. While a point is pinned only the release check runs.
(DEDUCED, log entry 54) -/
def execThermalLoopTick (temps : List (Nat × Nat)) (s : State) : Host.Outcome State Fault Refusal :=
  s.run (fun s =>
    let known := temps.filter (fun e => decide (e.1 < 6) || (decide (8 ≤ e.1) && decide (e.1 < 16)))
    let s1 := s.setWeir (fun w => { w with temps := known.foldl (fun m e => SMap.set 0 m e.1 (e.2 + 1)) w.temps })
    let s2 := if (List.range 6).any (fun k => s1.weir.above k 95) then s1.endPin 2 else s1
    if s2.weir.pinned then s2
    else
      let w := s2.weir
      let cool (d : Nat) : Nat :=
        match w.temp d with
        | some t => if t < 90 then w.coolMs.getD d 0 + 1 else 0
        | none => 0
      let td (d : Nat) : Nat :=
        let v := w.td.getD d 0
        if w.above d 95 then Nat.min (v + 1) 8 else if 10 ≤ cool d then v - 1 else v
      let new := (List.range 4).map td
      let s3 := s2.setWeir (fun w => { w with td := new, coolMs := (List.range 4).map cool })
      if new = w.td then s3 else s3.rateChanged)

/-- A thermal emergency: every tile of a compute die stops; an I/O die brings the device to the slowest point (R522, R524). -/
def execThermalEmergency (die temp : Nat) (s : State) : Host.Outcome State Fault Refusal :=
  s.run (fun s => s.when (decide (die < 6) && decide (105 < temp) && !s.weir.emergency.getD die true) (fun s =>
    let s1 := (s.setWeir (fun w => { w with emergency := w.emergency.set die true })).rateChanged
    let s2 := s1.eventPF 0x0802 die stOk (temp % 256 + 256) 0
    let s3 := s2.endPin 3
    if die < 4 then (List.range 64).foldl (fun s i => s.modTile (64 * die + i) (fun t => { t with stopped := true })) s3
    else s3.moveOpp 7 2))

namespace State

/-- A tile's clocks run again: a WAIT whose target came meanwhile is over (R133, R325), and the faults held meanwhile are acted on, in the
order of their detection (R135, R195). -/
def restartTile (s : State) (ph : Nat) : State :=
  let held := (s.tile ph).held
  let s1 := s.modTile ph (fun t =>
    let t1 := { t with stopped := false, held := [] }
    match t.wait with
    | some w => if w.met then { t1 with wait := none }.advance else t1
    | none => t1)
  held.foldl (fun s f => s.tileFault ph f) s1

end State

/-- The die's tiles restart, with its thermal throttle at its highest level; what waited for them goes on (R524). -/
def execThermalRestart (die micros : Nat) (s : State) : Host.Outcome State Fault Refusal :=
  s.run (fun s => s.when (s.weir.emergency.getD die false) (fun s =>
    let s1 := (s.setWeir (fun w => { w with
      emergency := w.emergency.set die false, td := if die < 4 then w.td.set die 8 else w.td,
      coolMs := if die < 4 then w.coolMs.set die 0 else w.coolMs })).rateChanged
    let d := s1.draw
    let s2 := d.2.eventPF 0x0802 die stOk (d.1 % 100) micros
    if die < 4 then
      (List.range 256).foldl (fun s i => s.collRun i) ((List.range 64).foldl (fun s i => s.restartTile (64 * die + i)) s2)
    else s2))

/-! ### Voltage and droop (R517, R518, R526, R585) -/

/-- One period of adaptive voltage on a rail; `slack`: the least margin less its target, in mV. A request outside the range of the point
in force is its nearest end (a rail that no request has moved yet stands at 0.80 V, below VMIN of point 0). (DEDUCED, log entry 53) -/
def execAvsTick (rail : Nat) (slack : Int) (s : State) : Host.Outcome State Fault Refusal :=
  s.run (fun s => s.when (decide (rail < 6) && !s.weir.pinned) (fun s =>
    let w := s.weir
    let o := oppOf w.opp
    let v := w.volts.getD rail 0
    let m := if 5 < slack then w.margin.getD rail 0 + 1 else 0
    let asked (x : Nat) : Nat := Nat.max o.vmin (Nat.min x o.vmax)
    let want := if slack < 0 then asked (v + 5) else if 10 ≤ m then asked (v - 5) else v
    s.setWeir (fun w => { w with volts := if w.mute.getD rail false then w.volts else w.volts.set rail want,
                                 margin := w.margin.set rail (if 10 ≤ m then 0 else m) })))

/-- A supply falls below VCRIT: the die's clocks stretch, and a pin ends. -/
def execDroopDetected (die : Nat) (s : State) : Host.Outcome State Fault Refusal :=
  s.run (fun s => s.when (decide (die < 6) && !s.weir.stretch.getD die true) (fun s =>
    ((s.setWeir (fun w => { w with stretch := w.stretch.set die true })).rateChanged).endPin 4))

/-- The stretch ends. -/
def execStretchEnd (die : Nat) (s : State) : Host.Outcome State Fault Refusal :=
  s.run (fun s => s.when (s.weir.stretch.getD die false) (fun s =>
    (s.setWeir (fun w => { w with stretch := w.stretch.set die false })).rateChanged))

/-- A regulator stops answering, or answers again. -/
def execRegulatorFault (rail : Nat) (starts : Bool) (s : State) : Host.Outcome State Fault Refusal :=
  s.run (fun s => s.when (decide (rail < 6) && s.weir.mute.getD rail false != starts) (fun s =>
    (s.setWeir (fun w => { w with mute := w.mute.set rail starts })).eventPF 0x0804 rail stOk (s.weir.volts.getD rail 0) starts.toNat))

/-! ### Placement adaptation (R527) -/

/-- A bound tile and its block's spare change places while the partition has no launch. -/
def execPlacementAdaptation (part ltile : Nat) (s : State) : Host.Outcome State Fault Refusal :=
  s.run (fun s =>
    let p := s.part part
    let ph := p.bind.getD ltile 256
    match p.spares.find? (fun t => t / 16 == ph / 16) with
    | none => s
    | some sp =>
      let idle := (s.launches.all (fun l => l.part != part)) && s.packets.all (fun k => s.queuePart k.queue != part || pType k.words != 1)
      s.when (p.held && idle && decide (ltile < p.bind.length) && !s.weir.pinned) (fun s =>
        (s.setPart part { p with bind := p.bind.set ltile sp, spares := p.spares.map (fun t => if t = sp then ph else t) }).eventBoth
          part 0x0104 part stOk p.bind.length 0))

end Sys2Proof.Machine
end

