-- ==== Sys2Proof/Machine/Boot.lean ====
section
/-! DEFINITION. Resets and bring-up (R587, R592, R597 to R608): the whole-device resets, the boot ROM, the bring-up stages, the PCIe
port. -/

namespace Sys2Proof.Machine

/-! ### Resets (R587, R592, R597) -/

/-- A bank that a reset catches while FW_STAGE writes it is left with a part of the image (R608). -/
def Flash.torn (f : Flash) (bank : Bool) (image : List Byte) (d : Nat) : Flash :=
  let part := Mem.setBytes [] 0 (image.take (d % Nat.max 1 image.length))
  if bank then { f with bank1 := part } else { f with bank0 := part }

namespace State

/-- What every whole-device reset leaves: flash, fuses, and what lies outside the device. `boot` is what the reset itself sets. -/
def wholeReset (s : State) (boot : Boot) : State :=
  let s0 := s.acts.foldl (fun s a => match a.kind with
    | .stage bank image => let d := s.draw; { d.2 with flash := d.2.flash.torn bank image d.1 }
    | _ => s) s
  { State.reset with
    fuses := s0.fuses, flash := s0.flash, hostMem := s0.hostMem, draws := s0.draws, pending := s0.pending,
    boot := { boot with prevfail := s0.boot.failed, prevclass := s0.boot.failclass } }

/-- A reset takes effect, by its CAUSE: 1 PORST#, which stays asserted; else a device reset, which keeps straps, FAIL# and THERMTRIP#. -/
def resetNow (s : State) (cause : BitVec 4) : State :=
  s.wholeReset (if cause = 1 then { cause := 1 } else
    { porst := false, railsOk := s.boot.railsOk, resample := s.boot.resample, straps := s.boot.straps,
      failPin := s.boot.failPin, thermtrip := s.boot.thermtrip, cause := cause,
      stage := if s.boot.railsOk && !s.boot.thermtrip then 1 else 0 })

/-- A reset arrives (R598). ACTIVE links freeze HEARTBEAT and go on for 16 marker periods, at whose end the reset takes effect; without one
it does at once. In those periods the device does nothing else. (DESIGN CHOICE, log entry 80) -/
def startReset (s : State) (cause : BitVec 4) : State :=
  if s.links.any (fun e => e.2.st == .active) then
    { s with boot := { s.boot with resetDue := some cause }, links := SMap.mapVals {} (fun _ l => l.lastPeriods .disabled) s.links }
  else s.resetNow cause

end State

/-- PORST# is asserted: FAIL# and THERMTRIP# are released (R592). It takes the place of a device reset that is under way. -/
def execPorstAssert (s : State) : Host.Outcome State Fault Refusal :=
  .next (s.when (!s.boot.porst) (fun s =>
    if s.boot.resetDue.isSome then { s with boot := { s.boot with resetDue := some 1 } } else s.startReset 1))

/-- Straps from their balls: TRACESEL, MA0, MA1, REFMODE, RECOVERY from bit 0 on (R581). -/
def Straps.sample (v : BitVec 10) : Straps :=
  { tracesel := v.getLsbD 0, ma0 := v.extractLsb' 1 3, ma1 := v.extractLsb' 4 3, refmode := v.extractLsb' 7 2, recovery := v.getLsbD 9 }

/-- PORST# is deasserted: straps are sampled, and with every rail within tolerance the boot ROM starts. Boundary scan ends (R593). -/
def execPorstDeassert (straps : BitVec 10) (rails : Bool) (s : State) : Host.Outcome State Fault Refusal :=
  .next (s.when s.boot.porst (fun s =>
    { s with boot := { s.boot with porst := false, railsOk := rails, straps := Straps.sample straps, stage := if rails then 1 else 0 },
             tap := { s.tap with drive := List.replicate 6 false, hiz := List.replicate 6 false, dr := List.replicate 6 [false] } }))

/-- Every rail has been within tolerance for 1 ms (R587). -/
def execRailToleranceReached (straps : BitVec 10) (s : State) : Host.Outcome State Fault Refusal :=
  .next (s.when (!s.boot.porst && !s.boot.railsOk && !s.boot.thermtrip) (fun s =>
    { s with boot := { s.boot with railsOk := true, stage := 1, resample := false,
                                   straps := if s.boot.resample then Straps.sample straps else s.boot.straps } }))

/-- A rail below its threshold acts as PORST# and is latched (R587, R607). -/
def execRailUndervoltage (rail : Nat) (s : State) : Host.Outcome State Fault Refusal :=
  .next (s.when (!s.boot.porst && s.boot.railsOk && decide (rail < 15)) (·.wholeReset
    { porst := false, resample := true, cause := 2, uvrail := BitVec.ofNat 4 rail }))

/-- A device reset: 3 PCIE_PERST#, 4 hot reset, 5 link down or PCIE_REFCLK lost. While THERMTRIP# is latched the device stays at stage
0x0 (R597). -/
def execDeviceReset (cause : Nat) (s : State) : Host.Outcome State Fault Refusal :=
  .next (s.when (!s.boot.porst && s.boot.resetDue.isNone && (cause == 3 || cause == 4 || cause == 5)) (·.startReset (BitVec.ofNat 4 cause)))

/-- A marker period starts (R400): the link sends a marker block on every lane, MCOUNT and HEARTBEAT advance, the peer's requests of the
last period are applied, and a sweep goes on (R408). `corrected`: FEC words corrected in it (R422). A link of a device that has failed or
is being reset sends its last periods with HEARTBEAT frozen (R420, R496, R598). -/
def execMarkerPeriod (link corrected : Nat) (s : State) : Host.Outcome State Fault Refusal :=
  .next (s.when (linkOk link) (fun s =>
    let l := s.link link
    if l.dying != 0 then s.lastPeriod link State.resetNow
    else s.when (s.linksUp && l.marking) (fun s =>
      let d := s.draw
      let l1 : Link := { (l.equalise).sweepPeriod with mcount := l.mcount + 1, beat := l.beat + 1,
                                                        fecs := BitVec.ofNat 64 (sat64 l.fecs.toNat corrected) }
      d.2.setLink link (l1.sendBlocks link s.devid false (eqAsk l d.1)))))

/-- The PCIe port has trained; it serves configuration space (R604). -/
def execPcieLinkUp (s : State) : Host.Outcome State Fault Refusal :=
  .next (s.when (!s.boot.porst && decide (1 ≤ s.boot.stage.toNat)) (fun s => { s with boot := { s.boot with pcieUp := true } }))

/-! ### The boot ROM (R600, R601) -/

/-- A firmware image as the bank holds it: IMGLEN bytes. -/
def fwImage (bank : Mem) : List Byte := bank.bytes 0 (Nat.min (leNat (bank.bytes 12 4)) bankSize)
def fwJetOff (b : List Byte) : Nat := pkWord b 4
def fwJetLen (b : List Byte) : Nat := pkWord b 5
/-- The standard Jet set image that it holds. -/
def fwJet (b : List Byte) : JetImage := (b.drop (fwJetOff b)).take (fwJetLen b)

/-- The Jet set passes the checks of R190, signed by Kelkuen. -/
def fwJetOk (b : JetImage) : Bool :=
  decide (168 ≤ b.length) && decide (b.length ≤ 96 * 1024) && b.formOk && State.signedBy b Config.jetKey
    && decide (1 ≤ b.nslot) && decide (b.nslot ≤ 256) && decide (b.nconst ≤ 256) && b.w 4 == b.length
    && b.programs.all b.inside && decide (b.poolOff + 16 * b.nconst + 96 ≤ b.length)

/-- The boot ROM accepts an image (R601). -/
def fwAccepted (f : Fuses) (bank : Mem) : Bool :=
  let b := fwImage bank
  let w (i : Nat) : Nat := pkWord b i
  decide (160 ≤ w 3) && decide (w 3 ≤ bankSize) && w 0 == 0x4B46_5749
    && w 2 / 2 ^ 24 == 0 && (List.range 10).all (fun i => w (6 + i) == 0)
    && decide (64 ≤ fwJetOff b) && decide (fwJetOff b + fwJetLen b + 96 ≤ w 3)
    && bits (w 2) 16 8 == f.stepping.toNat / 256 && decide (f.minSvn.toNat ≤ w 2 % 65536)
    && State.signedBy b Config.firmwareKey && fwJetOk (fwJet b)

namespace State

/-- The bank tried first, and whether the strap changed it (R601). -/
def firstBank (s : State) : Bool × Bool :=
  let turned := s.boot.straps.recovery && s.flash.desc.isSome
  (s.flash.selected != turned, turned)

/-- The bank at this attempt. -/
def bankTried (s : State) : Bool := if s.boot.tried = 0 then s.firstBank.1 else !s.firstBank.1

end State

/-- The boot ROM verifies the next bank: it boots it, tries the other, or gives up (R601). -/
def execBootImageVerify (s : State) : Host.Outcome State Fault Refusal :=
  .next (s.when (s.boot.stage == 1 && !s.boot.porst) (fun s =>
    let b := s.bankTried
    let img := s.flash.bank b
    if fwAccepted s.fuses img then
      let bs := fwImage img
      { s with boot := { s.boot with
          stage := 2, fwbank := b, fwver := BitVec.ofNat 32 (pkWord bs 1), svn := BitVec.ofNat 16 (pkWord bs 2), fwdig := sha384 bs,
          recovery := s.boot.tried != 0 || s.firstBank.2 } }
    else if s.boot.tried = 0 then { s with boot := { s.boot with tried := 1 } }
    else { s with boot := { s.boot with stage := 0xF } }))

/-! ### Bring-up (R602 to R606) -/

namespace State

/-- A unit that failed at bring-up (R606). -/
def badUnit (s : State) (kind index : Nat) (part : Option Nat) : State :=
  s.report { cls := 0x0A, severity := 3, kind := kind, index := index, part := part, action := 6 }

/-- Stage 0x2: the pairs start, persistent state and the security region are read, EPOCH advances. -/
def stagePairs (s : State) (north south : Bool) : State :=
  let e := s.flash.epoch + 1
  let s1 : State := { s with
    flash := { s.flash with epoch := e },
    rel := { s.rel with log := s.flash.faults },
    boot := { s.boot with activePair := !north, epoch := e,
                          secDamaged := !s.flash.hmacOk || s.flash.ownerCtr != s.fuses.ownerCtr,
                          stage := if north || south then 3 else 0xF } }
  if north then s1 else s1.badUnit 5 0 none

/-- Stage 0x3: HBM is trained and zero-filled; both stacks of a die go where one fails. -/
def stageHbm (s : State) (failed : BitVec 8) : State :=
  let off (i : Nat) : Bool := failed.getLsbD (i / 2 * 2) || failed.getLsbD (i / 2 * 2 + 1)
  let mask := (List.range 8).foldl (fun n i => if off i then n + 2 ^ i else n) 0
  ((List.range 8).filter (fun i => failed.getLsbD i)).foldl (fun s i => s.badUnit 1 i (some 0))
    { s with hbm := [], rel := { s.rel with badHbm := [], scrubHbm := 8 }, boot := { s.boot with hbmoff := BitVec.ofNat 8 mask, stage := 4 } }

/-- Stage 0x4: every link starts to train. -/
def stageLinks (s : State) : State :=
  let s1 := (List.range 32).foldl (fun s n => s.modLink n (·.detect false)) s
  { s1 with boot := { s1.boot with stage := 5 } }

/-- A tile as the self-test leaves it. -/
def testTile (s : State) (ph : Nat) : State :=
  let gone := s.fuses.arrays.contains ph || s.flash.disabled.contains ph || s.flash.retired.contains ph
  s.setTile ph { repair := SMap.get (0x7F, 0x7F) s.flash.repairs ph, arrayOn := !gone }

/-- The standard Jet set of the booted image (R190, R605). -/
def standardSet (b : JetImage) : JetSet :=
  let img := JetImage.set b
  { img with slots := (List.range 256).foldl (fun m i => if (stdJetSlot i).isSome then SMap.set none m i (stdJetSlot i) else m) img.slots }

/-- Stage 0x5: self-test of the tiles and of the standby pair; arrays and tiles that fail are recorded; the Jet set is written. -/
def stageTiles (s : State) (arrays tiles : List Nat) (standbyPasses : Bool) : State :=
  let off := s.fuses.arrays ++ s.flash.disabled ++ s.flash.retired
  let newArrays := (List.range 256).filter (fun t => arrays.contains t && !off.contains t)
  let newTiles := (List.range 256).filter (fun t => tiles.contains t && !s.flash.retired.contains t)
  let fl := { s.flash with disabled := newArrays.foldl (fun l t => insAsc t l) s.flash.disabled,
                           retired := newTiles.foldl (fun l t => insAsc t l) s.flash.retired }
  let s1 := (newArrays ++ newTiles).foldl (fun s t => s.badUnit 0 t (some 0)) { s with flash := fl, tiles := [], cst := [] }
  let s2 := (List.range 256).foldl testTile s1
  let img := fwJet (fwImage (s2.flash.bank s2.boot.fwbank))
  { s2 with jet := standardSet img,
            boot := { s2.boot with newdis := newArrays.length, jetdig := sha384 img, standbyOk := standbyPasses,
                                   stage := if s2.boot.recovery then 0xE else 6, tready := BitVec.ofNat 64 s2.time } }

/-- Stage 0x6: the state of R605, the security version of a bank that is no recovery boot (R602), and READY; IRQ_STATUS stays at its reset value.
(DEDUCED, log entry 58) -/
def stageReady (s : State) : State :=
  let up := !s.boot.recovery && decide (s.fuses.minSvn.toNat < s.boot.svn.toNat)
  let s1 : State := { s with
    parts := [(0, Part.whole)], dbOwner := (List.range 32).map (fun p => (p, some 0)), weir := {},
    fuses := if up then { s.fuses with minSvn := s.boot.svn } else s.fuses }
  let s2 := (s1.modFunc 0 (fun f => { f with bound := some 0 })).rebind 0
  { s2 with funcs := SMap.mapVals {} (fun _ f => { f with mbx := { f.mbx with ready := f.present } }) s2.funcs }

end State

/-- A bring-up stage ends and the next begins. `hbmFail`: HBM stacks that fail training; `arrays`, `tiles`: what fails the tiles' self-test;
`north`, `south`: the Cretharel pairs that pass theirs. (DEDUCED, log entry 59) -/
def execBringUpStage (hbmFail : BitVec 8) (arrays tiles : List Nat) (north south : Bool) (s : State) :
    Host.Outcome State Fault Refusal :=
  .next (s.when (!s.boot.porst && !s.boot.failed) (fun s =>
    match s.boot.stage.toNat with
    | 2 => s.stagePairs north south
    | 3 => s.stageHbm hbmFail
    | 4 => s.stageLinks
    | 5 => (s.stageTiles arrays tiles (if s.boot.activePair then false else south)).stageReady
    | _ => s))

end Sys2Proof.Machine
end

