-- ==== Sys2Proof/Machine/Cascade.lean ====
section
/-! DEFINITION. The Cascade engine's rows: SYNC_SIGNAL and the collective packets (R317, R442, R443), transit (R426, R430), remote
requests and their answers (R433 to R436), collective traffic (R446, R447, R450), JOIN and LOST (R439, R453). -/

namespace Sys2Proof.Machine

/-! ### SYNC_SIGNAL (R317) -/

/-- SYNC_SIGNAL: a local addition at once, or a remote request whose answer ends the packet. -/
def execSyncSignal (queue : Nat) (seq : BitVec 32) (s : State) : Host.Outcome State Fault Refusal :=
  s.run (fun s =>
    match s.frontPacket queue seq 3 with
    | none => s
    | some p =>
      let w4 := word p.words 4
      let remote := w4.testBit 15
      let dev := bits w4 16 12
      let value := word64 p.words 5
      let st := firstFail (s.headerChecks p ++
        [(!withinMasks p.words [0x7FF, m32, 0x7FFF, m32, 0x0FFF_FFFF, m32, m32] || (!remote && dev != 0), stBadOpcode),
         (!remote && !(s.part (s.queuePart queue)).hasSync (w4 % 2 ^ 15), stBadSync)])
      if st != stOk then s.finish queue seq st 0
      else if !remote then (s.syncAdd (w4 % 2 ^ 15) value).finish queue seq stOk 0
      else if s.canRequest dev then
        (s.modPacket queue seq (fun p => { p with work := .remote })).request dev 2 (w4 % 2 ^ 15) value []
          (.packet queue seq) queue
      else s)

/-! ### Collective packets (R442, R443, R449) -/

/-- What a range of a collective meets (R442): its address at all, then its end. -/
def State.collRange (s : State) (a : Agent) (da n : Nat) (write : Bool) : List (Bool × Word16) :=
  let sp := daSpace da
  [(4 ≤ sp || !s.allowed a da 1 write || (sp == 0 && decide (da + n ≤ 2 ^ 38) && !s.allowed a da n write), stNotPermitted),
   (if sp = 0 then decide (2 ^ 38 < da + n) else !s.allowed a da n write, stBadLength)]

/-- Two ranges of one space share a byte without being the same. -/
def crosses (a n b m : Nat) : Bool := meets a n b m && !(a == b && n == m)

/-- Every slot of a Cistern range lies in one OPEN group. -/
def oneOpenGroup (t : Tile) (sl n : Nat) : Bool :=
  t.groups.any (fun e => e.2.isOpen && decide (e.2.base ≤ sl) && decide (sl + n ≤ e.2.base + e.2.slots))

namespace State

/-- Bytes a collective reads at SRC and writes at DST of this member. -/
def collExtents (op count n me root : Nat) : Nat × Nat :=
  match op with
  | 0 => (128 * count, 128 * count)
  | 1 => (128 * count, if me = root then 128 * count else 0)
  | 2 => (if me = root then count else 0, count)
  | 3 => (count, n * count)
  | 4 => (128 * count, 128 * (count / n))
  | _ => (0, 0)

/-- The rules of R449 on an SMREDUCE: what its descriptor names, or a status;
ST_RESOURCE_BUSY stands for a read that waits for a stopped tile. (DEDUCED, log entry 47) -/
def smCheck (s : State) (a : Agent) (src dst count : Nat) : Word16 × Nat × Nat × Nat :=
  let differ : Bool × Word16 := (src != dst, stConflict)
  if daSpace src ≠ 1 then (stNotPermitted, 0, 0, 0)
  else match s.load a src 16 with
    | .error (.status st) => (firstFail [(true, st), differ], 0, 0, 0)
    | .error .held => (stBusy, 0, 0, 0)
    | .ok (_, bs) =>
      let w (i : Nat) := leNat ((bs.drop (4 * i)).take 4)
      let row0 := bits (w 0) 0 9
      let rows := bits (w 0) 9 10
      let cols := bits (w 1) 0 8
      match s.tileOf a src with
      | none => (stNotPermitted, 0, 0, 0)
      | some ph =>
        let t := s.tile ph
        let st := firstFail [differ,
          (bits (w 0) 19 13 != 0 || bits (w 1) 8 24 != 0 || w 2 != 0 || w 3 != 0, stBadOpcode),
          (rows == 0 || decide (512 < rows) || cols == 0 || decide (128 < cols) || count != rows * (cols + 1), stBadLength),
          (decide (rowStates < row0 + rows) || (List.range rows).any (fun i =>
            !t.rowBound (row0 + i) || (t.group (t.row (row0 + i)).ogrp.toNat).cols != cols), stConflict)]
        (st, row0, rows, cols)

/-- A COLLECTIVE packet: checked in the order of R14, then it waits for its turn in its communicator. -/
def collPacket (s : State) (queue : Nat) (seq : BitVec 32) (op : Nat) : State :=
  match s.frontPacket queue seq 6 with
  | none => s
  | some p =>
    let ws := p.words
    if bits (word ws 4) 8 4 ≠ op then s
    else
      let part := s.queuePart queue
      let a : Agent := { part := part, fn := (s.queue queue).owner }
      let i := word ws 4 % 256
      let root := bits (word ws 4) 12 12
      let src := addr48 ws 5
      let dst := addr48 ws 7
      let count := word ws 9
      let cm := if (s.part part).hasComm i then s.comm i else none
      let n := match cm with | some c => c.nmem | none => 1
      let me := match cm with | some c => c.own | none => none
      let isRoot := me == some root
      let red := opReduces op
      let zeros : Bool :=
        (root == 0 || op == 1 || op == 2) && (op != 5 || (src == 0 && dst == 0 && count == 0))
          && (op != 1 || isRoot || me.isNone || dst == 0) && (op != 2 || isRoot || me.isNone || src == 0)
      let ext := collExtents op count n (me.getD 0) root
      let first := s.headerChecks p ++
        [(!withinMasks ws [0x7FF, m32, 0x7FFF, m32, 0x00FF_FFFF, m32, 0xFFFF, m32, 0xFFFF, m32] || !zeros, stBadOpcode),
         (!(s.part part).hasComm i, stNotPermitted)]
      if count = 0 ∧ op ≠ 5 then s.finish queue seq (firstFail first) 0
      else
        let useDst := ext.2 != 0 && !(op == 2 && dst == 0)
        let sm := if op = 6 then s.smCheck a src dst count else (stOk, 0, 0, 0)
        let ranges := if op = 5 then [] else
          (if ext.1 = 0 then [] else s.collRange a src ext.1 false) ++ (if useDst then s.collRange a dst ext.2 true else [])
        let slotsOk : Bool :=
          if red && op != 6 && useDst && daSpace dst == 2 then
            (match s.cisternAt a dst with
             | some (t, sl) => oneOpenGroup (s.tile t) sl (ext.2 / 128)
             | none => true)
          else true
        let st := firstFail (first ++ ranges ++
          [(!red && op != 5 && (daSpace dst == 2 && useDst), stNotPermitted),
           (red && (src % 128 != 0 || (useDst && dst % 128 != 0)), stBadAlign),
           ((cm.isSome && decide (n ≤ root)) || (op == 4 && count % n != 0)
             || (red && (match cm with | some c => decide (c.stageLen * 65536 - 2 ^ 20 < 96 * count) | none => false)), stBadLength),
           (cm.isNone || me.isNone || (useDst && ext.1 != 0 && crosses src ext.1 dst ext.2) || !slotsOk, stConflict),
           (sm.1 != stOk, sm.1)])
        if sm.1 = stBusy ∧ st ≠ stBadOpcode then s
        else if st != stOk then s.finish queue seq st 0
        else match cm with
          | none => s.finish queue seq stConflict 0
          | some c =>
            if c.st = .broken then s.finish queue seq stLinkDown 0
            else
              let k : Coll := { queue := queue, seq := seq, op := op, root := root, count := count, src := src, dst := dst,
                                row0 := sm.2.1, rows := sm.2.2.1, cols := sm.2.2.2 }
              ((s.modPacket queue seq (fun p => { p with work := .coll })).setComm i (some { c with colls := c.colls ++ [k] })).collRun i

end State

/-- ALLREDUCE. -/
def execAllreduce (queue : Nat) (seq : BitVec 32) (s : State) : Host.Outcome State Fault Refusal := s.run (·.collPacket queue seq 0)
/-- REDUCE. -/
def execReduce (queue : Nat) (seq : BitVec 32) (s : State) : Host.Outcome State Fault Refusal := s.run (·.collPacket queue seq 1)
/-- BROADCAST. -/
def execBroadcast (queue : Nat) (seq : BitVec 32) (s : State) : Host.Outcome State Fault Refusal := s.run (·.collPacket queue seq 2)
/-- ALLGATHER. -/
def execAllgather (queue : Nat) (seq : BitVec 32) (s : State) : Host.Outcome State Fault Refusal := s.run (·.collPacket queue seq 3)
/-- REDUCESCATTER. -/
def execReducescatter (queue : Nat) (seq : BitVec 32) (s : State) : Host.Outcome State Fault Refusal :=
  s.run (·.collPacket queue seq 4)
/-- BARRIER. -/
def execBarrier (queue : Nat) (seq : BitVec 32) (s : State) : Host.Outcome State Fault Refusal := s.run (·.collPacket queue seq 5)
/-- SMREDUCE. -/
def execSmreduce (queue : Nat) (seq : BitVec 32) (s : State) : Host.Outcome State Fault Refusal := s.run (·.collPacket queue seq 6)

/-! ### Arrivals -/

namespace State

/-- An arrived packet of a type that is addressed to this device. -/
def arrival? (s : State) (i ptype : Nat) : Option (List Byte) :=
  match s.arrivals[i]? with
  | some a => if s.devid = some (BitVec.ofNat 12 (pkDst a.data)) ∧ pkType a.data = ptype ∧ pkValid a.data = true then some a.data else none
  | none => none

/-- The packet leaves the engine's input. -/
def take (s : State) (i : Nat) : State := { s with arrivals := s.arrivals.eraseIdx i }

/-- An arriving packet of a type does something, and leaves the input. -/
def onArrival (s : State) (i ptype : Nat) (f : State → List Byte → State) : State :=
  match s.arrival? i ptype with
  | none => s
  | some p => f (s.take i) p

end State

/-- A packet for another device is forwarded, or found undeliverable (R426, R427, R430). Transit works in every bring-up stage in
which a link is ACTIVE, and in a device whose tiles are stopped. -/
def execPacketForward (arrival : Nat) (s : State) : Host.Outcome State Fault Refusal :=
  .next (match s.arrivals[arrival]? with
    | none => s
    | some a =>
      if s.devid = some (BitVec.ofNat 12 (pkDst a.data)) ∨ s.boot.failed then s
      else (s.take arrival).forward a.data a.level a.link.isNone)

/-- An arriving WRITE. -/
def execRemoteWrite (arrival : Nat) (s : State) : Host.Outcome State Fault Refusal :=
  s.run (·.onArrival arrival 0x01 (fun s p => s.takeRequest p))

/-- An arriving SIGNAL. -/
def execRemoteSignal (arrival : Nat) (s : State) : Host.Outcome State Fault Refusal :=
  s.run (·.onArrival arrival 0x02 (fun s p => s.takeRequest p))

/-- An arriving ACK ends the request it answers (R433, R436); one that answers no request of this boot does nothing. -/
def execAck (arrival : Nat) (s : State) : Host.Outcome State Fault Refusal :=
  s.run (·.onArrival arrival 0x10 (fun s p =>
    if !knownStatus (BitVec.ofNat 16 (pkWord p 4)) then s.noteReject p stOk
    else match s.reqs.find? (fun r => r.dst == pkSrc p && r.seq.toNat == pkParam p && pkWord p 5 == s.boot.epoch.toNat) with
    | some r => s.endRequest r (BitVec.ofNat 16 (pkWord p 4))
    | none => s))

/-- An arriving NOTICE ends the operation with ST_LINK_DOWN (R427, R436). A NOTICE names a request by its SEQ alone, and a
collective by its instance alone: among several, which one it means is free; and one without an EPOCH may concern an ACK, a JOIN or a
LOST, for which no operation waits. (DESIGN CHOICE, log entry 48) -/
def execNotice (arrival : Nat) (s : State) : Host.Outcome State Fault Refusal :=
  s.run (·.onArrival arrival 0x11 (fun s p =>
    if pkWord p 5 ≠ 0 then
      let rs := s.reqs.filter (fun r => r.seq.toNat == pkParam p && pkWord p 5 == s.boot.epoch.toNat)
      let d := s.draw
      match rs[d.1 % rs.length]? with
      | some r => d.2.endRequest r stLinkDown
      | none => s
    else
      let ks := s.comms.flatMap (fun e => match e.2 with
        | some c => (c.colls.filter (fun k => (k.ph == .up || k.ph == .down) && k.inst == pkParam p)).map (e.1, ·)
        | none => [])
      let d := s.draw
      match ks[d.1 % (ks.length + 1)]? with
      | some (i, k) => (d.2.endColl i k stLinkDown).collRun i
      | none => d.2))

/-! ### Remote requests over time (R436) -/

/-- An unanswered request is sent again with the same SEQ, over the routes in force now. -/
def execRemoteResend (dst : Nat) (seq : BitVec 32) (s : State) : Host.Outcome State Fault Refusal :=
  s.run (fun s =>
    match s.reqs.find? (fun r => r.dst == dst && r.seq == seq) with
    | none => s
    | some r =>
      let r1 : RemReq := { r with last := s.time, via := s.outLink r.data, lost := false }
      { s with reqs := s.reqs.map (fun x => if x = r then r1 else x) }.forward r.data 0 true)

/-- A request unanswered for 1 ms: its operation ends with ST_LINK_DOWN (R436), or with ST_REPLAY_EXHAUSTED where the link that
carried it went DOWN for that cause (R419). -/
def execRemoteGiveUp (dst : Nat) (seq : BitVec 32) (s : State) : Host.Outcome State Fault Refusal :=
  s.run (fun s =>
    match s.reqs.find? (fun r => r.dst == dst && r.seq == seq) with
    | none => s
    | some r => s.endRequest r (if r.exhausted then stReplay else stLinkDown))

/-! ### Collective traffic (R446, R447, R450, R453) -/

/-- What to do with a packet of a collective: drop it, leave it where it is (a later GEN, an instance not yet begun), or use it. -/
inductive CollMatch where
  | drop
  | hold
  | use (i : Nat) (c : Comm) (k : Coll)
  deriving DecidableEq, Repr

namespace State

def matchColl (s : State) (p : List Byte) : CollMatch :=
  match s.commOf (pkWord p 4) with
  | none => .drop
  | some (i, c) =>
    if cbGen p < c.gen then .drop
    else if c.gen < cbGen p then .hold
    else match c.colls.find? (fun k => k.ph != .waiting && k.inst == pkParam p && (k.ph != .finished || cbN p == 0)) with
      | some k => .use i c k
      | none => if c.st = .broken then .drop else if c.st ≠ .ready ∨ c.next ≤ pkParam p then .hold else .drop

/-- A packet of a collective, used, dropped or left in the input. -/
def onColl (s : State) (arrival ptype : Nat) (f : State → List Byte → Nat → Comm → Coll → State) : State :=
  match s.arrival? arrival ptype with
  | none => s
  | some p =>
    match s.matchColl p with
    | .drop => s.take arrival
    | .hold => s
    | .use i c k => f (s.take arrival) p i c k

/-- Members disagree about an instance (R450): the up phase stops, rank 0 learns of it, and every member ends with ST_CONFLICT. -/
def disagree (s : State) (p : List Byte) (i : Nat) (c : Comm) (k : Coll) : State :=
  let me := c.own.getD 0
  if me = 0 then
    (((k.children c 0).foldl (fun s r => s.sendColl c k r (if k.op = 5 then 0x23 else 0x21) 0 0 stConflict []) s).endColl
      i k stConflict).collRun i
  else
    let s1 := s.modColl i k (fun x => { x with sent := 0 :: (x.chunks c.nmem).map (·.1) })
    match c.devOf (k.parent c me) with
    | none => s1
    | some d =>
      s1.originate d 2 (pkType p) (pkParam p)
        (collBlock c.cid.toNat c.gen (cbOp p) (cbRoot p) (cbCount p) (cbFirst p) (cbN p) stOk me ++ p.drop 48)

/-- A packet agrees with this device's own instance. -/
def agrees (p : List Byte) (k : Coll) : Bool := cbOp p == k.op && cbRoot p == k.root && cbCount p == k.count

/-- An outcome other than R passes down the tree (R450, R455). -/
def downStatus (s : State) (i : Nat) (c : Comm) (k : Coll) (ptype : Nat) (st : Word16) : State :=
  (((k.children c (c.own.getD 0)).foldl (fun s r => s.sendColl c k r ptype 0 0 st []) s).endColl i k st).collRun i

end State

/-- An arriving up-phase chunk: merged in its place, or a DONE marker at rank 0. -/
def execCollUp (arrival : Nat) (s : State) : Host.Outcome State Fault Refusal :=
  s.run (·.onColl arrival 0x20 (fun s p i c k =>
    if cbN p = 0 ∧ k.op ≠ 5 ∧ c.own = some 0 ∧ State.agrees p k then
      let k1 := { k with ranks := insAsc (cbRank p) k.ranks }
      (s.modColl i k (fun x => { x with ranks := insAsc (cbRank p) x.ranks })).dropResult i k1
    else if k.ph ≠ .up then s
    else if !State.agrees p k then s.disagree p i c k
    else if !(k.chunks c.nmem).contains (cbFirst p, cbN p) || !(k.children c (c.own.getD 0)).contains (cbRank p)
        || k.kids.any (fun x => x.1 == cbRank p && x.2.1 == cbFirst p) then s
    else match unwireChunk k.op (cbN p) (p.drop 48) with
      | none => s
      | some d => (s.modColl i k (fun x => { x with kids := x.kids ++ [(cbRank p, cbFirst p, d)] })).collRun i))

/-- An arriving down-phase chunk: passed on and kept; the last one lets this member deliver. -/
def execCollDown (arrival : Nat) (s : State) : Host.Outcome State Fault Refusal :=
  s.run (·.onColl arrival 0x21 (fun s p i c k =>
    if k.ph == .finished then s
    else if !knownStatus (cbStatus p) then s.noteReject p stOk
    else if cbStatus p != stOk then (if k.ph = .up then s.downStatus i c k 0x21 (cbStatus p) else s)
    else if !State.agrees p k || !(k.chunks c.nmem).contains (cbFirst p, cbN p) || k.done.contains (cbFirst p) then s
    else match unwireChunk k.op (cbN p) (p.drop 48) with
      | none => s
      | some d => (s.downChunk i k (cbFirst p, cbN p) d).collRun i))

/-- An arriving barrier arrival. -/
def execBarUp (arrival : Nat) (s : State) : Host.Outcome State Fault Refusal :=
  s.run (·.onColl arrival 0x22 (fun s p i c k =>
    if k.ph ≠ .up then s
    else if !State.agrees p k then s.disagree p i c k
    else (s.modColl i k (fun x => { x with ranks := insAsc (cbRank p) x.ranks })).collRun i))

/-- An arriving barrier release, or its outcome. -/
def execBarDown (arrival : Nat) (s : State) : Host.Outcome State Fault Refusal :=
  s.run (·.onColl arrival 0x23 (fun s p i c k =>
    if !knownStatus (cbStatus p) then s.noteReject p stOk
    else if k.ph = .up then s.downStatus i c k 0x23 (cbStatus p) else s))

/-- A child sends again what its parent has not acknowledged (R446). -/
def execChunkResend (comm : Nat) (s : State) : Host.Outcome State Fault Refusal :=
  s.run (fun s =>
    match s.comm comm with
    | none => s
    | some c =>
      match c.front, c.own with
      | some k, some me =>
        if k.ph ≠ .up ∨ me = 0 then s else s.resendUp c k
      | _, _ => s)

/-- The oldest collective whose down phase has not begun reaches CTIMEOUT (R450). One that never began still counts as an instance. -/
def execCtimeoutExpiry (comm : Nat) (s : State) : Host.Outcome State Fault Refusal :=
  s.run (fun s =>
    match s.comm comm with
    | none => s
    | some c =>
      match c.colls.find? (fun k => k.ph == .waiting || k.ph == .up) with
      | none => s
      | some k =>
        let s1 := if k.ph = .waiting ∧ c.st = .ready then s.setComm comm (some { c with next := c.next + 1 }) else s
        (s1.endColl comm k stTimeout).collRun comm)

/-! ### JOIN and LOST (R439, R453) -/

namespace State

/-- A descriptor digest differs (R439): the communicator is BROKEN here, and its neighbours in the tree learn of it. -/
def joinMismatch (s : State) (i : Nat) (c : Comm) (from_ digest : Nat) : State :=
  let near := (c.joinTo.toList ++ (match c.own with
    | some r => (c.childrenOf r).filterMap c.devOf ++ (if r = 0 then c.idle else [])
    | none => [])).filter (fun d => d != from_)
  let s1 := (s.commEnter i c .broken 0 0 true).endColls i stLinkDown (fun _ => true)
  near.foldl (fun s d => s.sendJoin c d digest) s1

/-- An arriving JOIN. -/
def takeJoin (s : State) (p : List Byte) (i : Nat) (c : Comm) : State :=
  let from_ := pkSrc p
  if c.st = .broken then s
  else if cbCount p ≠ c.digest32 then s.joinMismatch i c from_ (cbCount p)
  else if c.joinTo = some from_ then
    (if c.st = .ready then s
     else ((s.commEnter i { c with next := 0 } .ready 0 0 false).joinDown c).collRun i)
  else if c.st = .ready then s.sendJoin c from_ c.digest32
  else ((s.setComm i (some { c with joined := insAsc from_ c.joined })).joinStep i).collRun i

end State

/-- An arriving JOIN: discarded where its communicator is not created here, held for a later GEN. -/
def execJoin (arrival : Nat) (s : State) : Host.Outcome State Fault Refusal :=
  s.run (fun s =>
    match s.arrival? arrival 0x30 with
    | none => s
    | some p =>
      match s.commOf (pkParam p) with
      | none => s.take arrival
      | some (i, c) =>
        if cbGen p < c.gen then s.take arrival
        else if c.gen < cbGen p then s
        else (s.take arrival).takeJoin p i c)

/-- A sender of JOIN sends it again while the exchange is not over (R439). -/
def execJoinResend (comm : Nat) (s : State) : Host.Outcome State Fault Refusal :=
  s.run (fun s =>
    match s.comm comm with
    | none => s
    | some c =>
      match c.joinTo with
      | some d => if (c.st = .forming ∨ c.st = .remapping) ∧ c.joinSent then s.sendJoin c d c.digest32 else s
      | none => s)

/-- An arriving LOST (R453): one for a rank already lost is ignored, unless it names the standby that took that rank, whose own loss R454
counts. (DEDUCED, log entry 47) -/
def execLost (arrival : Nat) (s : State) : Host.Outcome State Fault Refusal :=
  s.run (·.onArrival arrival 0x31 (fun s p =>
    match s.commOf (pkWord p 4) with
    | none => s
    | some (i, _) => s.commLoss i (pkParam p % 4096) (cbRank p)))

end Sys2Proof.Machine
end

