-- ==== Sys2Proof/Machine/MbxQueues.lean ====
section
/-! DEFINITION. The queue and sync group of mailbox commands (R363, R364): queues (R302, R306, R307, R312), context size (R318), sync
objects (R325, R326, R328), sequence slots (R330, R331). -/

namespace Sys2Proof.Machine

/-! ### Queue contexts (R302, R306, R307) -/

/-- The context fields of a request from word 9. -/
def ctxQueue (t : Taken) : Queue :=
  let w (i : Nat) := t.w (9 + i)
  { qtype := w 0 % 4, log2 := bits (w 0) 2 5, prio := bits (w 0) 8 2, haltOnErr := (w 0).testBit 10,
    base := w 1 + 2 ^ 32 * (w 2 % 65536), cq := w 3 % 2 ^ 14, dlq := bits (w 3) 16 14, dlv := (w 3).testBit 30, vector := w 4 % 2048,
    vecv := (w 4).testBit 11, coalcnt := bits (w 4) 16 8, coaltime := w 5 % 65536 }

/-- The context of a queue (R306). -/
def Queue.context (q : Queue) : List Nat :=
  [q.qtype + 4 * q.log2 + 256 * q.prio + 1024 * q.haltOnErr.toNat + 4096 * q.st.code, q.base % 2 ^ 32, q.base / 2 ^ 32,
   q.cq + 65536 * q.dlq + 2 ^ 30 * q.dlv.toNat, q.vector + 2048 * q.vecv.toNat + 65536 * q.coalcnt, q.coaltime, q.pktseq.toNat, 0]

def ctxMasks : List Nat := [0x3FFF, 0x77F, m32, 0xFFFF, 0x7FFF_3FFF, 0x00FF_0FFF, 0xFFFF, 0, 0]

namespace State

/-- A created queue of a type and a function. -/
def isQueue (s : State) (q type fn : Nat) : Bool :=
  let c := s.queue q
  c.created && c.qtype == type && c.owner == fn

/-- A context is valid (R302, R306, R307). `owner` is the function whose queue it is. -/
def ctxChks (s : State) (c : Queue) (owner part : Nat) : List Chk :=
  let bytes := 64 * 2 ^ c.log2
  [(decide (c.log2 < 4) || decide (20 < c.log2), stBadOpcode, 9),
   (!s.readable { part := part, fn := owner } c.base bytes (c.qtype != 0), stNotPermitted, 10),
   (c.qtype == 0 && (!s.isQueue c.cq 1 owner || (c.dlv && !s.isQueue c.dlq 2 owner)), stBadQueue, 12),
   (c.base % Nat.min bytes 4096 != 0, stBadAlign, 10),
   (c.vecv && decide (vectorsOf owner ≤ c.vector), stBadLength, 13)]

/-- A queue outside the partition, or not created (R13, R348); `sub`: of another type than submission. -/
def queueChk (s : State) (t : Taken) (part : Nat) (sub : Bool) : Chk :=
  let q := t.w 8 % 2 ^ 14
  (!(s.part part).hasPage (q / 512) || !(s.queue q).created || (sub && (s.queue q).qtype != 0), stBadQueue, 8)

/-- Packets of a queue that have been dispatched and are not complete. -/
def running (s : State) (q : Nat) : Bool := s.packets.any (fun p => p.queue == q)

end State

/-- Q_CREATE. -/
def execQCreate (fn : Nat) (s : State) : Host.Outcome State Fault Refusal :=
  s.run (·.command fn (fun _ => { op := 0x0200, who := .part, plen := 36, masks := ctxMasks }) (fun _ => true)
    (fun s t part =>
      let q := t.w 8
      let c := ctxQueue t
      s.ctxChks c t.fn part ++
        [(!(s.part part).hasPage (q / 512) || s.pageOwner (q / 512) != some t.fn, stBadQueue, 8),
         ((s.queue q).created, stConflict, 8), (c.qtype == 3 && (s.eventQueue t.fn).isSome, stConflict, 9)])
    (fun s t _ => (s.setQueue (t.w 8) { ctxQueue t with st := .active, owner := t.fn }, ok)))

/-- Q_MODIFY. -/
def execQModify (fn : Nat) (s : State) : Host.Outcome State Fault Refusal :=
  s.run (·.command fn (fun _ => { op := 0x0201, who := .part, plen := 36, masks := ctxMasks }) (fun _ => true)
    (fun s t part =>
      let q := s.queue (t.w 8)
      let c := ctxQueue t
      s.queueChk t part false :: s.ctxChks c q.owner part ++
        [(c.qtype != q.qtype || c.log2 != q.log2, stConflict, 9), (c.base != q.base, stConflict, 10),
         (q.qtype == 0 && s.running (t.w 8), stBusy, 8)])
    (fun s t _ =>
      let c := ctxQueue t
      (s.modQueue (t.w 8) (fun q => { q with
        prio := c.prio, haltOnErr := c.haltOnErr, cq := c.cq, dlq := c.dlq, dlv := c.dlv, vector := c.vector, vecv := c.vecv,
        coalcnt := c.coalcnt, coaltime := c.coaltime }), ok)))

namespace State

/-- Forget a queue; a saved launch of it can no longer be restored. -/
def dropQueue (s : State) (q : Nat) : State :=
  { s.setQueue q {} with launches := s.launches.filter (fun l => !(l.queue == q && l.ph == .suspended)),
                         saved := s.saved.filter (fun x => x.queue != q) }

/-- Another created queue names it as CQ or DLQ (R307). -/
def named (s : State) (q : Nat) : Bool :=
  s.queues.any (fun e => e.2.created && e.2.qtype == 0 && (e.2.cq == q || (e.2.dlv && e.2.dlq == q)))

end State

/-- Q_DESTROY (R307). -/
def execQDestroy (fn : Nat) (s : State) : Host.Outcome State Fault Refusal :=
  s.run (·.command fn (fun _ => { op := 0x0202, who := .part, plen := 4, masks := [0x3FFF] }) (fun _ => true)
    (fun s t part => [s.queueChk t part false, (s.named (t.w 8) || ((s.queue (t.w 8)).qtype == 0 && s.running (t.w 8)), stBusy, 8)])
    (fun s t _ => (s.dropQueue (t.w 8), ok)))

/-- Q_QUERY. -/
def execQQuery (fn : Nat) (s : State) : Host.Outcome State Fault Refusal :=
  s.run (·.query fn { op := 0x0203, who := .part, plen := 4, masks := [0x3FFF] } (fun s t part => [s.queueChk t part false])
    (fun s t _ => let q := s.queue (t.w 8); q.context ++ [q.hostIdx, q.devIdx]))

/-- Q_RESUME (R364). -/
def execQResume (fn : Nat) (s : State) : Host.Outcome State Fault Refusal :=
  s.run (·.command fn (fun _ => { op := 0x0204, who := .part, plen := 4, masks := [0x3FFF] }) (fun _ => true)
    (fun s t part => [s.queueChk t part true, ((s.queue (t.w 8)).st != .halted, stConflict, 8)])
    (fun s t _ => (s.modQueue (t.w 8) (fun q => { q with st := .active }), ok)))

/-! ### Aborts (R312) -/

namespace State

/-- A LAUNCH record (R474) as it reads after an abort: ST_ABORTED, and PARTIAL. -/
def abortedRecord (r : List Byte) : List Byte :=
  ((r.set 40 (BitVec.setWidth 8 stAborted)).set 41 0).set 47 (r.getD 47 0 ||| 0x80)

/-- The LAUNCH record of an aborted launch that still waits for space says so. -/
def abortRecords (s : State) (l : Launch) : State :=
  (s.modQueue (s.queue l.queue).dlq
    (fun q => { q with waiting := q.waiting.map (fun r => if l.records.contains r then abortedRecord r else r) })).modLaunch l.queue l.seq
    (fun x => { x with status := stAborted, records := x.records.map abortedRecord })

/-- A launch of an aborted packet: a running one ends under R134, one that waits ends unstarted, one that waited to be restored is
saved as before, and one whose records wait for space is aborted unless an error had stopped it first (R16, R475). -/
def abortLaunch (s : State) (l : Launch) : State :=
  match l.ph with
  | .running => s.endLaunch l stAborted 0 0 0
  | .waiting =>
    (match l.restore with
     | some (q, n) => (s.modLaunch l.queue l.seq (fun x => { x with ph := .suspended, restore := none })).finish q n stAborted 0
     | none => s.endUnstarted l stAborted)
  | .ended => if l.collected && goodStatus l.status then s.abortRecords l else s
  | .suspended => s

/-- A pre-emption that has not taken effect is withdrawn. -/
def cancelSave (s : State) (q : Nat) (seq : BitVec 32) : State :=
  match s.launches.find? (fun (l : Launch) => l.saving == some (q, seq)) with
  | some l =>
    let s1 := s.modLaunch l.queue l.seq (fun x => { x with saving := none })
    (s1.launchPhys l).foldl (fun s ph => s.modTile ph (fun t => { t with preempt := false, parked := false })) s1
  | none => s

/-- Abort one dispatched packet. -/
def abortPacket (s : State) (p : Packet) : State :=
  match p.work with
  | .done => s
  | .launch =>
    (match s.launches.find? (fun l => l.restore.getD (l.queue, l.seq) == (p.queue, p.seq)) with
     | some l => s.abortLaunch l
     | none => s.finish p.queue p.seq stAborted 0)
  | .dma => s.abortDma p.queue p.seq
  | .coll =>
    (match s.comms.findSome? (fun e => match e.2 with
        | some c => (c.colls.find? (fun k => k.queue == p.queue && k.seq == p.seq)).map (e.1, ·)
        | none => none) with
     | some (i, k) => s.endColl i k stAborted
     | none => s.finish p.queue p.seq stAborted 0)
  | .save =>
    (s.cancelSave p.queue p.seq).finish p.queue p.seq stAborted 0
  | .wait obj _ => s.finish p.queue p.seq stAborted (s.counter obj).toNat
  | .mark =>
    ((s.modQueue (s.queue p.queue).dlq
        (fun r => { r with waiting := r.waiting.filter (fun bs => bs != State.markRecord p) })).finish p.queue p.seq stAborted 0)
  | _ => s.finish p.queue p.seq stAborted 0

/-- The packets that an abort ends. -/
def abortable (s : State) (q : Nat) : List Packet := s.packets.filter (fun p => p.queue == q && p.work != .done)

/-- Abort a queue: dispatched packets end with ST_ABORTED, the rest are discarded (R312). -/
def abortQueue (s : State) (q : Nat) : State :=
  let s1 := (s.abortable q).foldl abortPacket s
  s1.modQueue q (fun c => { c with fetched := [], bells := [], devIdx := c.hostIdx, fetchErr := false, retries := 0 })

end State

/-- Q_ABORT. (DEDUCED, log entry 30) -/
def execQAbort (fn : Nat) (s : State) : Host.Outcome State Fault Refusal :=
  s.run (·.command fn (fun _ => { op := 0x0205, who := .part, plen := 4, masks := [0x3FFF] }) (fun _ => true)
    (fun s t part => [s.queueChk t part true])
    (fun s t _ =>
      let q := s.queue (t.w 8)
      (s.abortQueue (t.w 8), okWords [(s.abortable (t.w 8)).length, q.used + q.fetched.length])))

/-- CTX_SIZE (R318). -/
def execCtxSize (fn : Nat) (s : State) : Host.Outcome State Fault Refusal :=
  s.run (·.query fn { op := 0x0206, who := .part, plen := 4, masks := [0x7FFF] } (fun s t part => [s.queueChk t part true])
    (fun s t _ =>
      let n := match s.runningFrom (t.w 8 % 2 ^ 14) with
        | some l => ctxSize l ((t.w 8).testBit 14)
        | none => 0
      [n % 2 ^ 32, n / 2 ^ 32]))

/-! ### Sync objects (R325 to R329) -/

namespace State

/-- A waiter holds the object: a tile WAIT or a SYNC_WAIT whose target is not met, or an armed threshold (R325, R327). -/
def syncHeld (s : State) (i : Nat) : Bool :=
  s.tiles.any (fun e => e.2.running && (match e.2.wait with | some w => w.obj == i && !w.met | none => false))
  || s.packets.any (fun p => match p.work with | .wait o _ => o == i | _ => false)
  || s.arms.any (fun a => a.1 == i)

def disarm (s : State) (i : Nat) : State := { s with arms := s.arms.filter (fun a => a.1 != i) }
def syncChk (s : State) (t : Taken) (part : Nat) : Chk := (!(s.part part).hasSync (t.w 8 % 2 ^ 15), stBadSync, 8)

end State

def syncCmd (op : Nat) : Cmd := { op := op, who := .part, plen := 12, masks := [0x7FFF, m32, m32] }

/-- SYNC_RESET. -/
def execSyncReset (fn : Nat) (s : State) : Host.Outcome State Fault Refusal :=
  s.run (·.command fn (fun _ => syncCmd 0x0210) (fun _ => true)
    (fun s t part => [s.syncChk t part, (s.syncHeld (t.w 8), stBusy, 8)])
    (fun s t _ => (s.setCounter (t.w 8) (BitVec.ofNat 64 (t.w64 9)), ok)))

/-- SYNC_READ. -/
def execSyncRead (fn : Nat) (s : State) : Host.Outcome State Fault Refusal :=
  s.run (·.query fn { op := 0x0211, who := .part, plen := 4, masks := [0x7FFF] } (fun s t part => [s.syncChk t part])
    (fun s t _ => let v := (s.counter (t.w 8)).toNat; [v % 2 ^ 32, v / 2 ^ 32]))

/-- SYNC_SIGNAL of the mailbox (R326). -/
def execSyncSignalCmd (fn : Nat) (s : State) : Host.Outcome State Fault Refusal :=
  s.run (·.command fn (fun _ => syncCmd 0x0212) (fun _ => true) (fun s t part => [s.syncChk t part])
    (fun s t _ => (s.syncAdd (t.w 8) (t.w64 9), ok)))

def armCmd : Cmd := { op := 0x0213, who := .part, plen := 12, masks := [0xFFFF, m32, m32] }

/-- SYNC_ARM (R328, R364): it replaces a threshold armed on the object, and one already met fires at once. -/
def execSyncArm (fn : Nat) (s : State) : Host.Outcome State Fault Refusal :=
  s.run (·.command fn (fun _ => armCmd) (fun t => !(t.w 8).testBit 15) (fun s t part => [s.syncChk t part])
    (fun s t part =>
      let i := t.w 8 % 2 ^ 15
      let arm : Nat × Arm := (i, { fn := t.fn, threshold := BitVec.ofNat 64 (t.w64 9) })
      (({ s.disarm i with arms := (s.disarm i).arms ++ [arm] } : State).fireArms part i, ok)))

/-- SYNC_ARM with DISARM (R364). -/
def execSyncDisarm (fn : Nat) (s : State) : Host.Outcome State Fault Refusal :=
  s.run (·.command fn (fun _ => armCmd) (fun t => (t.w 8).testBit 15)
    (fun s t part => [s.syncChk t part, (t.w 9 != 0, stBadOpcode, 9), (t.w 10 != 0, stBadOpcode, 10)])
    (fun s t _ => (s.disarm (t.w 8 % 2 ^ 15), ok)))

/-! ### Sequence slots (R330, R331) -/

/-- A slot record from sixteen words. -/
def Slot.ofWords (w : Nat → Nat) : Slot :=
  { active := (w 0).testBit 0, seqid := BitVec.ofNat 64 (w 1 + 2 ^ 32 * w 2), pos := BitVec.ofNat 32 (w 3),
    maxpos := BitVec.ofNat 32 (w 4), stateaddr := BitVec.ofNat 48 (w 5 + 2 ^ 32 * w 6), ssync := BitVec.ofNat 15 (w 7),
    ssyncv := (w 7).testBit 15, launches := BitVec.ofNat 32 (w 8), user := (List.range 7).map (fun i => BitVec.ofNat 32 (w (9 + i))) }

/-- A launch that is not complete names a slot (R331). -/
def State.slotNamed (s : State) (i : Nat) : Bool := s.launches.any (fun l => l.slots.contains i)

/-- SLOT_WRITE. -/
def execSlotWrite (fn : Nat) (s : State) : Host.Outcome State Fault Refusal :=
  s.run (·.command fn
    (fun _ => { op := 0x0220, who := .part, plen := 68,
                masks := [0xFF, 1, m32, m32, m32, m32, m32, 0xFFFF, 0xFFFF, m32, m32, m32, m32, m32, m32, m32, m32] }) (fun _ => true)
    (fun s t part =>
      [(!(s.part part).hasSlot (t.w 8), stNotPermitted, 8),
       ((t.w 16).testBit 15 && !(s.part part).hasSync (t.w 16 % 2 ^ 15), stBadSync, 16), (s.slotNamed (t.w 8), stBusy, 8)])
    (fun s t _ => (s.setSlot (t.w 8) (Slot.ofWords (fun i => t.w (9 + i))), ok)))

/-- SLOT_READ. -/
def execSlotRead (fn : Nat) (s : State) : Host.Outcome State Fault Refusal :=
  s.run (·.query fn { op := 0x0221, who := .part, plen := 4, masks := [0xFF] }
    (fun s t part => [(!(s.part part).hasSlot (t.w 8), stNotPermitted, 8)]) (fun s t _ => (s.slot (t.w 8)).words))

end Sys2Proof.Machine
end

