-- ==== Sys2Proof/Machine/MbxTelemetry.lean ====
section
/-! DEFINITION. The telemetry group of mailbox commands (R371): counters (R557 to R561), snapshots (R563, R564), precise samples (R565 to
R567), latency histograms (R568, R569); and the refresh of HBM (R297). -/

namespace Sys2Proof.Machine

/-! ### Units and events (R557, R561) -/

/-- Units of a kind, and their programmable counters. -/
def unitCount (kind : Nat) : Nat := ([256, 32, 4, 8, 8, 32, 2, 1, 1] : List Nat).getD kind 0
def unitCtrs (kind : Nat) : Nat := if kind = 0 then 8 else if kind < 9 then 4 else 0
def unitOk (unit : Nat) : Bool := decide (unit % 4096 < unitCount (unit / 4096))

/-- The events of a kind of unit, each with its SUBMASK bits. -/
def unitEvents (kind : Nat) : List (Nat × Nat) :=
  match kind with
  | 0 => [(1, 0x7F), (2, 0x7F), (3, 0x7F), (4, 0), (5, 0), (6, 0), (7, 0), (8, 7), (9, 0), (0xA, 0), (0xB, 0), (0xC, 3), (0xD, 0),
          (0xE, 0xFF), (0xF, 0), (0x10, 0), (0x11, 0), (0x12, 0), (0x13, 0)]
  | 1 => [(1, 0xF), (2, 0xF), (3, 0xF), (4, 0xF), (5, 0xF)]
  | 2 => [(1, 0), (2, 0)]
  | 3 => [(1, 0), (2, 0)]
  | 4 => [(1, 0), (2, 0), (3, 0)]
  | 5 => [(1, 0xFF), (2, 0xFF), (3, 0xFF), (4, 0), (5, 0)]
  | 6 => [(1, 0), (2, 0), (3, 0)]
  | 7 => [(1, 0), (2, 0), (3, 0)]
  | 8 => [(1, 0), (2, 0), (3, 0)]
  | _ => []

/-- The SUBMASK bits of a listed event; none where it is not listed. -/
def eventMask (event : Nat) : Option Nat := ((unitEvents (event / 4096)).find? (fun e => e.1 == event % 4096)).map (·.2)

namespace State

/-- A requester may read a unit: the PF any, others their partition's tiles and engines. -/
def mayRead (s : State) (fn part unit : Nat) : Bool :=
  fn == 0 || (unit / 4096 == 0 && (s.part part).hasTile (unit % 4096)) || (unit / 4096 == 1 && (s.part part).hasEngine (unit % 4096))

/-- Cycles of a unit's clock since reset (R557, R558); `open_`: those of a bridge whose dies' clocks have parted. -/
def cyclesOf (s : State) (unit open_ : Nat) : Nat :=
  let i := unit % 4096
  let f (die : Nat) : Nat := s.tele.roots.getD die 0 / 4
  match unit / 4096 with
  | 0 => s.tele.aclk.getD (dieOf i) 0
  | 1 => f (i / 8)
  | 2 => f i
  | 3 => if s.tele.roots.all (· == s.tele.roots.headD 0) then f 0 else open_
  | 6 => f (4 + i)
  | _ => s.time

/-- Events that count cycles of waiting, or things that the manual counts and does not define: products and quire updates of a pass,
transfers, TLPs, and what each half of the Cascade engine does. -/
def openEvent (event : Nat) : Bool :=
  ([0x0002, 0x0003, 0x0005, 0x0006, 0x0007, 0x0008, 0x0009, 0x000A, 0x000B, 0x000E, 0x0013, 0x1004, 0x2001, 0x2002, 0x3001, 0x3002,
    0x5003, 0x6002, 0x6003, 0x8001, 0x8002] : List Nat).contains event

/-- The part of a free value that is a counter's own. -/
def openOf (unit ctr open_ : Nat) : Nat :=
  open_ / 2 ^ (64 * (if ctr = 0 then unit % 8 else 8 + unit / 4096 * 2400 + unit % 4096 * 9 + ctr))

/-- The value of a counter; one of an open event that has run since it was programmed has the value `open_`. -/
def ctrValue (s : State) (unit ctr open_ : Nat) : BitVec 64 :=
  let c : Ctr := SMap.get {} s.tele.ctrs (unit * 256 + ctr)
  if ctr = 0 then BitVec.ofNat 64 (s.cyclesOf unit open_) - c.value
  else if c.mode ≠ 0 ∧ openEvent c.event.toNat then BitVec.ofNat 64 open_ else c.value

end State

/-! ### Counters (R559, R560) -/

def ctUnit (t : Taken) : Nat := t.w 8 % 65536
def ctCtr (t : Taken) : Nat := bits (t.w 8) 16 8
def ctEvent (t : Taken) : Nat := t.w 9 % 65536
def ctMode (t : Taken) : Nat := bits (t.w 9) 16 2

/-- CTR_PROGRAM. -/
def execCtrProgram (fn : Nat) (s : State) : Host.Outcome State Fault Refusal :=
  s.run (·.command fn (fun _ => { op := 0x0600, who := .part, plen := 12, masks := [0xFF_FFFF, 0x3_FFFF, 0x1_FFFF] }) (fun _ => true)
    (fun s t part =>
      let k := ctUnit t / 4096
      let e := ctEvent t
      let none_ := e == 0 && ctMode t == 0
      [(!unitOk (ctUnit t) || ctCtr t == 0 || decide (unitCtrs k < ctCtr t), stBadOpcode, 8),
       (!none_ && (e / 4096 != k || (eventMask e).isNone), stBadOpcode, 9), (ctMode t == 3, stBadOpcode, 9),
       ((t.w 10 % 256 ||| (eventMask e).getD 0) != (eventMask e).getD 0,
         stBadOpcode, 10),
       ((t.w 10).testBit 16 && k != 0, stBadOpcode, 10),
       (!s.mayRead t.fn part (ctUnit t), stNotPermitted, 8)])
    (fun s t _ =>
      let c : Ctr :=
        { value := 0, mode := ctMode t, event := BitVec.ofNat 16 (ctEvent t), filter := BitVec.ofNat 32 (t.w 10) }
      ({ s with tele := { s.tele with ctrs := SMap.set {} s.tele.ctrs (ctUnit t * 256 + ctCtr t) c } }, ok)))

/-! ### Snapshots (R563, R564) -/

namespace State

/-- The units that a requester may read, in ascending order. -/
def readUnits (s : State) (fn part : Nat) : List Nat :=
  (List.range 9).flatMap (fun k => ((List.range (unitCount k)).map (fun i => k * 4096 + i)).filter (s.mayRead fn part))

def ctrEntries (s : State) (units : List Nat) (open_ : Nat) : List Nat :=
  units.flatMap (fun u => (List.range (unitCtrs (u / 4096) + 1)).flatMap (fun c =>
    let r : Ctr := SMap.get {} s.tele.ctrs (u * 256 + c)
    let v := (s.ctrValue u c (openOf u c open_)).toNat
    [u + 65536 * c + (if c = 0 then 0 else 2 ^ 24 * r.mode), if c = 0 then 0 else r.event.toNat, v % 2 ^ 32, v / 2 ^ 32]))

/-- Take up to `n` sample records of a partition's tiles, oldest first within each tile: the state without them, and their words. -/
def takeSamples (s : State) (part n : Nat) : State × List (List (BitVec 32)) :=
  ((List.range 256).filter (s.part part).hasTile).foldl (fun a ph =>
    let b := (a.1.tile ph).sampler.buffer
    let k := Nat.min b.length (n - a.2.length)
    if k = 0 then a
    else (a.1.modTile ph (fun t => { t with sampler := { t.sampler with buffer := b.drop k } }), a.2 ++ b.take k)) (s, [])

end State

/-- SNAPSHOT. -/
def execSnapshot (fn : Nat) (s : State) : Host.Outcome State Fault Refusal :=
  let need (s : State) (t : Taken) (part : Nat) : Nat :=
    64 + 16 * ((s.readUnits t.fn part).map (fun u => unitCtrs (u / 4096) + 1)).sum
  s.run (·.command fn (fun _ => { op := 0x0601, who := .part, plen := 12, masks := [m32, 0xFFFF, m32] }) (fun _ => true)
    (fun s t part =>
      let da := t.addr 8
      let n := t.w 10
      [(n != 0 && (!(daSpace da == 0 || daSpace da == 4) || !s.readable (cmdAgent t part) da (Nat.min n (need s t part)) true),
         stNotPermitted, 8),
       (n != 0 && da % 64 != 0, stBadAlign, 8), (n != 0 && decide (n < need s t part), stBadLength, 10)])
    (fun s t part =>
      if t.w 10 = 0 then (s, okWords [0])
      else
        let d := s.draw
        let units := d.2.readUnits t.fn part
        let entries := d.2.ctrEntries units d.1
        let smp := d.2.takeSamples part ((t.w 10 - need s t part) / 32)
        let gen := d.2.tele.snapgen + 1
        let more := ((List.range 256).filter (s.part part).hasTile).any (fun ph => !(smp.1.tile ph).sampler.buffer.isEmpty)
        let head := [0x534E_4150, gen.toNat, s.time % 2 ^ 32, s.time / 2 ^ 32 % 2 ^ 32, entries.length / 4, smp.2.length, more.toNat,
          0, 0, 0, 0, 0, 0, 0, 0, 0]
        let bs := wordsBytes (head ++ entries ++ smp.2.flatMap (fun r => r.map (·.toNat)))
        let s1 : State := { smp.1 with tele := { smp.1.tele with snapgen := gen } }
        (s1.storeOrLose (cmdAgent t part) (t.addr 8) bs, okWords [bs.length])))

/-! ### Samples (R290, R565 to R567) -/

namespace State

/-- The tiles that SAMPLE_CONFIG names. -/
def sampled (s : State) (part lt : Nat) : List Nat :=
  if lt = 0x1FF then (List.range 256).filter (s.part part).hasTile else ((s.part part).bind[lt]?).toList

/-- A launch that has been accepted and not ended uses a tile (R290). -/
def launchOn (s : State) (ph : Nat) : Bool :=
  s.launches.any (fun l => (l.ph == .running || l.ph == .waiting) && (s.tilesOf l.part l.nltile).contains ph)

end State

/-- SAMPLE_CONFIG. -/
def execSampleConfig (fn : Nat) (s : State) : Host.Outcome State Fault Refusal :=
  s.run (·.command fn (fun _ => { op := 0x0602, who := .part, plen := 16, masks := [0x1FF, 0xFF, 0xFFFF, m32] }) (fun _ => true)
    (fun s t part =>
      let lt := t.w 8
      [(t.w 10 / 4096 != 0 || (eventMask (t.w 10)).isNone, stBadOpcode, 10),
       (lt != 0x1FF && decide ((s.part part).count ≤ lt), stNotPermitted, 8),
       (decide (224 < t.w 9), stBadLength, 9), (t.w 11 != 0 && decide (t.w 11 < 16), stBadLength, 11),
       ((s.sampled part lt).any (fun ph => (s.tile ph).sampler.samplen != 1024 * t.w 9 && s.launchOn ph), stBusy, 9)])
    (fun s t part =>
      ((s.sampled part (t.w 8)).foldl (fun s ph => s.modTile ph (fun x =>
        let sm := x.sampler
        let sm1 := if sm.samplen = 1024 * t.w 9 then sm else { sm with samplen := 1024 * t.w 9, staged := [], buffer := [] }
        { x with sampler := if x.running then { sm1 with next := some (BitVec.ofNat 16 (t.w 10), t.w 11) }
                            else { sm1 with event := BitVec.ofNat 16 (t.w 10), period := t.w 11, next := none } })) s, ok)))

/-- The sampler takes a record of the instruction whose event crosses the period into its staging, or drops it where the staging is full
or the buffer has no record free for it (R566, R567). -/
def execPreciseSample (tile instr row passes : Nat) (replayed : Bool) (s : State) : Host.Outcome State Fault Refusal :=
  s.run (fun s =>
    let t := s.tile tile
    let sm := t.sampler
    match s.runningOf t.part with
    | none => s
    | some l =>
      s.when (t.running && !t.stopped && sm.period != 0 && decide (instr < t.ninstr)) (fun s =>
        if 4 ≤ sm.staged.length ∨ sm.samplen / 32 ≤ sm.buffer.length + sm.staged.length then
          s.setTile tile { t with sampler := { sm with lost := Nat.min (sm.lost + 1) 0xFFFF } }
        else
          let w := t.instrAt instr
          let slot := issueSlot w
          let tag := if [0x10, 0x11, 0x14, 0x15].contains (opcode w) then fld w 0 16 16 else 0
          let cyc := (s.ctrValue tile 0 0).toNat
          let r : List (BitVec 32) := [sm.event.toNat + 65536 * (tile % 256), instr % 2048 + 2048 * slot + 65536 * tag, l.queue, l.seq.toNat,
            cyc % 2 ^ 32, cyc / 2 ^ 32, if slot = 0 then row % 65536 + 65536 * (passes % 65536) else 0,
            if replayed then 65536 else 0].map (BitVec.ofNat 32)
          s.setTile tile { t with sampler := { sm with staged := sm.staged ++ [r] } }))

/-- The staged records are written to the buffer, the first with the samples lost since the record before it (R566, R567). -/
def Sampler.land (sm : Sampler) : Sampler :=
  match sm.staged with
  | [] => sm
  | r :: l =>
    { sm with buffer := sm.buffer ++ r.set 7 (r.getD 7 0 + BitVec.ofNat 32 sm.lost) :: l, staged := [], lost := 0 }

/-- The staged records of every tile reach their buffers. When they do is timing: at a tick. (DESIGN CHOICE, log entry 26) -/
def State.landSamples (s : State) : State :=
  { s with tiles := SMap.mapVals {} (fun _ t => { t with sampler := t.sampler.land }) s.tiles }

/-! ### Histograms (R568, R569) -/

/-- Qualifiers of a kind of interval, 0 being all of them. -/
def histQual (kind : Nat) : Option Nat :=
  match kind with
  | 1 => some 9
  | 2 => some 9
  | 3 => some 0
  | 4 => some 9
  | 5 => some 8
  | 6 => some 0
  | 7 => some 7
  | _ => none

/-- HIST_CONFIG. -/
def execHistConfig (fn : Nat) (s : State) : Host.Outcome State Fault Refusal :=
  s.run (·.command fn (fun _ => { op := 0x0603, who := .part, plen := 12, masks := [0x1F, 0xFFFF, 0x3F] }) (fun _ => true)
    (fun _ t _ =>
      [(t.w 9 != 0 && (match histQual (t.w 9 % 256) with | some q => decide (q < t.w 9 / 256) | none => true), stBadOpcode, 9),
       (decide (40 < t.w 10), stBadLength, 10)])
    (fun s t part =>
      let p := s.part part
      (s.setPart part { p with hists := SMap.set {} p.hists (t.w 8) { source := BitVec.ofNat 16 (t.w 9), shift := t.w 10 } }, ok)))

/-- HIST_READ. -/
def execHistRead (fn : Nat) (s : State) : Host.Outcome State Fault Refusal :=
  s.run (·.command fn (fun _ => { op := 0x0604, who := .part, plen := 4, masks := [0x3F] }) (fun _ => true) (fun _ _ _ => [])
    (fun s t part =>
      let p := s.part part
      let i := t.w 8 % 32
      let h : Hist := SMap.get {} p.hists i
      let two (v : Nat) : List Nat := [v % 2 ^ 32, v / 2 ^ 32 % 2 ^ 32]
      let res := [h.source.toNat + 65536 * h.shift, 0] ++ two h.count ++ two h.sum ++ two h.min ++ two h.max
        ++ (List.range 64).flatMap (fun b => two (SMap.get 0 h.bins b))
      (if (t.w 8).testBit 5 then s.setPart part { p with hists := SMap.set {} p.hists i { source := h.source, shift := h.shift } } else s,
       okWords res)))

/-! ### Refresh (R297) -/

/-- A refresh takes a bank for a time and changes nothing that the block holds. (DESIGN CHOICE, log entry 63) -/
def execHbmRefresh (_stack _bank : Nat) (s : State) : Host.Outcome State Fault Refusal := .next s

end Sys2Proof.Machine
end

