-- ==== Sys2Proof/Machine/HostPort.lean ====
section
/-! DEFINITION. The host port (R530 to R550): function-level reset, virtual functions, configuration bits, MSI-X, and accesses to the
registers of a BAR. -/

namespace Sys2Proof.Machine

namespace State

/-! ### Function-level reset (R537, R377) -/

/-- What is left of an aborted launch when a function is reset: its uncommitted steps are gone, its tiles are free. -/
def reapLaunch (s : State) (l : Launch) : State :=
  let s1 := if l.started then (s.tilesOf l.part l.nltile).foldl (fun s ph => s.modTile ph (fun t => { t with steps := [] })) s else s
  let s2 := if l.ph == .ended && !l.collected then s1.collect l else s1
  { s2 with launches := s2.launches.filter (fun x => !(x.queue == l.queue && x.seq == l.seq)) }

/-- The queues that a function created are aborted and destroyed; no record of them is written (R312, R537). -/
def flrQueues (s : State) (fn : Nat) : State :=
  let qs := (s.queues.filter (fun e => e.2.created && e.2.owner == fn)).map (·.1)
  let s1 := (qs.foldl abortQueue s)
  let s2 := qs.foldl dropQueue s1
  let mine (l : Launch) : Bool := qs.contains (l.restore.getD (l.queue, l.seq)).1 || (qs.contains l.queue && l.ph != .suspended)
  let s3 := (s2.launches.filter mine).foldl reapLaunch s2
  let s4 := (s3.chans.filter (fun e => match e.2.pkt with | some p => qs.contains p.queue | none => false)).foldl
    (fun s e => s.endChan e.1 stAborted) s3
  { s4 with packets := s4.packets.filter (fun p => !qs.contains p.queue) }

/-- A function-level reset: the steps of R537. Its binding, partition and doorbell pages stay; READY is 0 until firmware serves the mailbox
again, at a tick. (DEDUCED, log entry 57) -/
def flr (s : State) (fn : Nat) : State :=
  let s1 := s.flrQueues fn
  let s2 : State := { s1 with
    arms := s1.arms.filter (fun a => a.2.fn != fn), gos := s1.gos.filter (· != fn),
    taken := s1.taken.map (fun t => if t.fn = fn then { t with lost := true } else t),
    pinWait := s1.pinWait.map (fun t => if t.fn = fn then { t with lost := true } else t) }
  s2.modFunc fn (fun f => { f with
    mbx := {}, irqStatus := 0, irqEnable := if fn = 0 then 6 else 2, badAccess := none, badOld := (0, 0), scratch := 0,
    vecOpen := [], pba := [], table := [] })

end State

/-- A function-level reset. -/
def execFlr (fn : Nat) (s : State) : Host.Outcome State Fault Refusal :=
  .next (s.when ((s.func fn).present && s.boot.pcieUp) (·.flr fn))

/-! ### Configuration space (R533, R536) -/

namespace State

/-- A virtual function disappears: reset, unbound, its pages free (R533). -/
def dropVf (s : State) (fn : Nat) : State :=
  let s1 := s.flr fn
  { s1.setFunc fn { (s1.func fn) with present := false, bound := none, mbx := {}, bme := false, mse := false } with
    dbOwner := SMap.mapVals none (fun _ o => if o = some fn then none else o) s1.dbOwner }

/-- A virtual function comes to exist; its mailbox is READY from a tick on. -/
def addVf (s : State) (fn : Nat) : State :=
  if (s.func fn).present then s else s.setFunc fn { present := true, irqEnable := 2 }

end State

/-- A write of VF Enable and NumVFs; NumVFs stays while VF Enable is 1. -/
def execVfEnableChange (enable : Bool) (numVfs : Nat) (s : State) : Host.Outcome State Fault Refusal :=
  .next (s.when (s.boot.pcieUp && (numVfs ≤ 64 || (s.vfEnable && enable))) (fun s =>
    let num := if s.vfEnable && enable then s.numVfs else numVfs
    let old := if s.vfEnable then s.numVfs else 0
    let now := if enable then num else 0
    let s1 : State := { s with vfEnable := enable, numVfs := num }
    let s2 := ((List.range 65).filter (fun n => decide (now < n) && decide (n ≤ old))).foldl State.dropVf s1
    ((List.range 65).filter (fun n => n != 0 && decide (n ≤ now))).foldl State.addVf s2))

/-- Send the pending messages of vectors that may send now (R536, R546). -/
def Func.release (f : Func) : Func :=
  if !f.bme then f
  else
    let go := f.pba.filter f.vecOpen.contains
    { f with sent := go.reverse ++ f.sent, pba := f.pba.filter (fun v => !f.vecOpen.contains v) }

/-- Bus Master Enable. -/
def execBusMasterEnableChange (fn : Nat) (on : Bool) (s : State) : Host.Outcome State Fault Refusal :=
  .next (s.when ((s.func fn).present && s.boot.pcieUp) (·.modFunc fn (fun f => { f with bme := on }.release)))

/-- Memory Space Enable. -/
def execMemorySpaceEnableChange (fn : Nat) (on : Bool) (s : State) : Host.Outcome State Fault Refusal :=
  .next (s.when ((s.func fn).present && s.boot.pcieUp) (·.modFunc fn (fun f => { f with mse := on })))

/-! ### MSI-X (R546) -/

/-- Unmask a vector: a pending message goes out. -/
def Func.unmask (f : Func) (v : Nat) : Func := { f with vecOpen := insAsc v f.vecOpen }.release

/-- Host software unmasks a vector. -/
def execMsixUnmask (fn vector : Nat) (s : State) : Host.Outcome State Fault Refusal :=
  .next (s.when ((s.func fn).reach && decide (vector < vectorsOf fn)) (·.barWrite.modFunc fn (·.unmask vector)))

/-! ### Registers (R538 to R550) -/

/-- A 4-byte read of GLB_TIME's low half. -/
def execGlbTimeRead (fn : Nat) (s : State) : Host.Outcome State Fault Refusal :=
  .next (s.when (s.func fn).reach (·.modFunc fn (fun f => { f with timeHi := BitVec.ofNat 32 (s.time / 2 ^ 32) })))

namespace State

/-- A value is written to GLB_BADACCESS, whose VALID a 1 clears (R543). -/
def clearBad (s : State) (fn v : Nat) : State := s.when (v.testBit 31) (·.modFunc fn (fun f => { f with badAccess := none }))

/-- A value is written to IRQ_STATUS, whose bits a 1 clears (R547). -/
def clearIrq (s : State) (fn v : Nat) : State :=
  s.modFunc fn (fun f => { f with irqStatus := f.irqStatus &&& ~~~ BitVec.ofNat 3 v })

/-- A value is written to TST_CTL: the PF's alone, and only while debug is unlocked (R550). -/
def writeTst (s : State) (fn v : Nat) : State :=
  if fn ≠ 0 then s
  else if s.sec.unlocked then
    { s with tele := { s.tele with tstOn := v.testBit 0, tstPhase := if v.testBit 0 && !s.tele.tstOn then s.time else s.tele.tstPhase } }
  else s.modFunc fn (·.badAcc 0x03_0000 3)

end State

/-- GLB_BADACCESS.VALID is cleared. -/
def execGlbBadaccessClear (fn : Nat) (s : State) : Host.Outcome State Fault Refusal :=
  .next (s.when (s.func fn).reach (·.barWrite.clearBad fn (2 ^ 31)))

/-- IRQ_STATUS bits are cleared. -/
def execIrqStatusClear (fn : Nat) (value : BitVec 32) (s : State) : Host.Outcome State Fault Refusal :=
  .next (s.when (s.func fn).reach (·.barWrite.clearIrq fn value.toNat))

/-- TST_CTL is written. -/
def execTstCtlWrite (fn : Nat) (value : BitVec 32) (s : State) : Host.Outcome State Fault Refusal :=
  .next (s.when ((s.func fn).reach && fn == 0) (·.barWrite.writeTst fn value.toNat))

/-- The assigned register offsets, each 4 bytes (R540). -/
def regWord (offset : Nat) : Bool :=
  decide (offset < 0x24) || offset == 0x28 || offset == 0x2C || offset == 0x1000 || offset == 0x1004 || offset == 0x2000 || offset == 0x2004
    || offset == 0x2_0000 || offset == 0x2_0008 || offset == 0x2_000C || offset == 0x2_0010 || offset == 0x3_0000
    || (decide (0x3_0100 ≤ offset) && decide (offset < 0x3_0200) && offset % 4 == 0)

/-- An offset in a region of registers. -/
def inRegs (offset : Nat) : Bool :=
  decide (offset < 0x3000) || (decide (0x2_0000 ≤ offset) && decide (offset < 0x3_1000))

/-- The KIND of a bad access, where it is one (R539, R543, R545): 0 size or alignment, 1 reserved offset, 2 a doorbell slot that is not
live. -/
def State.badKind (s : State) (fn offset size : Nat) (write : Bool) : Option Nat :=
  let vectors := vectorsOf fn
  if inRegs offset then
    if !(size == 4 || size == 8) || offset % size != 0 then some 0
    else if !regWord (offset / 4 * 4) && !(size == 8 && regWord (offset + 4)) then some 1 else none
  else if 0x4000 ≤ offset ∧ offset < 0x6000 then (if offset < 0x4000 + 16 * vectors then none else some 1)
  else if 0x6000 ≤ offset ∧ offset < 0x7000 then (if offset < 0x6000 + (vectors + 63) / 64 * 8 then none else some 1)
  else if 0x1_0000 ≤ offset ∧ offset < 0x1_2000 then none
  else if 0x10_0000 ≤ offset ∧ offset < 0x12_0000 then
    if write && !(size == 8 && offset % 8 == 0) && !(size == 4 && offset % 8 == 0) then some 0
    else if write && s.pageOwner ((offset - 0x10_0000) / 4096) != some fn then some 2 else none
  else some 1

/-- An access that is handled as R539 says: ignored and recorded. -/
def execBarBadAccess (fn offset size : Nat) (write : Bool) (s : State) : Host.Outcome State Fault Refusal :=
  .next (s.when (s.func fn).reach (fun s =>
    match s.badKind fn offset size write with
    | some k => (if write then s.barWrite else s).modFunc fn (·.badAcc offset k)
    | none => s))

/-- Replace bytes of a value that lies at `base`, from `offset` on. -/
def overlay (v n base offset : Nat) (bs : List Byte) : Nat :=
  leNat (((leBytes n v).zipIdx).map (fun e =>
    if offset ≤ base + e.2 ∧ base + e.2 < offset + bs.length then bs.getD (base + e.2 - offset) 0 else e.1))

/-- A write touches a register of `n` bytes at `base`. -/
def touches (offset n base len : Nat) : Bool := decide (base < offset + len) && decide (offset < base + n)

namespace State

/-- A write of the MSI-X table: a vector's control word masks or unmasks it. -/
def tableWrite (s : State) (fn offset : Nat) (bs : List Byte) : State :=
  s.modFunc fn (fun f =>
    let f1 := { f with table := bs.zipIdx.foldl (fun m b =>
      if (offset + b.2) % 16 < 12 then m.setByte (offset - 0x4000 + b.2) b.1 else m) f.table }
    bs.zipIdx.foldl (fun f b =>
      let o := offset - 0x4000 + b.2
      if o % 16 = 12 ∧ o / 16 < vectorsOf fn then
        (if b.1.getLsbD 0 then { f with vecOpen := f.vecOpen.filter (· != o / 16) } else f.unmask (o / 16))
      else f) f1)

/-- What a write does to the registers it covers that act on being written: the lower register first. (R539 does not order the two halves
of an 8-byte write that covers two registers; DESIGN CHOICE, log entry 76) -/
def actWrite (s : State) (fn offset : Nat) (bs : List Byte) : State :=
  let n := bs.length
  let v (base : Nat) : Nat := overlay 0 4 base offset bs
  let s1 := s.when (touches offset 4 0x20 n) (·.clearBad fn (v 0x20))
  let s2 := s1.when (touches offset 4 0x1000 n) (·.clearIrq fn (v 0x1000))
  let s3 := s2.when (touches offset 4 0x2000 n) (·.ringMbx fn (v 0x2000))
  let s4 := s3.when (touches offset 4 0x2004 n) (·.clearMbx fn (v 0x2004))
  s4.when (touches offset 4 0x3_0000 n) (·.writeTst fn (v 0x3_0000))

/-- The RW registers without a behaviour of their own (R540, R543, R547, R549, R550). -/
def plainWrite (s : State) (fn offset : Nat) (bs : List Byte) : State :=
  let n := bs.length
  let s1 := s.modFunc fn (fun f => { f with
    scratch := if touches offset 8 0x28 n then BitVec.ofNat 64 (overlay f.scratch.toNat 8 0x28 offset bs) else f.scratch,
    irqEnable := if touches offset 4 0x1004 n then
        BitVec.ofNat 3 (overlay f.irqEnable.toNat 4 0x1004 offset bs) &&& (if fn = 0 then 6 else 2) else f.irqEnable,
    ctrSel := if touches offset 4 0x2_0000 n then BitVec.ofNat 32 (overlay f.ctrSel.toNat 4 0x2_0000 offset bs) &&& 0xFF_FFFF
      else f.ctrSel })
  if fn = 0 ∧ 0x3_0100 ≤ offset ∧ offset < 0x3_0200 then
    if s.sec.unlocked then
      let i := (offset - 0x3_0100) / 8
      let old := SMap.get 0 s.tele.perturb i
      let v := BitVec.ofNat 64 (overlay old.toNat 8 (0x3_0100 + 8 * i) offset bs) &&& 0xFFFF_FFFF_0007_FFFF
      { s1 with tele := { s1.tele with perturb := SMap.set 0 s1.tele.perturb i v } }
    else s1.modFunc fn (·.badAcc offset 3)
  else s1

end State

/-- A write to the BAR without a row of its own: the RW fields it covers are stored, a register that acts on being written acts, the
request page and the MSI-X table take its bytes, and everything else of it is ignored (R8, R339, R539). -/
def execRegisterWrite (fn offset : Nat) (bytes : List Byte) (s : State) : Host.Outcome State Fault Refusal :=
  .next (s.when ((s.func fn).reach && !bytes.isEmpty) (fun s =>
    let s := s.barWrite
    match s.badKind fn offset bytes.length true with
    | some k => s.modFunc fn (·.badAcc offset k)
    | none =>
      if 0x1_0000 ≤ offset ∧ offset < 0x1_1000 then
        s.modFunc fn (fun f => { f with mbx := { f.mbx with
          req := f.mbx.req.setBytes (offset - 0x1_0000) (bytes.take (0x1_1000 - offset)) } })
      else if 0x4000 ≤ offset ∧ offset < 0x6000 then s.tableWrite fn offset bytes
      else if inRegs offset then (s.actWrite fn offset bytes).plainWrite fn offset bytes
      else if 0x10_0000 ≤ offset then s.slotWrite fn ((offset - 0x10_0000) / 8) (BitVec.ofNat 64 (leNat bytes))
      else s))

/-! ### Perturbations (R570, R571) -/

/-- The instances of a TARGET and the modes listed for it (R570). -/
def perturbTarget (target : Nat) : Option (Nat × List Nat) :=
  match target with
  | 1 => some (256, [1, 2])
  | 2 => some (8, [1, 2])
  | 3 => some (8, [1, 2])
  | 4 => some (32, [2, 3])
  | 5 => some (32, [2])
  | 6 => some (32, [1])
  | 7 => some (2, [1])
  | 8 => some (1, [1])
  | 9 => some (1, [1])
  | 10 => some (1, [1, 2])
  | _ => none

/-- A perturbation register, field by field (R550). -/
structure Perturb where
  target : Nat
  index  : Nat
  mode   : Nat
  amount : Nat
  period : Nat
  deriving DecidableEq, Repr

/-- The register as it acts: MODE 0 where a field of it is not listed for its target, or MODE 2 or 3 has AMOUNT ≥ PERIOD (R570). -/
def Perturb.ofWord (v : BitVec 64) : Perturb :=
  let n := v.toNat
  let p : Perturb := { target := n % 256, index := bits n 8 8, mode := bits n 16 3, amount := bits n 32 16, period := bits n 48 16 }
  let ok := match perturbTarget p.target with
    | some (count, modes) => decide (p.index < count) && modes.contains p.mode && (p.mode == 1 || decide (p.amount < p.period))
    | none => false
  if ok then p else { p with mode := 0 }

/-- The point accepts nothing in the cycle `c` of its clock after the phase began (MODE 2, 3). -/
def Perturb.shuts (p : Perturb) (c : Nat) : Bool := (p.mode == 2 || p.mode == 3) && decide (c % p.period < p.amount)

namespace State

/-- The perturbations that act on a point. -/
def perturbs (s : State) (target index : Nat) : List Perturb :=
  if s.tele.tstOn then
    (s.tele.perturb.map (fun e => Perturb.ofWord e.2)).filter (fun p => p.mode != 0 && p.target == target && p.index == index)
  else []

/-- Cycles by which every transaction that passes a point is held: the delays of MODE 1 add (R570, R572). -/
def heldFor (s : State) (target index : Nat) : Nat := ((s.perturbs target index).filter (·.mode == 1)).foldl (fun n p => n + p.amount) 0

/-- A point accepts in cycle `c` after the phase began: no register shuts it (R572). What these delay comes to is timing, which the order
of the commands stands for (log entry 63). -/
def acceptsAt (s : State) (target index c : Nat) : Bool := (s.perturbs target index).all (fun p => !p.shuts c)

end State

/-! ### What reads return (R8, R538 to R550) -/

namespace State

/-- GLB_STATUS (R542). -/
def glbStatus (s : State) (fn : Nat) : Nat :=
  (s.func fn).mbx.ready.toNat + 2 * s.boot.failed.toNat + 4 * s.boot.stage.toNat + 2 ^ 6 * s.boot.activePair.toNat
    + 2 ^ 7 * s.boot.standbyOk.toNat + 2 ^ 8 * s.boot.straps.tracesel.toNat + 2 ^ 9 * s.sec.unlocked.toNat
    + 2 ^ 10 * s.boot.fwbank.toNat + 2 ^ 11 * s.weir.pinned.toNat + 2 ^ 24 * s.boot.failclass.toNat

/-- GLB_FUNC (R543). -/
def glbFunc (s : State) (fn : Nat) : Nat :=
  fn + (match (s.func fn).bound with | some p => 2 ^ 7 + 2 ^ 8 * p | none => 0)
    + (if fn = 0 ∧ s.vfEnable then 2 ^ 16 * s.numVfs else 0)

/-- What configuration space identifies a function by (R532): Vendor ID, Device ID (for a VF the one of the SR-IOV capability),
Revision ID, class code, Subsystem Vendor ID and Subsystem ID. -/
def configId (s : State) (fn : Nat) : List Nat :=
  let part := s.fuses.partnum.toNat
  let board := match s.flash.subsys with | some (v, i) => [v.toNat, i.toNat] | none => [0x1E45, part]
  [if fn = 0 then 0x1E45 else 0xFFFF, if fn = 0 then part else 0x48F0, s.fuses.stepping.toNat % 256, 0x12_0000] ++ board

/-- What configuration space names that this device does not support (R530, R531): ATS, PRI, PASID, IDE, TDISP, ACS, INTx, MSI, the ASPM
states and their substates, D1, D2, wake from D3cold, resizable BARs, the expansion ROM; and the Completion Timeout field and its
disable. -/
inductive Unsupported where
  | ats | pri | pasid | ide | tdisp | acs | intx | msi | aspmL0s | aspmL1 | l1Substates | d1 | d2 | d3coldWake | resizableBar
  | expansionRom | completionTimeoutValue | completionTimeoutDisable
  deriving DecidableEq, Repr

/-- Each register of it reads zero, in every function and state. -/
def configUnsupported (_s : State) (_fn : Nat) : Unsupported → Nat
  | .ats | .pri | .pasid | .ide | .tdisp | .acs | .intx | .msi | .aspmL0s | .aspmL1 | .l1Substates | .d1 | .d2 | .d3coldWake
  | .resizableBar | .expansionRom | .completionTimeoutValue | .completionTimeoutDisable => 0

/-- The capabilities of a function (R530, R531): Power Management, PCI Express, MSI-X, AER, ARI, Data Link Feature, Physical Layer 16.0,
32.0 and 64.0 GT/s, Lane Margining; SR-IOV and DOE are the PF's. -/
inductive Capability where
  | powerManagement | pciExpress | msix | aer | sriov | ari | doe | dataLinkFeature | physicalLayer16 | physicalLayer32
  | physicalLayer64 | laneMargining
  deriving DecidableEq, Repr

/-- Does this function have the capability? -/
def capable (fn : Nat) : Capability → Bool
  | .sriov | .doe => fn == 0
  | _ => true

/-- The SR-IOV capability (R532, R533): Vendor ID, VF Device ID, TotalVFs, InitialVFs, First VF Offset, VF Stride, NumVFs, VF Enable. -/
def sriovId (s : State) : List Nat := [0x1E45, 0x48F0, 64, 64, 1, 1, s.numVfs, s.vfEnable.toNat]

/-- MBX_STATE (R338). -/
def mbxState (s : State) (fn : Nat) : Nat :=
  let m := (s.func fn).mbx
  m.seq.toNat + 2 ^ 16 * m.busy.toNat + 2 ^ 17 * m.taken.toNat + 2 ^ 18 * m.done.toNat + 2 ^ 19 * m.overrun.toNat
    + 2 ^ 20 * m.ready.toNat

/-- CTR_DATA: the counter that CTR_SEL names, 0 for one unknown or not permitted (R549). -/
def ctrData (s : State) (fn : Nat) : Nat :=
  let unit := (s.func fn).ctrSel.toNat % 65536
  let ctr := bits (s.func fn).ctrSel.toNat 16 8
  let bound := match (s.func fn).bound with | some p => s.mayRead fn p unit | none => fn == 0
  if unitOk unit && bound && decide (ctr ≤ unitCtrs (unit / 4096)) then (s.ctrValue unit ctr (openOf unit ctr s.draw.1)).toNat else 0

/-- What 4 bytes at an aligned offset of the register regions hold. -/
def regRead (s : State) (fn offset : Nat) : Nat :=
  let f := s.func fn
  let pf (v : Nat) : Nat := if fn = 0 then v else 0
  let hi (v : Nat) : Nat := v / 2 ^ 32
  match offset with
  | 0x00 => s.fuses.partnum.toNat + 65536 * s.fuses.stepping.toNat
  | 0x04 => s.boot.fwver.toNat
  | 0x08 => s.fuses.serial.toNat % 2 ^ 32
  | 0x0C => hi s.fuses.serial.toNat
  | 0x10 => s.glbStatus fn
  | 0x14 => s.glbFunc fn
  | 0x18 => s.time % 2 ^ 32
  | 0x1C => f.timeHi.toNat
  | 0x20 => (match f.badAccess with
    | some (o, k) => o.toNat + 2 ^ 24 * k.toNat + 2 ^ 31
    | none => f.badOld.1.toNat + 2 ^ 24 * f.badOld.2.toNat)
  | 0x28 => f.scratch.toNat % 2 ^ 32
  | 0x2C => hi f.scratch.toNat
  | 0x1000 => f.irqStatus.toNat
  | 0x1004 => f.irqEnable.toNat
  | 0x2004 => s.mbxState fn
  | 0x2_0000 => f.ctrSel.toNat
  | 0x2_0008 => s.ctrData fn % 2 ^ 32
  | 0x2_000C => hi (s.ctrData fn)
  | 0x2_0010 => s.tele.snapgen.toNat
  | 0x3_0000 => pf (s.tele.tstOn.toNat + 2 * (!s.sec.unlocked).toNat)
  | _ =>
    if 0x3_0100 ≤ offset ∧ offset < 0x3_0200 then
      let v := (SMap.get 0 s.tele.perturb ((offset - 0x3_0100) / 8)).toNat
      pf (if offset % 8 = 4 then hi v else v % 2 ^ 32)
    else 0

/-- A byte of the MSI-X table or PBA (R546). -/
def msixByte (s : State) (fn offset : Nat) : Nat :=
  let f := s.func fn
  if offset < 0x6000 then
    let i := offset - 0x4000
    if i % 16 = 12 then (!f.vecOpen.contains (i / 16)).toNat else (f.table.byte i).toNat
  else (List.range 8).foldl (fun n b => if f.pba.contains (8 * (offset - 0x6000) + b) then n + 2 ^ b else n) 0

/-- A read of 1 to 8 bytes of a function's BAR, as software sees it where Memory Space Enable is 1 (R536); a bad access reads zero
(R539). An 8-byte read of GLB_TIME is atomic. (DEDUCED, log entry 61) -/
def barRead (s : State) (fn offset size : Nat) : Nat :=
  if (s.badKind fn offset size false).isSome then 0
  else if inRegs offset then
    if size = 8 then (if offset = 0x18 then s.time % 2 ^ 64 else s.regRead fn offset + 2 ^ 32 * s.regRead fn (offset + 4))
    else s.regRead fn offset
  else if 0x4000 ≤ offset ∧ offset < 0x7000 then
    (List.range size).foldl (fun n i => n + s.msixByte fn (offset + i) * 256 ^ i) 0
  else if 0x1_0000 ≤ offset ∧ offset < 0x1_1000 then (s.func fn).mbx.req.le (offset - 0x1_0000) size
  else if 0x1_1000 ≤ offset ∧ offset < 0x1_2000 then (s.func fn).mbx.resp.le (offset - 0x1_1000) size
  else if s.pageOwner ((offset - 0x10_0000) / 4096) = some fn then
    let q := s.queue ((offset - 0x10_0000) / 8)
    (q.hostIdx + 2 ^ 32 * q.devIdx) / 256 ^ (offset % 8) % 256 ^ size
  else 0

end State

end Sys2Proof.Machine
end

