-- ==== Sys2Proof/Machine/MbxLinks.lean ====
section
/-! DEFINITION. The links and collectives group of mailbox commands (R368): LINK_STATUS (R422), LINK_CONTROL (R421, R424), the routing
table (R425, R428), the fabric ID (R405), communicators (R437 to R439), the remote window (R433, R434). -/

namespace Sys2Proof.Machine

/-! ### Links -/

/-- LINK_STATUS (R422). -/
def execLinkStatus (fn : Nat) (s : State) : Host.Outcome State Fault Refusal :=
  s.run (·.query fn { op := 0x0400, who := .part, plen := 4, masks := [0x1F] } (fun _ _ _ => []) (fun s t _ =>
    let l := s.link (t.w 8)
    let two (v : BitVec 64) : List Nat := [v.toNat % 2 ^ 32, v.toNat / 2 ^ 32]
    (l.st.code + 2 ^ 4 * l.lanes + 2 ^ 8 * l.rx.spare.getD 15 + 2 ^ 16 * l.peer.toNat + 2 ^ 28 * l.peerV.toNat)
      :: two l.crcErrs ++ two l.replays ++ two l.fecs))

def linkCmd : Cmd := { op := 0x0401, who := .pf, plen := 4, masks := [0x7F1F] }
def lcLink (t : Taken) : Nat := t.w 8 % 32
def lcAction (t : Taken) : Nat := bits (t.w 8) 8 3
def lcLane (t : Taken) : Nat := bits (t.w 8) 11 4
/-- A request that a row's action executes: its own, and a reserved one, which none is and every row refuses. -/
def lcMine (action : Nat) (t : Taken) : Bool := lcAction t == action || decide (3 < lcAction t)
/-- Reserved encodings of a row's request: ACTION, and LANE where the action has none (R368). -/
def lcChk (t : Taken) (lane : Bool) : Chk := (decide (3 < lcAction t) || (!lane && lcLane t != 0) || decide (8 < lcLane t), stBadOpcode, 8)
def lcAct (t : Taken) : Act :=
  { fn := some t.fn, opcode := t.opcode, seq := t.seq, kind := .link (lcLink t) (lcAction t) (lcLane t) }

namespace State

/-- An action that changes nothing ends at once with ST_OK (R421). -/
def linkNoop (s : State) (t : Taken) : State × Ans := (s.deferredEvent (lcAct t) stOk (s.link (lcLink t)).report, ok)

/-- ENABLE and DISABLE need the link's maintenance lock free (R421). -/
def linkNeedsLock (s : State) (t : Taken) (act : State → State × Ans) : State × Ans :=
  if s.lockBusy (linkRes (lcLink t)) then (s, { st := stBusy, err := 8, qpos := s.lockLen (linkRes (lcLink t)) }) else act s

/-- RETRAIN and SPARE hold the lock (R421). -/
def linkTakesLock (s : State) (t : Taken) (act : State → State) : State × Ans :=
  let r := s.requestMaint (lcAct t) (linkRes (lcLink t)) false
  if r.2.1 = stOk then ({ act r.1 with acts := r.1.acts ++ [lcAct t] }, ok) else (s, { st := r.2.1, err := 8, qpos := r.2.2 })

end State

/-- LINK_CONTROL DISABLE: no new DATA flits; the link is off once every sent flit has been acknowledged. -/
def execLinkDisable (fn : Nat) (s : State) : Host.Outcome State Fault Refusal :=
  s.run (·.command fn (fun _ => linkCmd) (lcMine 0) (fun _ t _ => [lcChk t false])
    (fun s t _ => s.linkNeedsLock t (fun s =>
      let n := lcLink t
      if (s.link n).st = .disabled then s.linkNoop t
      else
        let s1 := { (s.modLink n (fun l => { l with disabling := true })) with acts := s.acts ++ [lcAct t] }
        (s1.linkQuiet n, ok))))

/-- LINK_CONTROL ENABLE: DISABLED or DOWN to DETECT. -/
def execLinkEnable (fn : Nat) (s : State) : Host.Outcome State Fault Refusal :=
  s.run (·.command fn (fun _ => linkCmd) (lcMine 1) (fun _ t _ => [lcChk t false])
    (fun s t _ => s.linkNeedsLock t (fun s =>
      let n := lcLink t
      if (s.link n).st = .disabled ∨ (s.link n).st = .down then
        ({ (s.modLink n (·.detect false)) with acts := s.acts ++ [lcAct t] }, ok)
      else s.linkNoop t)))

/-- LINK_CONTROL RETRAIN: back to DETECT with buffers and numbers kept. -/
def execLinkRetrain (fn : Nat) (s : State) : Host.Outcome State Fault Refusal :=
  s.run (·.command fn (fun _ => linkCmd) (lcMine 2) (fun _ t _ => [lcChk t false])
    (fun s t _ => s.linkTakesLock t (·.modLink (lcLink t) (·.detect true))))

/-- LINK_CONTROL SPARE: a sparing switch of one receive lane. -/
def execLinkSpare (fn : Nat) (s : State) : Host.Outcome State Fault Refusal :=
  s.run (·.command fn (fun _ => linkCmd) (lcMine 3)
    (fun s t _ =>
      let l := s.link (lcLink t)
      let idle := l.rx.spare == some (lcLane t)
      [lcChk t true,
       (!idle && (l.rx.spare.isNone || l.rx.half || !(l.st == .active || l.st == .recovery)), stConflict, 8)])
    (fun s t _ =>
      let n := lcLink t
      if (s.link n).rx.spare = some (lcLane t) then s.linkNoop t
      else s.linkTakesLock t (·.modLink n (fun l =>
        if l.rx.roles.contains (lcLane t) && l.spreq.isNone then { l with spreq := some (lcLane t), spOwn := false } else l))))

/-! ### Routes and the fabric ID -/

/-- COUNT and FIRST of a routing command. -/
def routeChks (t : Taken) : List Chk :=
  [(decide (506 < t.w 9), stBadLength, 9), (t.w 9 != 0 && decide (4096 < t.w 8 + t.w 9), stBadLength, 8)]

/-- ROUTE_WRITE (R425, R428). -/
def execRouteWrite (fn : Nat) (s : State) : Host.Outcome State Fault Refusal :=
  s.run (·.command fn (fun t => { op := 0x0410, who := .pf, plen := 16 + 8 * t.w 9, masks := [0xFFF, 0x3FF, 0, 0] }) (fun _ => true)
    (fun _ t _ =>
      (List.range (Nat.min (t.w 9) 506)).flatMap (fun i =>
        [((t.w (13 + 2 * i)).testBit 0 && t.w (12 + 2 * i) == 0, stBadOpcode, 12 + 2 * i),
         (decide (4 ≤ t.w (13 + 2 * i)), stBadOpcode, 13 + 2 * i)])
      ++ routeChks t)
    (fun s t _ =>
      ({ s with routes := (List.range (t.w 9)).foldl (fun m i =>
          SMap.set 0 m (t.w 8 + i) (BitVec.ofNat 64 (t.w64 (12 + 2 * i)))) s.routes }, ok)))

/-- ROUTE_READ. -/
def execRouteRead (fn : Nat) (s : State) : Host.Outcome State Fault Refusal :=
  s.run (·.query fn { op := 0x0411, who := .part, plen := 8, masks := [0xFFF, 0x3FF] } (fun _ t _ => routeChks t)
    (fun s t _ => (List.range (t.w 9)).flatMap (fun i =>
      let e := (s.routeMask (t.w 8 + i)).toNat
      [e % 2 ^ 32, e / 2 ^ 32])))

/-- DEVID_SET: links in CONFIG begin their exchange anew with the new ID (R405, R424). -/
def execDevidSet (fn : Nat) (s : State) : Host.Outcome State Fault Refusal :=
  s.run (·.command fn (fun _ => { op := 0x0412, who := .pf, plen := 4, masks := [0xFFF] }) (fun _ => true)
    (fun s _ _ => [(s.comms.any (fun c => c.2.isSome), stBusy, 8)])
    (fun s t _ =>
      let s1 : State := { s with devid := some (BitVec.ofNat 12 (t.w 8)) }
      ((List.range 32).foldl (fun s n =>
        if (s.link n).st = .config then s.startConfig n else s) s1,
       ok)))

/-! ### Communicators (R437 to R439) -/

/-- A communicator descriptor by its bytes. -/
abbrev CommDesc := List Byte

namespace CommDesc

def w (b : CommDesc) (i : Nat) : Nat := pkWord b i
def nmem (b : CommDesc) : Nat := b.w 2 % 2 ^ 13
def nstby (b : CommDesc) : Nat := bits (b.w 2) 16 7
def stage (b : CommDesc) : Nat := addr48 [b.w 4, b.w 5] 0
def stageLen (b : CommDesc) : Nat := b.w 6 % 65536
/-- DEVID, PARENT and STBY of each rank, and the standby devices, as far as the bytes reach. -/
def members (b : CommDesc) : List (Nat × Nat × Nat) :=
  (List.range (Nat.min b.nmem 4096)).map (fun r => let e := b.w (16 + r); (e % 4096, bits e 12 12, bits e 24 7))
def standbys (b : CommDesc) : List Nat := (List.range (Nat.min b.nstby 64)).map (fun k => b.w (16 + b.nmem + k) % 4096)

/-- MAGIC, reserved fields and encodings. -/
def formOk (b : CommDesc) : Bool :=
  b.w 0 == 0x434F_4D4D && bits (b.w 2) 13 3 == 0 && bits (b.w 2) 23 9 == 0 && decide (b.w 3 < 65536) && decide (b.w 5 < 65536)
    && decide (b.w 6 < 65536) && (List.range 9).all (fun i => b.w (7 + i) == 0) && decide (b.nmem ≤ 4096) && decide (b.nstby ≤ 64)
    && (List.range (Nat.min b.nmem 4096)).all (fun r => !(b.w (16 + r)).testBit 31)
    && b.members.all (fun m => m.2.2 == 0x7F || decide (m.2.2 < b.nstby))
    && (List.range (Nat.min b.nstby 64)).all (fun k => decide (b.w (16 + b.nmem + k) < 4096))

/-- The entries form one tree over distinct devices with at most 32 children a rank (R438). -/
def treeOk (b : CommDesc) : Bool :=
  let ms := b.members
  let devs := ms.map (·.1) ++ b.standbys
  ms.zipIdx.all (fun m => if m.2 = 0 then m.1.2.1 == 0xFFF else decide (m.1.2.1 < m.2))
    && (List.range ms.length).all (fun r => decide (((ms.drop 1).filter (fun m => m.2.1 == r)).length ≤ 32))
    && decide devs.Nodup

end CommDesc

namespace State

/-- The checks of R438 on a descriptor that has been read. -/
def commChks (s : State) (t : Taken) (part : Nat) (b : CommDesc) : List Chk :=
  let a := cmdAgent t part
  let devs := b.members.map (·.1) ++ b.standbys
  [(!b.formOk, stBadOpcode, 9),
   (daSpace b.stage != 0 || !s.allowed a b.stage (65536 * b.stageLen) true, stNotPermitted, 9),
   (b.stage % 65536 != 0, stBadAlign, 9),
   (b.length != 64 + 4 * (b.nmem + b.nstby) || b.nmem == 0 || decide (b.stageLen < 16), stBadLength, 11),
   ((s.comm (t.w 8)).isSome, stConflict, 8),
   (s.comms.any (fun c => match c.2 with | some c => c.cid.toNat == b.w 1 | none => false)
     || !b.treeOk || (match s.devid with | some d => !devs.contains d.toNat | none => true), stConflict, 9)]

/-- The communicator of a descriptor. -/
def commOfDesc (s : State) (part : Nat) (b : CommDesc) : Comm :=
  let ms := b.members
  { part := part, cid := BitVec.ofNat 32 (b.w 1), ctimeout := b.w 3, stage := b.stage, stageLen := b.stageLen, members := ms,
    standbys := b.standbys, digest := BitVec.ofNat 64 (crc64 0 b), own := ms.findIdx? (fun m => m.1 == s.own) }

end State

/-- COMM_CREATE (R438, R439). -/
def execCommCreate (fn : Nat) (s : State) : Host.Outcome State Fault Refusal :=
  s.run (·.command fn (fun _ => { op := 0x0420, who := .part, plen := 16, masks := [0xFF, m32, 0xFFFF, 0xFFFF] }) (fun _ => true)
    (fun s t part =>
      let a := cmdAgent t part
      let open_ := s.readable a (t.addr 9) (t.w 11) false
      (!(s.part part).hasComm (t.w 8), stNotPermitted, 8) :: (!open_, stNotPermitted, 9) ::
        (if open_ then match s.load a (t.addr 9) (t.w 11) with
          | .ok (_, b) => s.commChks t part b
          | .error (.status st) => [(true, st, noWord)]
          | .error .held => []
         else []))
    (fun s t part =>
      match s.load (cmdAgent t part) (t.addr 9) (t.w 11) with
      | .ok (s1, b) => ((s1.setComm (t.w 8) (some (s1.commOfDesc part b))).joinStep (t.w 8), ok)
      | .error (.status st) => (s, { st := st })
      | .error .held => (s, { st := stBusy })))

def commChk (s : State) (t : Taken) (part : Nat) : Chk := (!(s.part part).hasComm (t.w 8), stNotPermitted, 8)

/-- COMM_DESTROY (R439). -/
def execCommDestroy (fn : Nat) (s : State) : Host.Outcome State Fault Refusal :=
  s.run (·.command fn (fun _ => { op := 0x0421, who := .part, plen := 4, masks := [0xFF] }) (fun _ => true)
    (fun s t part =>
      [commChk s t part, ((s.comm (t.w 8)).isNone, stConflict, 8),
       (s.packets.any (fun p => pType p.words == 6 && word p.words 4 % 256 == t.w 8 && s.queuePart p.queue == part), stBusy, 8)])
    (fun s t _ => (s.setComm (t.w 8) none, ok)))

/-- COMM_QUERY. -/
def execCommQuery (fn : Nat) (s : State) : Host.Outcome State Fault Refusal :=
  s.run (·.query fn { op := 0x0422, who := .part, plen := 4, masks := [0xFF] }
    (fun s t part => [commChk s t part, ((s.comm (t.w 8)).isNone, stConflict, 8)])
    (fun s t _ => match s.comm (t.w 8) with
      | some c => [c.st.code, c.own.getD 0xFFF, c.nmem, c.lost.length, c.gen]
      | none => []))

/-! ### The remote window (R368, R433) -/

/-- WINDOW_SET. (DEDUCED, log entry 33) -/
def execWindowSet (fn : Nat) (s : State) : Host.Outcome State Fault Refusal :=
  s.run (·.command fn (fun _ => { op := 0x0430, who := .pf, plen := 16, masks := [m32, 0xFFFF, 0xFFFF, m32] }) (fun _ => true)
    (fun s t part =>
      let size := t.w 10
      [vaChk t, ((s.actsOn t).isNone, stNotPermitted, 3),
       (!s.allowed (cmdAgent t part) (t.addr 8) (65536 * size) true, stNotPermitted, 8),
       (t.w 11 ||| (s.part part).syncgrp.toNat != (s.part part).syncgrp.toNat, stBadSync, 11),
       (size != 0 && t.addr 8 % 65536 != 0, stBadAlign, 8)])
    (fun s t part =>
      ({ s with window := some { part := part, fn := t.fn, base := t.addr 8, size := t.w 10, mask := BitVec.ofNat 32 (t.w 11) } }, ok)))

end Sys2Proof.Machine
end

