-- ==== Sys2Proof/Machine/MbxPower.lean ====
section
/-! DEFINITION. The power and clocks group of mailbox commands (R374, R513, R519, R521, R525, R526). -/

namespace Sys2Proof.Machine

/-- OPP_LIST. -/
def execOppList (fn : Nat) (s : State) : Host.Outcome State Fault Refusal :=
  s.run (·.query fn { op := 0x0800, who := .part, plen := 0 } (fun _ _ _ => []) (fun _ _ _ => 8 :: opps.flatMap (·.words)))

def pinCmd : Cmd := { op := 0x0801, who := .pf, plen := 4, masks := [0x1F] }

/-- OPP_PIN: straight to the named point, its voltage held, the loops frozen; with a regulator that does not answer and would have to
move its rail, ST_TIMEOUT (R585). While a tile runs it completes at a tick, when every tile has switched (R132, R377). (DEDUCED, log entry
78) -/
def execOppPin (fn : Nat) (s : State) : Host.Outcome State Fault Refusal :=
  s.run (·.command fn (fun _ => pinCmd) (fun t => !(t.w 8).testBit 4)
    (fun s t _ =>
      let w := s.weir
      let o := oppOf (t.w 8)
      [(decide (8 ≤ t.w 8), stBadLength, 8),
       (decide (w.cap < o.pmax) || w.td.any (· != 0) || w.emergency.any id, stConflict, 8)])
    (fun s t _ =>
      let w := s.weir
      let o := oppOf (t.w 8)
      if w.pinned ∧ w.opp = t.w 8 then (s, ok)
      else if (List.range 6).any (fun i => w.mute.getD i false && w.volts.getD i 0 != o.vpin) then (s, { st := stTimeout })
      else
        let s1 := s.moveOpp (t.w 8) 4
        (s1.setWeir (fun x => { x.setVolts (fun _ => o.vpin) with
          pinned := true, tp := 0, energy := 0, calm := 0, hotTp := 0, overCap := 0, fast := false, since := s.time }),
          { later := s.tiles.any (·.2.running) })))

/-- OPP_PIN with RELEASE: the loops resume from the pinned point. -/
def execOppRelease (fn : Nat) (s : State) : Host.Outcome State Fault Refusal :=
  s.run (·.command fn (fun _ => pinCmd) (fun t => (t.w 8).testBit 4)
    (fun _ t _ => [(t.w 8 % 16 != 0, stBadOpcode, 8)])
    (fun s _ _ => (if s.weir.pinned then s.setWeir (fun w => { w with pinned := false, energy := 0, calm := 0, hotTp := 0 }) else s, ok)))

/-- The power cap is set; a pin whose point it no longer covers ends (R521, R526). -/
def State.setCap (s : State) (watts : Nat) : State :=
  let s1 := s.setWeir (fun w => { w with cap := watts })
  if (oppOf s.weir.opp).pmax > watts then s1.endPin 5 else s1

/-- POWER_CAP. -/
def execPowerCap (fn : Nat) (s : State) : Host.Outcome State Fault Refusal :=
  s.run (·.command fn (fun _ => { op := 0x0802, who := .pf, plen := 4, masks := [0x7FF] }) (fun _ => true)
    (fun _ t _ => [(decide (t.w 8 < 600) || decide (1400 < t.w 8), stBadLength, 8)])
    (fun s t _ => (s.setCap (t.w 8), ok)))

namespace State

/-- The mean ACLK over the last millisecond in kHz, where nothing that moves it has changed within it and every die runs alike. -/
def meanAclk (s : State) : Option Nat :=
  let w := s.weir
  let t := w.throttle 0
  if w.since + 100000 ≤ s.time ∧ (List.range 4).all (fun d => w.throttle d == t) ∧ w.stretch.all (!·) ∧ w.emergency.all (!·) then
    some ((oppOf w.opp).rootmul * 100000 / 3 * (16 - t) / 16)
  else none

end State

/-- POWER_READ: mean and peak power, the hottest sensor, the mean ACLK; what has not been measured yet, and how a mean is rounded, is
open. -/
def execPowerRead (fn : Nat) (s : State) : Host.Outcome State Fault Refusal :=
  s.run (·.command fn (fun _ => { op := 0x0803, who := .part, plen := 0 }) (fun _ => true) (fun _ _ _ => [])
    (fun s _ _ =>
      let d := s.draw
      let m := s.weir.samples.take 100
      let mean := if m.length = 100 then (m.sum + d.1 % 100) / 100 else d.1 / 100
      let peak := match s.weir.samples.max? with | some p => p | none => d.1 / 2 ^ 20
      let hot := match (s.weir.temps.map (·.2)).max? with | some t => t - 1 | none => d.1 / 2 ^ 40
      let aclk := s.meanAclk.getD (d.1 / 2 ^ 60)
      (d.2, okWords [mean % 2048, peak % 2048, hot % 256, aclk % 2 ^ 32])))

end Sys2Proof.Machine
end

