-- ==== Sys2Proof/Machine/MbxReliab.lean ====
section
/-! DEFINITION. The reliability group of mailbox commands (R369, R370, R498, R501, R503, R504). -/

namespace Sys2Proof.Machine

/-- FAULT_READ: the records that the requester sees, oldest first (R498). -/
def execFaultRead (fn : Nat) (s : State) : Host.Outcome State Fault Refusal :=
  s.run (·.query fn { op := 0x0500, who := .part, plen := 8, masks := [0xFFFF, 0x3F] } (fun _ _ _ => []) (fun s t p =>
    let seen := if t.fn = 0 then s.rel.log else s.rel.log.filter (fun f => f.part == some p)
    seen.length :: ((seen.drop (t.w 8)).take (t.w 9)).flatMap (·.words)))

/-! ### Maintenance (R370, R503 to R507) -/

/-- The activities that a kind of resource offers. -/
def offers (kind : Nat) : List Nat :=
  match kind with
  | 0 => [0, 3, 4]
  | 1 => [0, 3, 4]
  | 2 => [1, 2, 4]
  | 3 => [4]
  | 4 => [3, 4]
  | 5 => [4]
  | _ => []

def mRes (t : Taken) : Nat := t.w 8
def mAct (t : Taken) : Nat := t.w 9 % 8
def resChk (t : Taken) : Chk := (!resourceOk (resKind (mRes t)) (resIndex (mRes t)), stBadOpcode, 8)
def actChk (t : Taken) : Chk :=
  (!(offers (resKind (mRes t))).contains (mAct t), stBadOpcode, if 4 < mAct t then 9 else 8)

/-- MAINT_REQUEST for one activity, or a reserved one, which every row refuses; only the standby pair is tested (R506). -/
def State.maintRequest (s : State) (fn act : Nat) : State :=
  s.command fn (fun _ => { op := 0x0501, who := .pf, enq := true, plen := 8, masks := [0xFFF, 7] }) (fun t => mAct t == act || decide (4 < mAct t))
    (fun s t _ => [resChk t, actChk t, (resKind (mRes t) == 5 && resIndex (mRes t) == s.activeIdx, stConflict, 8)])
    (fun s t _ =>
      let r := s.requestMaint { fn := some t.fn, opcode := t.opcode, seq := t.seq, kind := .maint (mRes t) act } (mRes t) t.enq
      (r.1, { st := r.2.1, err := if r.2.1 = stOk then 0x3FF else 8, qpos := r.2.2 }))

def execMaintRepair (fn : Nat) (s : State) : Host.Outcome State Fault Refusal := s.run (·.maintRequest fn 0)
def execMaintLaneSparing (fn : Nat) (s : State) : Host.Outcome State Fault Refusal := s.run (·.maintRequest fn 1)
def execMaintEqualisation (fn : Nat) (s : State) : Host.Outcome State Fault Refusal := s.run (·.maintRequest fn 2)
def execMaintScrub (fn : Nat) (s : State) : Host.Outcome State Fault Refusal := s.run (·.maintRequest fn 3)
def execMaintSelfTest (fn : Nat) (s : State) : Host.Outcome State Fault Refusal := s.run (·.maintRequest fn 4)

/-- MAINT_STATUS: whether the lock is held, by which activity, and which are queued. -/
def execMaintStatus (fn : Nat) (s : State) : Host.Outcome State Fault Refusal :=
  s.run (·.query fn { op := 0x0502, who := .part, plen := 4, masks := [0xFFF] } (fun _ t _ => [resChk t]) (fun s t _ =>
    let l := s.lock (mRes t)
    let mask := (List.range 8).foldl (fun n i => if l.queue.any (fun a => a.rank == i) then n + 2 ^ i else n) 0
    [(match l.holder with | some a => 1 + 2 * a.rank | none => 0) + 16 * mask]))

/-- MAINT_CANCEL: a queued activity is removed; a running one is not stopped. -/
def execMaintCancel (fn : Nat) (s : State) : Host.Outcome State Fault Refusal :=
  s.run (·.command fn (fun _ => { op := 0x0503, who := .pf, plen := 8, masks := [0xFFF, 7] }) (fun _ => true)
    (fun s t _ => [resChk t, actChk t, (!(s.lock (mRes t)).queue.any (fun a => a.rank == mAct t), stConflict, 9)])
    (fun s t _ =>
      let l := s.lock (mRes t)
      (s.setLock (mRes t) { l with queue := l.queue.filter (fun a => a.rank != mAct t) }, ok)))

/-- SCRUB_PERIOD. -/
def execScrubPeriod (fn : Nat) (s : State) : Host.Outcome State Fault Refusal :=
  s.run (·.command fn (fun _ => { op := 0x0504, who := .pf, plen := 4, masks := [0xFF] }) (fun _ => true)
    (fun _ t _ => [(decide (8 < t.w 8 % 16) || decide (8 < t.w 8 / 16), stBadLength, 8)])
    (fun s t _ =>
      let hours (n : Nat) : Nat := if n = 0 then 8 else n
      ({ s with rel := { s.rel with scrubHbm := hours (t.w 8 % 16), scrubSram := hours (t.w 8 / 16) } }, ok)))

/-- ERR_COUNTS: a link's own counters hold its replays and its corrections (R422). -/
def execErrCounts (fn : Nat) (s : State) : Host.Outcome State Fault Refusal :=
  s.run (·.query fn { op := 0x0505, who := .part, plen := 4, masks := [0xFFF] } (fun _ t _ => [resChk t]) (fun s t _ =>
    let c : ErrCount := SMap.get {} s.rel.counts (mRes t)
    let l := s.link (resIndex (mRes t))
    let c : ErrCount := if resKind (mRes t) = 2 then { c with corrected := l.fecs, replays := l.replays } else c
    [c.corrected, c.uncorr, c.residue, c.replays].flatMap (fun v => [v.toNat % 2 ^ 32, v.toNat / 2 ^ 32])))

end Sys2Proof.Machine
end

