-- ==== Sys2Proof/Machine/Mgmt.lean ====
section
/-! DEFINITION. Out-of-band management and test access: the SPDM responder (R551, R552), MCTP and PLDM (R553 to R555), and the test access
port (R593). -/

namespace Sys2Proof.Machine

namespace State

/-- A transport answers: management ports 0 and 1 (the second only while the strap gives it its balls), and 2, the PF's DOE mailbox. -/
def portUp (s : State) (port : Nat) : Bool :=
  s.firmware && (port == 0 || (port == 1 && !s.boot.straps.tracesel) || (port == 2 && s.boot.pcieUp))
/-- A management port. -/
def smbUp (s : State) (port : Nat) : Bool := port != 2 && s.portUp port

/-- Answer on a transport. -/
def reply (s : State) (port : Nat) (r : Reply) : State :=
  { s with mgmt := { s.mgmt with replies := SMap.set [] s.mgmt.replies port (r :: SMap.get [] s.mgmt.replies port) } }

/-- A request that only reads. -/
def ask (s : State) (up : Bool) (port : Nat) (r : Reply) : Host.Outcome State Fault Refusal := .next (s.when up (·.reply port r))

end State

/-! ### SPDM (R551, R552) -/

/-- GET_VERSION. -/
def execGetVersion (port : Nat) (s : State) : Host.Outcome State Fault Refusal := s.ask (s.portUp port) port (.versions [0x12, 0x13])

/-- GET_CAPABILITIES. -/
def execGetCapabilities (port : Nat) (s : State) : Host.Outcome State Fault Refusal :=
  s.ask (s.portUp port) port (.capabilities true true true false)

/-- NEGOTIATE_ALGORITHMS. -/
def execNegotiateAlgorithms (port : Nat) (p384 sha384 : Bool) (s : State) : Host.Outcome State Fault Refusal :=
  s.ask (s.portUp port) port (if p384 && sha384 then .algorithms else .unsupported)

/-- GET_DIGESTS: slot 0. -/
def execGetDigests (port : Nat) (s : State) : Host.Outcome State Fault Refusal :=
  s.ask (s.portUp port) port (.digests (Sys2Proof.Machine.sha384 Config.certChain))

/-- GET_CERTIFICATE: slot 0. -/
def execGetCertificate (port slot offset length : Nat) (s : State) : Host.Outcome State Fault Refusal :=
  s.ask (s.portUp port) port
    (if slot = 0 then .certificate offset ((Config.certChain.drop offset).take length) else .unsupported)

/-- CHALLENGE: the responder's nonce and signature are open. -/
def execChallenge (port slot : Nat) (nonce : List Byte) (s : State) : Host.Outcome State Fault Refusal :=
  .next (s.when (s.portUp port && nonce.length == 32) (fun s =>
    if slot ≠ 0 then s.reply port .unsupported
    else
      let d := s.draw
      d.2.reply port (.challengeAuth (sha384 Config.certChain) (freeBytes 32 d.1) (freeBytes 96 (d.1 / 2 ^ 256)))))

/-- The measurement blocks. -/
def State.measurement (s : State) (i : Nat) : Option (List Byte) :=
  match i with
  | 1 => some s.boot.fwdig
  | 2 => some s.boot.jetdig
  | 3 => some (leBytes 4 (s.boot.svn.toNat + 2 ^ 16 * s.sec.unlocked.toNat + 2 ^ 17 * s.boot.fwbank.toNat))
  | 4 => some (s.reproKey 0 0)
  | 5 => some (sha384 (s.ownerKeys.flatMap (fun k => k.getD (List.replicate 96 0))))
  | 6 => some (leBytes 4 (s.fuses.partnum.toNat + 65536 * s.fuses.stepping.toNat) ++ leBytes 8 s.fuses.serial.toNat)
  | _ => none

/-- GET_MEASUREMENTS: one block, or with index 0xFF all of them; a signature is open. (DEDUCED, log entry 60) -/
def execGetMeasurements (port index : Nat) (sign : Bool) (nonce : List Byte) (s : State) : Host.Outcome State Fault Refusal :=
  .next (s.when (s.portUp port && (!sign || nonce.length == 32)) (fun s =>
    let want := if index = 0xFF then [1, 2, 3, 4, 5, 6] else [index]
    let bs := want.filterMap (fun i => (s.measurement i).map (i, ·))
    if bs.isEmpty then s.reply port .unsupported
    else if sign then
      let d := s.draw
      d.2.reply port (.measurements bs (freeBytes 96 d.1))
    else s.reply port (.measurements bs [])))

/-! ### MCTP (R553, R554) -/

/-- Set Endpoint ID. -/
def execSetEndpointId (port eid : Nat) (s : State) : Host.Outcome State Fault Refusal :=
  .next (s.when (s.smbUp port) (fun s =>
    if eid = 0 ∨ 255 ≤ eid then s.reply port .invalidData
    else ({ s with mgmt := { s.mgmt with ports := SMap.set {} s.mgmt.ports port { eid := eid } } }).reply port (.endpoint eid)))

/-- Get Endpoint ID. -/
def execGetEndpointId (port : Nat) (s : State) : Host.Outcome State Fault Refusal :=
  s.ask (s.smbUp port) port (.endpoint (SMap.get ({} : Port) s.mgmt.ports port).eid)

/-- Get MCTP Version Support; the numbers are open. -/
def execGetMctpVersionSupport (port : Nat) (s : State) : Host.Outcome State Fault Refusal :=
  .next (s.when (s.smbUp port) (fun s => let d := s.draw; d.2.reply port (.versions [d.1])))

/-- Get Message Type Support. -/
def execGetMessageTypeSupport (port : Nat) (s : State) : Host.Outcome State Fault Refusal :=
  s.ask (s.smbUp port) port (.msgTypes [0, 1, 5])

/-! ### PLDM (R554, R555) -/

/-- GetTID. -/
def execGettid (port : Nat) (s : State) : Host.Outcome State Fault Refusal := s.ask (s.smbUp port) port (.tid s.mgmt.tid)

/-- SetTID. -/
def execSettid (port tid : Nat) (s : State) : Host.Outcome State Fault Refusal :=
  .next (s.when (s.smbUp port) (fun s =>
    if tid = 0 ∨ 255 ≤ tid then s.reply port .invalidData
    else ({ s with mgmt := { s.mgmt with tid := tid } }).reply port .success))

/-- GetPLDMVersion; the numbers are open. -/
def execGetpldmversion (port type : Nat) (s : State) : Host.Outcome State Fault Refusal :=
  .next (s.when (s.smbUp port) (fun s =>
    if type = 0 ∨ type = 2 then let d := s.draw; d.2.reply port (.pldmVersion d.1) else s.reply port .invalidData))

/-- GetPLDMTypes. -/
def execGetpldmtypes (port : Nat) (s : State) : Host.Outcome State Fault Refusal := s.ask (s.smbUp port) port (.msgTypes [0, 2])

/-- GetPLDMCommands. -/
def execGetpldmcommands (port type : Nat) (s : State) : Host.Outcome State Fault Refusal :=
  s.ask (s.smbUp port) port
    (if type = 0 then .commands ["GetTID", "SetTID", "GetPLDMVersion", "GetPLDMTypes", "GetPLDMCommands"]
     else if type = 2 then .commands ["GetPDRRepositoryInfo", "GetPDR", "GetSensorReading", "GetStateSensorReadings",
       "SetNumericEffecterValue", "GetNumericEffecterValue"]
     else .invalidData)

/-- GetPDRRepositoryInfo. -/
def execGetpdrrepositoryinfo (port : Nat) (s : State) : Host.Outcome State Fault Refusal := s.ask (s.smbUp port) port (.repository 20)

/-- What a record of the repository describes (R555). -/
def pdrOf (id : Nat) : Option (String × String) :=
  if id = 1 then some ("numeric sensor", "package power, mean over 1 ms")
  else if id = 2 then some ("numeric sensor", "package power, greatest 10 us sample over 10 ms")
  else if 3 ≤ id ∧ id ≤ 6 then some ("numeric sensor", "hottest junction of a compute die")
  else if id = 7 ∨ id = 8 then some ("numeric sensor", "hottest junction of an I/O die")
  else if 9 ≤ id ∧ id ≤ 16 then some ("numeric sensor", "temperature of an HBM stack")
  else if id = 17 then some ("numeric sensor", "mean ACLK over 1 ms")
  else if id = 18 then some ("numeric sensor", "operating point in force")
  else if id = 19 then some ("state sensor", "device state")
  else if id = 20 then some ("numeric effecter", "power cap")
  else none

/-- GetPDR. -/
def execGetpdr (port id : Nat) (s : State) : Host.Outcome State Fault Refusal :=
  s.ask (s.smbUp port) port (match pdrOf id with | some p => .pdr id p.1 p.2 | none => .invalidData)

/-- A numeric sensor's reading; what has not been measured yet, and how a mean is rounded, is open. -/
def State.sensor (s : State) (id open_ : Nat) : Nat :=
  let temp (k : Nat) : Nat := (s.weir.temp k).getD open_
  let m := s.weir.samples.take 100
  if id = 1 then (if m.length = 100 then (m.sum + open_ % 100) / 100 else open_)
  else if id = 2 then s.weir.samples.max?.getD open_
  else if id ≤ 8 then temp (id - 3)
  else if id ≤ 16 then temp (id - 1)
  else if id = 17 then s.meanAclk.getD open_
  else if s.boot.stage = 6 ∨ s.boot.stage = 0xE then s.weir.opp else 0xFF

/-- GetSensorReading. -/
def execGetsensorreading (port id : Nat) (s : State) : Host.Outcome State Fault Refusal :=
  .next (s.when (s.smbUp port) (fun s =>
    if 1 ≤ id ∧ id ≤ 18 then let d := s.draw; d.2.reply port (.reading id (d.2.sensor id d.1)) else s.reply port .invalidData))

/-- The state sensor: booting, ready, failed, thermal emergency. -/
def State.stateSensor (s : State) : Nat :=
  if s.boot.failed then 2
  else if s.weir.emergency.any id then 3
  else if s.boot.stage = 6 ∨ s.boot.stage = 0xE then 1 else 0

/-- GetStateSensorReadings. -/
def execGetstatesensorreadings (port id : Nat) (s : State) : Host.Outcome State Fault Refusal :=
  s.ask (s.smbUp port) port (if id = 19 then .state 19 s.stateSensor else .invalidData)

/-- SetNumericEffecterValue: the effect of POWER_CAP. -/
def execSetnumericeffectervalue (port id value : Nat) (s : State) : Host.Outcome State Fault Refusal :=
  .next (s.when (s.smbUp port) (fun s =>
    if id ≠ 20 ∨ value < 600 ∨ 1400 < value then s.reply port .invalidData else (s.setCap value).reply port .success))

/-- GetNumericEffecterValue. -/
def execGetnumericeffectervalue (port id : Nat) (s : State) : Host.Outcome State Fault Refusal :=
  s.ask (s.smbUp port) port (if id = 20 then .effecter 20 s.weir.cap else .invalidData)

/-! ### Boundary scan (R593) -/

/-- IDCODE of the `i`-th TAP of the chain: north, D0, D1, D3, D2, south. -/
def idcode (stepping : Word16) (i : Nat) : BitVec 32 :=
  let die := ([4, 0, 1, 3, 2, 5] : List Nat).getD i 0
  BitVec.ofNat 32 (1 + 2 * 0x2A5 + 2 ^ 12 * (0x48D0 + die) + 2 ^ 28 * (stepping.toNat / 256 % 16))

/-- Capture: the input cell of each ball, the first of its three, takes the ball. -/
def captureBalls (cells balls : List Bool) : List Bool :=
  cells.zipIdx.map (fun c => if c.2 % 3 = 0 then balls.getD (c.2 / 3) c.1 else c.1)

namespace Tap

/-- The boundary cells of a TAP. -/
def cells (t : Tap) (i : Nat) : List Bool :=
  if i = 0 then t.north else if i = 5 then t.south else [t.dies.getD (([0, 0, 1, 3, 2, 0] : List Nat).getD i 0) false]
def setCells (t : Tap) (i : Nat) (c : List Bool) : Tap :=
  if i = 0 then { t with north := c }
  else if i = 5 then { t with south := c }
  else { t with dies := t.dies.set (([0, 0, 1, 3, 2, 0] : List Nat).getD i 0) (c.headD false) }

/-- One TAP takes an instruction: what it captures, then the cells it is given, then what its balls do. -/
def instruct (t : Tap) (i : Nat) (code : BitVec 8) (id : BitVec 32) (balls : List Bool) (data : List Bool) : Tap :=
  let c := code.toNat
  let boundary := c = 0 || c = 2
  let captured := if i = 0 ∨ i = 5 then captureBalls (t.cells i) balls else t.cells i
  let dr := if boundary then captured
    else if c = 1 then (List.range 32).map id.getLsbD else [false]
  let t1 : Tap := { t with ir := t.ir.set i code, dr := t.dr.set i dr, drive := t.drive.set i (c = 0 || c = 4), hiz := t.hiz.set i (c = 5) }
  if boundary && data.length == captured.length then t1.setCells i data else t1

end Tap

/-- An instruction for each TAP. While PORST# is deasserted every one acts as BYPASS. `balls`: the levels at the balls of the north and of
the south die; `data`: what is shifted into each boundary register. -/
def execTapInstruction (codes : List (BitVec 8)) (balls : List Bool) (data : List (List Bool)) (s : State) :
    Host.Outcome State Fault Refusal :=
  .next (if codes.length ≠ 6 then s
    else { s with tap := (List.range 6).foldl (fun t i =>
      t.instruct i (if s.boot.porst then codes.getD i 0xFF else 0xFF) (idcode s.fuses.stepping i)
        (if i = 0 then balls.take 34 else balls.drop 34) (data.getD i [])) s.tap })

end Sys2Proof.Machine
end

