-- ==== Sys2Proof/Machine/Dispatch.lean ====
section
/-! DEFINITION. The meaning of every command: one arm for each row of the table. -/

namespace Sys2Proof.Machine

def exec (i : Instr) (s : State) : Host.Outcome State Fault Refusal :=
  match i with
  | .loadw tile word => Sys2Proof.Machine.execLoadw tile word s
  | .stream tile word => Sys2Proof.Machine.execStream tile word s
  | .packcfg tile word => Sys2Proof.Machine.execPackcfg tile word s
  | .gopen tile word => Sys2Proof.Machine.execGopen tile word s
  | .gclose tile word => Sys2Proof.Machine.execGclose tile word s
  | .drain tile word => Sys2Proof.Machine.execDrain tile word s
  | .qexport tile word => Sys2Proof.Machine.execQexport tile word s
  | .moveCopy tile word => Sys2Proof.Machine.execMoveCopy tile word s
  | .moveMerge tile word => Sys2Proof.Machine.execMoveMerge tile word s
  | .moveMergeStandard tile word => Sys2Proof.Machine.execMoveMergeStandard tile word s
  | .moveStatus tile word => Sys2Proof.Machine.execMoveStatus tile word s
  | .requant tile word => Sys2Proof.Machine.execRequant tile word s
  | .cvt tile word => Sys2Proof.Machine.execCvt tile word s
  | .jet tile word => Sys2Proof.Machine.execJet tile word s
  | .sminit tile word => Sys2Proof.Machine.execSminit tile word s
  | .smterm tile word => Sys2Proof.Machine.execSmterm tile word s
  | .smmerge tile word => Sys2Proof.Machine.execSmmerge tile word s
  | .smnorm tile word => Sys2Proof.Machine.execSmnorm tile word s
  | .nstat tile word => Sys2Proof.Machine.execNstat tile word s
  | .nvar tile word => Sys2Proof.Machine.execNvar tile word s
  | .tload tile word => Sys2Proof.Machine.execTload tile word s
  | .nearCopy tile word => Sys2Proof.Machine.execNearCopy tile word s
  | .nearAdd tile word => Sys2Proof.Machine.execNearAdd tile word s
  | .nearSub tile word => Sys2Proof.Machine.execNearSub tile word s
  | .nearMul tile word => Sys2Proof.Machine.execNearMul tile word s
  | .nearMax tile word => Sys2Proof.Machine.execNearMax tile word s
  | .nearMin tile word => Sys2Proof.Machine.execNearMin tile word s
  | .nearFma tile word => Sys2Proof.Machine.execNearFma tile word s
  | .normrow tile word => Sys2Proof.Machine.execNormrow tile word s
  | .affcol tile word => Sys2Proof.Machine.execAffcol tile word s
  | .nearNeg tile word => Sys2Proof.Machine.execNearNeg tile word s
  | .nearAbs tile word => Sys2Proof.Machine.execNearAbs tile word s
  | .loop tile word => Sys2Proof.Machine.execLoop tile word s
  | .branch tile word => Sys2Proof.Machine.execBranch tile word s
  | .seta tile word => Sys2Proof.Machine.execSeta tile word s
  | .waitSync tile word => Sys2Proof.Machine.execWaitSync tile word s
  | .waitLocal tile word => Sys2Proof.Machine.execWaitLocal tile word s
  | .signal tile word => Sys2Proof.Machine.execSignal tile word s
  | .step tile word => Sys2Proof.Machine.execStep tile word s
  | .tileEnd tile word => Sys2Proof.Machine.execTileEnd tile word s
  | .stepCommit tile => Sys2Proof.Machine.execStepCommit tile s
  | .waitTimeout tile => Sys2Proof.Machine.execWaitTimeout tile s
  | .preemptBoundary tile => Sys2Proof.Machine.execPreemptBoundary tile s
  | .tileFaultReplay tile cls array groups => Sys2Proof.Machine.execTileFaultReplay tile cls array groups s
  | .thermalEmergency die temp => Sys2Proof.Machine.execThermalEmergency die temp s
  | .thermalRestart die micros => Sys2Proof.Machine.execThermalRestart die micros s
  | .dblQueueWrite fn queue value stores => Sys2Proof.Machine.execDblQueueWrite fn queue value stores s
  | .packetFetch queue => Sys2Proof.Machine.execPacketFetch queue s
  | .packetDispatch queue => Sys2Proof.Machine.execPacketDispatch queue s
  | .kernelLaunch queue seq => Sys2Proof.Machine.execKernelLaunch queue seq s
  | .launchStart queue seq => Sys2Proof.Machine.execLaunchStart queue seq s
  | .launchComplete queue seq => Sys2Proof.Machine.execLaunchComplete queue seq s
  | .ltimeoutExpiry queue seq => Sys2Proof.Machine.execLtimeoutExpiry queue seq s
  | .dma queue seq => Sys2Proof.Machine.execDma queue seq s
  | .syncSignal queue seq => Sys2Proof.Machine.execSyncSignal queue seq s
  | .syncWait queue seq => Sys2Proof.Machine.execSyncWait queue seq s
  | .syncWaitTimeout queue seq => Sys2Proof.Machine.execSyncWaitTimeout queue seq s
  | .fence queue seq => Sys2Proof.Machine.execFence queue seq s
  | .digestMark queue seq => Sys2Proof.Machine.execDigestMark queue seq s
  | .allreduce queue seq => Sys2Proof.Machine.execAllreduce queue seq s
  | .reduce queue seq => Sys2Proof.Machine.execReduce queue seq s
  | .broadcast queue seq => Sys2Proof.Machine.execBroadcast queue seq s
  | .allgather queue seq => Sys2Proof.Machine.execAllgather queue seq s
  | .reducescatter queue seq => Sys2Proof.Machine.execReducescatter queue seq s
  | .barrier queue seq => Sys2Proof.Machine.execBarrier queue seq s
  | .smreduce queue seq => Sys2Proof.Machine.execSmreduce queue seq s
  | .contextSave queue seq => Sys2Proof.Machine.execContextSave queue seq s
  | .contextRestore queue seq => Sys2Proof.Machine.execContextRestore queue seq s
  | .packetComplete queue seq => Sys2Proof.Machine.execPacketComplete queue seq s
  | .coaltimeExpiry queue => Sys2Proof.Machine.execCoaltimeExpiry queue s
  | .mbxGo fn value stores => Sys2Proof.Machine.execMbxGo fn value stores s
  | .mbxCancel fn value => Sys2Proof.Machine.execMbxCancel fn value s
  | .mbxTake fn => Sys2Proof.Machine.execMbxTake fn s
  | .mbxDoneClear fn value => Sys2Proof.Machine.execMbxDoneClear fn value s
  | .deferredActivityEnd act => Sys2Proof.Machine.execDeferredActivityEnd act s
  | .devIdentify fn => Sys2Proof.Machine.execDevIdentify fn s
  | .devArrays fn => Sys2Proof.Machine.execDevArrays fn s
  | .reproKey fn => Sys2Proof.Machine.execReproKey fn s
  | .jetsetLoad fn => Sys2Proof.Machine.execJetsetLoad fn s
  | .bootReport fn => Sys2Proof.Machine.execBootReport fn s
  | .partAssign fn => Sys2Proof.Machine.execPartAssign fn s
  | .partDestroy fn => Sys2Proof.Machine.execPartDestroy fn s
  | .partQuery fn => Sys2Proof.Machine.execPartQuery fn s
  | .funcBind fn => Sys2Proof.Machine.execFuncBind fn s
  | .funcUnbind fn => Sys2Proof.Machine.execFuncUnbind fn s
  | .qCreate fn => Sys2Proof.Machine.execQCreate fn s
  | .qModify fn => Sys2Proof.Machine.execQModify fn s
  | .qDestroy fn => Sys2Proof.Machine.execQDestroy fn s
  | .qQuery fn => Sys2Proof.Machine.execQQuery fn s
  | .qResume fn => Sys2Proof.Machine.execQResume fn s
  | .qAbort fn => Sys2Proof.Machine.execQAbort fn s
  | .ctxSize fn => Sys2Proof.Machine.execCtxSize fn s
  | .syncReset fn => Sys2Proof.Machine.execSyncReset fn s
  | .syncRead fn => Sys2Proof.Machine.execSyncRead fn s
  | .syncSignalCmd fn => Sys2Proof.Machine.execSyncSignalCmd fn s
  | .syncArm fn => Sys2Proof.Machine.execSyncArm fn s
  | .syncDisarm fn => Sys2Proof.Machine.execSyncDisarm fn s
  | .slotWrite fn => Sys2Proof.Machine.execSlotWrite fn s
  | .slotRead fn => Sys2Proof.Machine.execSlotRead fn s
  | .map fn place => Sys2Proof.Machine.execMap fn place s
  | .unmap fn => Sys2Proof.Machine.execUnmap fn s
  | .mapQuery fn => Sys2Proof.Machine.execMapQuery fn s
  | .cstWrite fn => Sys2Proof.Machine.execCstWrite fn s
  | .cstRead fn => Sys2Proof.Machine.execCstRead fn s
  | .linkStatus fn => Sys2Proof.Machine.execLinkStatus fn s
  | .linkDisable fn => Sys2Proof.Machine.execLinkDisable fn s
  | .linkEnable fn => Sys2Proof.Machine.execLinkEnable fn s
  | .linkRetrain fn => Sys2Proof.Machine.execLinkRetrain fn s
  | .linkSpare fn => Sys2Proof.Machine.execLinkSpare fn s
  | .routeWrite fn => Sys2Proof.Machine.execRouteWrite fn s
  | .routeRead fn => Sys2Proof.Machine.execRouteRead fn s
  | .devidSet fn => Sys2Proof.Machine.execDevidSet fn s
  | .commCreate fn => Sys2Proof.Machine.execCommCreate fn s
  | .commDestroy fn => Sys2Proof.Machine.execCommDestroy fn s
  | .commQuery fn => Sys2Proof.Machine.execCommQuery fn s
  | .windowSet fn => Sys2Proof.Machine.execWindowSet fn s
  | .faultRead fn => Sys2Proof.Machine.execFaultRead fn s
  | .maintRepair fn => Sys2Proof.Machine.execMaintRepair fn s
  | .maintLaneSparing fn => Sys2Proof.Machine.execMaintLaneSparing fn s
  | .maintEqualisation fn => Sys2Proof.Machine.execMaintEqualisation fn s
  | .maintScrub fn => Sys2Proof.Machine.execMaintScrub fn s
  | .maintSelfTest fn => Sys2Proof.Machine.execMaintSelfTest fn s
  | .maintStatus fn => Sys2Proof.Machine.execMaintStatus fn s
  | .maintCancel fn => Sys2Proof.Machine.execMaintCancel fn s
  | .scrubPeriod fn => Sys2Proof.Machine.execScrubPeriod fn s
  | .errCounts fn => Sys2Proof.Machine.execErrCounts fn s
  | .ctrProgram fn => Sys2Proof.Machine.execCtrProgram fn s
  | .snapshot fn => Sys2Proof.Machine.execSnapshot fn s
  | .sampleConfig fn => Sys2Proof.Machine.execSampleConfig fn s
  | .histConfig fn => Sys2Proof.Machine.execHistConfig fn s
  | .histRead fn => Sys2Proof.Machine.execHistRead fn s
  | .attest fn => Sys2Proof.Machine.execAttest fn s
  | .certRead fn => Sys2Proof.Machine.execCertRead fn s
  | .ownerKeyEnrol fn => Sys2Proof.Machine.execOwnerKeyEnrol fn s
  | .ownerKeyRevoke fn => Sys2Proof.Machine.execOwnerKeyRevoke fn s
  | .fwStage fn => Sys2Proof.Machine.execFwStage fn s
  | .fwSelect fn => Sys2Proof.Machine.execFwSelect fn s
  | .oppList fn => Sys2Proof.Machine.execOppList fn s
  | .oppPin fn => Sys2Proof.Machine.execOppPin fn s
  | .oppRelease fn => Sys2Proof.Machine.execOppRelease fn s
  | .powerCap fn => Sys2Proof.Machine.execPowerCap fn s
  | .powerRead fn => Sys2Proof.Machine.execPowerRead fn s
  | .debugChallenge fn => Sys2Proof.Machine.execDebugChallenge fn s
  | .debugUnlock fn => Sys2Proof.Machine.execDebugUnlock fn s
  | .faultInject fn => Sys2Proof.Machine.execFaultInject fn s
  | .traceConfig fn => Sys2Proof.Machine.execTraceConfig fn s
  | .debugLock fn => Sys2Proof.Machine.execDebugLock fn s
  | .sluiceCopy engine chan beats land => Sys2Proof.Machine.execSluiceCopy engine chan beats land s
  | .sluiceFill engine chan beats land => Sys2Proof.Machine.execSluiceFill engine chan beats land s
  | .sluiceConfig engine chan => Sys2Proof.Machine.execSluiceConfig engine chan s
  | .sluiceDescComplete engine chan => Sys2Proof.Machine.execSluiceDescComplete engine chan s
  | .sluiceRetry engine chan ok => Sys2Proof.Machine.execSluiceRetry engine chan ok s
  | .headaddrReread engine chan stores => Sys2Proof.Machine.execHeadaddrReread engine chan stores s
  | .linkDetectDone link => Sys2Proof.Machine.execLinkDetectDone link s
  | .trainConverged link => Sys2Proof.Machine.execTrainConverged link s
  | .alignLocked link lanes => Sys2Proof.Machine.execAlignLocked link lanes s
  | .linkStateTimeout link => Sys2Proof.Machine.execLinkStateTimeout link s
  | .markerPeriod link corrected => Sys2Proof.Machine.execMarkerPeriod link corrected s
  | .markerBlock link lane words => Sys2Proof.Machine.execMarkerBlock link lane words s
  | .peerSilent link => Sys2Proof.Machine.execPeerSilent link s
  | .dataFlit link flit fec => Sys2Proof.Machine.execDataFlit link flit fec s
  | .idleFlit link flit fec => Sys2Proof.Machine.execIdleFlit link flit fec s
  | .linkctlConfig link flit fec => Sys2Proof.Machine.execLinkctlConfig link flit fec s
  | .linkctlConfigAck link flit fec => Sys2Proof.Machine.execLinkctlConfigAck link flit fec s
  | .linkctlRecover link flit fec => Sys2Proof.Machine.execLinkctlRecover link flit fec s
  | .linkctlResume link flit fec => Sys2Proof.Machine.execLinkctlResume link flit fec s
  | .ackTimeout link => Sys2Proof.Machine.execAckTimeout link s
  | .flitSilence link => Sys2Proof.Machine.execFlitSilence link s
  | .laneFailing link lane => Sys2Proof.Machine.execLaneFailing link lane s
  | .laneSpareSwitch link => Sys2Proof.Machine.execLaneSpareSwitch link s
  | .packetForward arrival => Sys2Proof.Machine.execPacketForward arrival s
  | .remoteWrite arrival => Sys2Proof.Machine.execRemoteWrite arrival s
  | .remoteSignal arrival => Sys2Proof.Machine.execRemoteSignal arrival s
  | .ack arrival => Sys2Proof.Machine.execAck arrival s
  | .notice arrival => Sys2Proof.Machine.execNotice arrival s
  | .remoteResend dst seq => Sys2Proof.Machine.execRemoteResend dst seq s
  | .remoteGiveUp dst seq => Sys2Proof.Machine.execRemoteGiveUp dst seq s
  | .collUp arrival => Sys2Proof.Machine.execCollUp arrival s
  | .collDown arrival => Sys2Proof.Machine.execCollDown arrival s
  | .barUp arrival => Sys2Proof.Machine.execBarUp arrival s
  | .barDown arrival => Sys2Proof.Machine.execBarDown arrival s
  | .chunkResend comm => Sys2Proof.Machine.execChunkResend comm s
  | .ctimeoutExpiry comm => Sys2Proof.Machine.execCtimeoutExpiry comm s
  | .join arrival => Sys2Proof.Machine.execJoin arrival s
  | .joinResend comm => Sys2Proof.Machine.execJoinResend comm s
  | .lost arrival => Sys2Proof.Machine.execLost arrival s
  | .powerLoopTick => Sys2Proof.Machine.execPowerLoopTick s
  | .freqStep opp => Sys2Proof.Machine.execFreqStep opp s
  | .thermalLoopTick temps => Sys2Proof.Machine.execThermalLoopTick temps s
  | .avsTick rail slack => Sys2Proof.Machine.execAvsTick rail slack s
  | .droopDetected die => Sys2Proof.Machine.execDroopDetected die s
  | .stretchEnd die => Sys2Proof.Machine.execStretchEnd die s
  | .regulatorFault rail starts => Sys2Proof.Machine.execRegulatorFault rail starts s
  | .placementAdaptation part ltile => Sys2Proof.Machine.execPlacementAdaptation part ltile s
  | .uncorrectableError kind index location => Sys2Proof.Machine.execUncorrectableError kind index location s
  | .lockstepMismatch standby => Sys2Proof.Machine.execLockstepMismatch standby s
  | .clockLoss => Sys2Proof.Machine.execClockLoss s
  | .thermalShutdown sensor temp => Sys2Proof.Machine.execThermalShutdown sensor temp s
  | .maintLockGrant resource => Sys2Proof.Machine.execMaintLockGrant resource s
  | .autoRepair resource => Sys2Proof.Machine.execAutoRepair resource s
  | .scrubSlice resource corrected bad => Sys2Proof.Machine.execScrubSlice resource corrected bad s
  | .scrubRate resource halve => Sys2Proof.Machine.execScrubRate resource halve s
  | .maintActivityEnd resource result => Sys2Proof.Machine.execMaintActivityEnd resource result s
  | .porstAssert => Sys2Proof.Machine.execPorstAssert s
  | .porstDeassert straps rails => Sys2Proof.Machine.execPorstDeassert straps rails s
  | .deviceReset cause => Sys2Proof.Machine.execDeviceReset cause s
  | .railUndervoltage rail => Sys2Proof.Machine.execRailUndervoltage rail s
  | .bootImageVerify => Sys2Proof.Machine.execBootImageVerify s
  | .bringUpStage hbmFail arrays tiles north south => Sys2Proof.Machine.execBringUpStage hbmFail arrays tiles north south s
  | .flr fn => Sys2Proof.Machine.execFlr fn s
  | .vfEnableChange enable numVfs => Sys2Proof.Machine.execVfEnableChange enable numVfs s
  | .busMasterEnableChange fn on => Sys2Proof.Machine.execBusMasterEnableChange fn on s
  | .msixUnmask fn vector => Sys2Proof.Machine.execMsixUnmask fn vector s
  | .glbTimeRead fn => Sys2Proof.Machine.execGlbTimeRead fn s
  | .glbBadaccessClear fn => Sys2Proof.Machine.execGlbBadaccessClear fn s
  | .irqStatusClear fn value => Sys2Proof.Machine.execIrqStatusClear fn value s
  | .tstCtlWrite fn value => Sys2Proof.Machine.execTstCtlWrite fn value s
  | .barBadAccess fn offset size write => Sys2Proof.Machine.execBarBadAccess fn offset size write s
  | .registerWrite fn offset bytes => Sys2Proof.Machine.execRegisterWrite fn offset bytes s
  | .getVersion port => Sys2Proof.Machine.execGetVersion port s
  | .getCapabilities port => Sys2Proof.Machine.execGetCapabilities port s
  | .negotiateAlgorithms port p384 sha384 => Sys2Proof.Machine.execNegotiateAlgorithms port p384 sha384 s
  | .getDigests port => Sys2Proof.Machine.execGetDigests port s
  | .getCertificate port slot offset length => Sys2Proof.Machine.execGetCertificate port slot offset length s
  | .challenge port slot nonce => Sys2Proof.Machine.execChallenge port slot nonce s
  | .getMeasurements port index sign nonce => Sys2Proof.Machine.execGetMeasurements port index sign nonce s
  | .setEndpointId port eid => Sys2Proof.Machine.execSetEndpointId port eid s
  | .getEndpointId port => Sys2Proof.Machine.execGetEndpointId port s
  | .getMctpVersionSupport port => Sys2Proof.Machine.execGetMctpVersionSupport port s
  | .getMessageTypeSupport port => Sys2Proof.Machine.execGetMessageTypeSupport port s
  | .gettid port => Sys2Proof.Machine.execGettid port s
  | .settid port tid => Sys2Proof.Machine.execSettid port tid s
  | .getpldmversion port type => Sys2Proof.Machine.execGetpldmversion port type s
  | .getpldmtypes port => Sys2Proof.Machine.execGetpldmtypes port s
  | .getpldmcommands port type => Sys2Proof.Machine.execGetpldmcommands port type s
  | .getpdrrepositoryinfo port => Sys2Proof.Machine.execGetpdrrepositoryinfo port s
  | .getpdr port id => Sys2Proof.Machine.execGetpdr port id s
  | .getsensorreading port id => Sys2Proof.Machine.execGetsensorreading port id s
  | .getstatesensorreadings port id => Sys2Proof.Machine.execGetstatesensorreadings port id s
  | .setnumericeffectervalue port id value => Sys2Proof.Machine.execSetnumericeffectervalue port id value s
  | .getnumericeffectervalue port id => Sys2Proof.Machine.execGetnumericeffectervalue port id s
  | .preciseSample tile instr row passes replayed => Sys2Proof.Machine.execPreciseSample tile instr row passes replayed s
  | .hbmRefresh stack bank => Sys2Proof.Machine.execHbmRefresh stack bank s
  | .powerSample watts => Sys2Proof.Machine.execPowerSample watts s
  | .busError who => Sys2Proof.Machine.execBusError who s
  | .readReissue who ok => Sys2Proof.Machine.execReadReissue who ok s
  | .disableTimeout link => Sys2Proof.Machine.execDisableTimeout link s
  | .faultManagerLoss north south => Sys2Proof.Machine.execFaultManagerLoss north south s
  | .railToleranceReached straps => Sys2Proof.Machine.execRailToleranceReached straps s
  | .pcieLinkUp => Sys2Proof.Machine.execPcieLinkUp s
  | .memorySpaceEnableChange fn on => Sys2Proof.Machine.execMemorySpaceEnableChange fn on s
  | .tapInstruction codes balls data => Sys2Proof.Machine.execTapInstruction codes balls data s

end Sys2Proof.Machine
end

