-- ==== Sys2Proof/Machine/Tick.lean ====
section
/-! DEFINITION. One TCLK cycle with no command waiting: time, the clocks' cycle counters (R511, R516, R558), writes in flight that land
(R389, R394), the links' receive buffers and filler flits (R398, R412), staged samples (R567), collectives that waited, packet losses that have become due for report (R423), mailboxes that firmware serves again after a
function-level reset (R377, R537) and operating-point pins that complete (R377). -/

namespace Sys2Proof.Machine

/-- The 4-bit reversal of a number below 16. -/
def rev4 (j : Nat) : Nat := j % 2 * 8 + j / 2 % 2 * 4 + j / 4 % 2 * 2 + j / 8 % 2

/-- The pulses from `p` up to `q` that a throttle level lets through (R516). -/
def pulses (p q level : Nat) : Nat := ((List.range (q - p)).filter (fun i => decide (level ≤ rev4 ((p + i) % 16)))).length

namespace State

/-- The root clocks advance by one TCLK cycle; a stretched one lags by a fifth, its phase being open (R518). -/
def clockTick (s : State) : State :=
  let mul := (oppOf s.weir.opp).rootmul
  let d := s.draw
  let s0 := if s.weir.stretch.any id then d.2 else s
  let gain (i : Nat) : Nat := if s.weir.stretch.getD i false then (4 * mul + d.1 / 5 ^ i % 5) / 5 else mul
  let roots := s.tele.roots.zipIdx.map (fun e => e.1 + gain e.2)
  let aclk := s.tele.aclk.zipIdx.map (fun e =>
    let old := s.tele.roots.getD e.2 0
    if s.weir.emergency.getD e.2 false then e.1 else e.1 + pulses (old / 3) ((old + gain e.2) / 3) (s.weir.throttle e.2))
  { s0 with time := s.time + 1, tele := { s0.tele with roots := roots, aclk := aclk } }

/-- Losses not yet reported, once a millisecond has passed since the last report (R423, R456). -/
def flushDrop (s : State) (code : Nat) : State :=
  let r := SMap.get {} s.dropped code
  let due := match r.last with | none => true | some t => decide (t + msCycles ≤ s.time)
  if r.count = 0 ∨ due = false then s
  else ({ s with dropped := SMap.set {} s.dropped code { last := some s.time } }).eventPF code 0 stOk r.first r.count

/-- The Cascade half takes up to `k` flits of a link; one packet a virtual channel waits in its input, and more stay in the buffer with
their credits (R398, R414, R420). (DESIGN CHOICE, log entry 44) -/
def takeFlits : Nat → State → Nat → State
  | 0, s, _ => s
  | k + 1, s, n =>
    match (s.link n).takeFlit (fun vc => s.arrivals.any (fun a => a.link == some n && a.vc == vc)) with
    | none => s
    | some (l, none) => takeFlits k (s.setLink n l) n
    | some (l, some (vc, p)) => takeFlits k ((s.setLink n l).arrive (some n) vc p) n

/-- The links in one TCLK cycle: each Cascade half takes 2 flits a FCLK cycle from each link, and a link without a flit to send fills its
stream. -/
def linksTick (s : State) : State :=
  let s1 := s.links.foldl (fun s e => takeFlits ((oppOf s.weir.opp).rootmul / 2) s e.1) s
  { s1 with links := SMap.mapVals {} (fun n l => l.fill n s1.devid s1.fuses.stepping) s1.links }

/-- One TCLK cycle. While PORST# is asserted, time stands still. -/
def tick (s : State) : State :=
  if s.boot.porst then s
  else
    let s0 := s.clockTick
    let s1 := if s0.linksUp then s0.linksTick else s0
    if !s1.live then s1
    else
      let s2 := (s1.setReady true).land (fun _ => true)
      let s3 := s2.landSamples.comms.foldl (fun s e => s.collRun e.1) s2.landSamples
      ((s3.flushDrop 0x0405).flushDrop 0x0407).pinsDone

end State

end Sys2Proof.Machine
end

