-- ==== Sys2Proof/WellFormed.lean ====
section
/-! DEFINITION. Well-formed commands: every unit a command names exists (R5, R304, R557), and every fixed-length operand has its
length. A command that is not well formed names a unit that the
device does not have, and cannot happen to it. -/

namespace Sys2Proof

namespace Instr

/-- Tiles T0 to T255 (R5). -/
def okTile (t : Nat) : Bool := decide (t < 256)
/-- Functions and their mailboxes: the PF and VFs 1 to 64 (R5). -/
def okFn (f : Nat) : Bool := decide (f ≤ 64)
/-- Hardware queues (R5). -/
def okQueue (q : Nat) : Bool := decide (q < 16384)
/-- Sluice engines and their channels (R5). -/
def okChan (e c : Nat) : Bool := decide (e < 32) && decide (c < 64)
/-- Rill links (R5). -/
def okLink (l : Nat) : Bool := decide (l < 32)
/-- Communicators (R437). -/
def okComm (c : Nat) : Bool := decide (c < 256)
/-- Fabric IDs (R356). -/
def okDev (d : Nat) : Bool := decide (d < 4096)
/-- Compute dies 0 to 3, I/O dies 4 and 5, as sensors and adaptive rails name them (R517, R523). -/
def okDie (d : Nat) : Bool := decide (d < 6)
/-- Partitions (R32). -/
def okPart (p : Nat) : Bool := decide (p < 16)
/-- Management ports: the two SMBus ports and the DOE mailbox (R551). -/
def okPort (p : Nat) : Bool := decide (p < 3)
/-- Resource codes KIND × 256 + INDEX (R370). -/
def okResource (r : Nat) : Bool :=
  decide (r % 256 < (match r / 256 with | 0 => 256 | 1 => 8 | 2 => 32 | 3 => 32 | 4 => 4 | 5 => 2 | _ => 0))
/-- A 256-byte flit (R412). -/
def okFlit (f : List Byte) : Bool := f.length == 256
/-- A requester names units that exist. -/
def okWho : Requester → Bool
  | .fetch q => okQueue q
  | .launch q _ => okQueue q
  | .channel e c _ => okChan e c
  | .head e c => okChan e c
/-- Host memory lies below 2^64. -/
def okStores (cs : List Host.Cell) : Bool := cs.all (fun c => decide (c.1 < 2 ^ 64))

/-- A command is well formed. -/
def wf : Instr → Bool
  | .loadw tile _ => okTile tile
  | .stream tile _ => okTile tile
  | .packcfg tile _ => okTile tile
  | .gopen tile _ => okTile tile
  | .gclose tile _ => okTile tile
  | .drain tile _ => okTile tile
  | .qexport tile _ => okTile tile
  | .moveCopy tile _ => okTile tile
  | .moveMerge tile _ => okTile tile
  | .moveMergeStandard tile _ => okTile tile
  | .moveStatus tile _ => okTile tile
  | .requant tile _ => okTile tile
  | .cvt tile _ => okTile tile
  | .jet tile _ => okTile tile
  | .sminit tile _ => okTile tile
  | .smterm tile _ => okTile tile
  | .smmerge tile _ => okTile tile
  | .smnorm tile _ => okTile tile
  | .nstat tile _ => okTile tile
  | .nvar tile _ => okTile tile
  | .tload tile _ => okTile tile
  | .nearCopy tile _ => okTile tile
  | .nearAdd tile _ => okTile tile
  | .nearSub tile _ => okTile tile
  | .nearMul tile _ => okTile tile
  | .nearMax tile _ => okTile tile
  | .nearMin tile _ => okTile tile
  | .nearFma tile _ => okTile tile
  | .normrow tile _ => okTile tile
  | .affcol tile _ => okTile tile
  | .nearNeg tile _ => okTile tile
  | .nearAbs tile _ => okTile tile
  | .loop tile _ => okTile tile
  | .branch tile _ => okTile tile
  | .seta tile _ => okTile tile
  | .waitSync tile _ => okTile tile
  | .waitLocal tile _ => okTile tile
  | .signal tile _ => okTile tile
  | .step tile _ => okTile tile
  | .tileEnd tile _ => okTile tile
  | .stepCommit tile => okTile tile
  | .waitTimeout tile => okTile tile
  | .preemptBoundary tile => okTile tile
  | .tileFaultReplay tile _ _ _ => okTile tile
  | .thermalEmergency die _ => okDie die
  | .thermalRestart die _ => okDie die
  | .dblQueueWrite fn queue _ stores => okFn fn && okQueue queue && okStores stores
  | .packetFetch queue => okQueue queue
  | .packetDispatch queue => okQueue queue
  | .kernelLaunch queue _ => okQueue queue
  | .launchStart queue _ => okQueue queue
  | .launchComplete queue _ => okQueue queue
  | .ltimeoutExpiry queue _ => okQueue queue
  | .dma queue _ => okQueue queue
  | .syncSignal queue _ => okQueue queue
  | .syncWait queue _ => okQueue queue
  | .syncWaitTimeout queue _ => okQueue queue
  | .fence queue _ => okQueue queue
  | .digestMark queue _ => okQueue queue
  | .allreduce queue _ => okQueue queue
  | .reduce queue _ => okQueue queue
  | .broadcast queue _ => okQueue queue
  | .allgather queue _ => okQueue queue
  | .reducescatter queue _ => okQueue queue
  | .barrier queue _ => okQueue queue
  | .smreduce queue _ => okQueue queue
  | .contextSave queue _ => okQueue queue
  | .contextRestore queue _ => okQueue queue
  | .packetComplete queue _ => okQueue queue
  | .coaltimeExpiry queue => okQueue queue
  | .mbxGo fn _ stores => okFn fn && okStores stores
  | .mbxCancel fn _ => okFn fn
  | .mbxTake fn => okFn fn
  | .mbxDoneClear fn _ => okFn fn
  | .deferredActivityEnd _ => true
  | .devIdentify fn => okFn fn
  | .devArrays fn => okFn fn
  | .reproKey fn => okFn fn
  | .jetsetLoad fn => okFn fn
  | .bootReport fn => okFn fn
  | .partAssign fn => okFn fn
  | .partDestroy fn => okFn fn
  | .partQuery fn => okFn fn
  | .funcBind fn => okFn fn
  | .funcUnbind fn => okFn fn
  | .qCreate fn => okFn fn
  | .qModify fn => okFn fn
  | .qDestroy fn => okFn fn
  | .qQuery fn => okFn fn
  | .qResume fn => okFn fn
  | .qAbort fn => okFn fn
  | .ctxSize fn => okFn fn
  | .syncReset fn => okFn fn
  | .syncRead fn => okFn fn
  | .syncSignalCmd fn => okFn fn
  | .syncArm fn => okFn fn
  | .syncDisarm fn => okFn fn
  | .slotWrite fn => okFn fn
  | .slotRead fn => okFn fn
  | .map fn _ => okFn fn
  | .unmap fn => okFn fn
  | .mapQuery fn => okFn fn
  | .cstWrite fn => okFn fn
  | .cstRead fn => okFn fn
  | .linkStatus fn => okFn fn
  | .linkDisable fn => okFn fn
  | .linkEnable fn => okFn fn
  | .linkRetrain fn => okFn fn
  | .linkSpare fn => okFn fn
  | .routeWrite fn => okFn fn
  | .routeRead fn => okFn fn
  | .devidSet fn => okFn fn
  | .commCreate fn => okFn fn
  | .commDestroy fn => okFn fn
  | .commQuery fn => okFn fn
  | .windowSet fn => okFn fn
  | .faultRead fn => okFn fn
  | .maintRepair fn => okFn fn
  | .maintLaneSparing fn => okFn fn
  | .maintEqualisation fn => okFn fn
  | .maintScrub fn => okFn fn
  | .maintSelfTest fn => okFn fn
  | .maintStatus fn => okFn fn
  | .maintCancel fn => okFn fn
  | .scrubPeriod fn => okFn fn
  | .errCounts fn => okFn fn
  | .ctrProgram fn => okFn fn
  | .snapshot fn => okFn fn
  | .sampleConfig fn => okFn fn
  | .histConfig fn => okFn fn
  | .histRead fn => okFn fn
  | .attest fn => okFn fn
  | .certRead fn => okFn fn
  | .ownerKeyEnrol fn => okFn fn
  | .ownerKeyRevoke fn => okFn fn
  | .fwStage fn => okFn fn
  | .fwSelect fn => okFn fn
  | .oppList fn => okFn fn
  | .oppPin fn => okFn fn
  | .oppRelease fn => okFn fn
  | .powerCap fn => okFn fn
  | .powerRead fn => okFn fn
  | .debugChallenge fn => okFn fn
  | .debugUnlock fn => okFn fn
  | .faultInject fn => okFn fn
  | .traceConfig fn => okFn fn
  | .debugLock fn => okFn fn
  | .sluiceCopy engine chan _ _ => okChan engine chan
  | .sluiceFill engine chan _ _ => okChan engine chan
  | .sluiceConfig engine chan => okChan engine chan
  | .sluiceDescComplete engine chan => okChan engine chan
  | .sluiceRetry engine chan _ => okChan engine chan
  | .headaddrReread engine chan stores => okChan engine chan && okStores stores
  | .linkDetectDone link => okLink link
  | .trainConverged link => okLink link
  | .alignLocked link lanes => okLink link && (lanes.near ++ lanes.far).all (fun l => decide (l < 9))
  | .linkStateTimeout link => okLink link
  | .markerPeriod link _ => okLink link
  | .markerBlock link lane words => okLink link && decide (lane < 9) && words.length == 8
  | .peerSilent link => okLink link
  | .dataFlit link flit _ => okLink link && okFlit flit
  | .idleFlit link flit _ => okLink link && okFlit flit
  | .linkctlConfig link flit _ => okLink link && okFlit flit
  | .linkctlConfigAck link flit _ => okLink link && okFlit flit
  | .linkctlRecover link flit _ => okLink link && okFlit flit
  | .linkctlResume link flit _ => okLink link && okFlit flit
  | .ackTimeout link => okLink link
  | .flitSilence link => okLink link
  | .laneFailing link lane => okLink link && decide (lane < 9)
  | .laneSpareSwitch link => okLink link
  | .packetForward _ => true
  | .remoteWrite _ => true
  | .remoteSignal _ => true
  | .ack _ => true
  | .notice _ => true
  | .remoteResend dst _ => okDev dst
  | .remoteGiveUp dst _ => okDev dst
  | .collUp _ => true
  | .collDown _ => true
  | .barUp _ => true
  | .barDown _ => true
  | .chunkResend comm => okComm comm
  | .ctimeoutExpiry comm => okComm comm
  | .join _ => true
  | .joinResend comm => okComm comm
  | .lost _ => true
  | .powerLoopTick => true
  | .freqStep opp => decide (opp < 8)
  | .thermalLoopTick _ => true
  | .avsTick rail _ => okDie rail
  | .droopDetected die => okDie die
  | .stretchEnd die => okDie die
  | .regulatorFault rail _ => okDie rail
  | .placementAdaptation part ltile => okPart part && okTile ltile
  | .uncorrectableError kind index _ => decide (index < 256) && okResource (kind * 256 + index)
  | .lockstepMismatch _ => true
  | .clockLoss => true
  | .thermalShutdown sensor _ => decide (sensor < 16)
  | .maintLockGrant resource => okResource resource
  | .autoRepair resource => okResource resource
  | .scrubSlice resource _ _ => okResource resource
  | .scrubRate resource _ => okResource resource
  | .maintActivityEnd resource _ => okResource resource
  | .porstAssert => true
  | .porstDeassert _ _ => true
  | .deviceReset cause => (cause == 3 || cause == 4 || cause == 5)
  | .railUndervoltage rail => decide (rail < 15)
  | .bootImageVerify => true
  | .bringUpStage _ _ _ _ _ => true
  | .flr fn => okFn fn
  | .vfEnableChange _ numVfs => decide (numVfs ≤ 64)
  | .busMasterEnableChange fn _ => okFn fn
  | .msixUnmask fn vector => okFn fn && decide (vector < 128)
  | .glbTimeRead fn => okFn fn
  | .glbBadaccessClear fn => okFn fn
  | .irqStatusClear fn _ => okFn fn
  | .tstCtlWrite fn _ => okFn fn
  | .barBadAccess fn _ _ _ => okFn fn
  | .registerWrite fn _ _ => okFn fn
  | .getVersion port => okPort port
  | .getCapabilities port => okPort port
  | .negotiateAlgorithms port _ _ => okPort port
  | .getDigests port => okPort port
  | .getCertificate port _ _ _ => okPort port
  | .challenge port _ _ => okPort port
  | .getMeasurements port _ _ _ => okPort port
  | .setEndpointId port _ => okPort port
  | .getEndpointId port => okPort port
  | .getMctpVersionSupport port => okPort port
  | .getMessageTypeSupport port => okPort port
  | .gettid port => okPort port
  | .settid port _ => okPort port
  | .getpldmversion port _ => okPort port
  | .getpldmtypes port => okPort port
  | .getpldmcommands port _ => okPort port
  | .getpdrrepositoryinfo port => okPort port
  | .getpdr port _ => okPort port
  | .getsensorreading port _ => okPort port
  | .getstatesensorreadings port _ => okPort port
  | .setnumericeffectervalue port _ _ => okPort port
  | .getnumericeffectervalue port _ => okPort port
  | .preciseSample tile _ _ _ _ => okTile tile
  | .hbmRefresh stack _ => decide (stack < 8)
  | .powerSample _ => true
  | .busError who => okWho who
  | .readReissue who _ => okWho who
  | .disableTimeout link => okLink link
  | .faultManagerLoss _ _ => true
  | .railToleranceReached _ => true
  | .pcieLinkUp => true
  | .memorySpaceEnableChange fn _ => okFn fn
  | .tapInstruction codes _ _ => codes.length == 6

end Instr

end Sys2Proof
end

