-- ==== Sys2Proof/Safety.lean ====
section
/-! DEFINITION. The terms in which claims about the block are made: when a mailbox request stands to be executed (R340, R343, R346 to
R350), when a tile stands to issue an instruction (R214, R215, R223), and the bounds that every step keeps (R514, R516, R520, R521, R523). -/

namespace Sys2Proof.Machine

/-! ### Mailbox requests -/

/-- Who may send a command: any function; a bound function, or the PF for a partition it names; the PF; the PF with debug unlocked
(R347, R375). `p` is the partition it acts on. -/
def State.permits (s : State) (t : Taken) (p : Nat) (who : Who) : Bool :=
  (!t.partv || (t.fn == 0 && (s.part t.partNo).held)) &&
  (match who with
   | .any => true
   | .part => s.actsOn t == some p
   | .pf => t.fn == 0
   | .pfDebug => t.fn == 0 && s.sec.unlocked)

/-- `t` is the oldest taken request of a device that serves commands, and it asks for the command of `c` as R343 and R346 to R349 let
it: its opcode and parameter length, every reserved bit zero, ENQ only where the command honours it, sent by one who may. -/
def State.asks (s : State) (t : Taken) (p : Nat) (c : Cmd) : Bool :=
  s.live && s.taken.head? == some t
    && t.raw 0 == c.op && t.raw 1 == c.plen && decide (t.raw 2 < 2) && t.raw 3 ||| 0x1F01 == 0x1F01 && (!t.enq || c.enq)
    && t.raw 4 == 0 && t.raw 5 == 0 && t.raw 6 == 0 && t.raw 7 == 0
    && c.masks.zipIdx.all (fun m => t.w (8 + m.2) ||| m.1 == m.1)
    && s.permits t p c.who

/-! ### Memory -/

/-- A range can be read now through a device address: every byte of it is open to the agent (R275), and nothing forbids the read: a tile
with stopped clocks, an OPEN group, an uncorrectable line, Bus Master Enable at 0 for host memory (R86, R133, R490, R536). -/
def State.canRead (s : State) (a : Agent) (da n : Nat) : Bool :=
  match s.places a da n false with
  | some ps => (State.barOf s.readBar ps).isNone
  | none => false

/-- A range can be written now: the same for a write. -/
def State.canWrite (s : State) (a : Agent) (da n : Nat) : Bool :=
  match s.places a da n true with
  | some ps => (State.barOf s.writeBar ps).isNone
  | none => false

/-! ### Packets -/

/-- `p` is the packet of a type on which firmware works next, on a device that serves commands, and its header stands: reserved fields
zero, and the sync object of SIG its partition's (R10, R309, R313). -/
def State.presents (s : State) (p : Packet) (type : Nat) : Bool :=
  s.live && s.frontPacket p.queue p.seq type == some p && headerOk p.words
    && (!pSig p.words || (s.part (s.queuePart p.queue)).hasSync (word p.words 2))

/-! ### Tile instructions -/

/-- The tile runs, its clocks run, and the instruction `w` at its program counter may issue now. -/
def State.standsAt (s : State) (ph : Nat) (w : Word128) : Bool := s.live && (s.tile ph).canIssue w

/-- Nothing holds an instruction that could run, and nothing it reads ends its launch: no uncorrectable line is read (R299), it writes
no input of its step and no source of a deferred MOVE (R263, R256), and the journal has room (R265). -/
def Tile.unhindered (t t' : Tile) (rd wr : List Range) : Bool :=
  (t.damage rd).isNone && !hits (inputsSince t.foot t.stepNo) wr && !t.steps.any (fun x => hitsDeferred x t t' wr)
    && !t.journalDue

/-- The tile after an instruction that left it as `t'`: its ranges recorded, the lines it replaced whole sound again, the program counter
past it (R251, R263). -/
def Tile.moved (t' : Tile) (rd wr : List Range) : Tile := (((t'.record rd wr).mend wr).journalTrim 33).advance

/-- The sequencer has somewhere to go on: an instruction of the table below NINSTR, or nothing further to issue (R255, R257). -/
def Tile.settled (t : Tile) : Bool :=
  t.ended || t.wait.isSome || (decide (t.pc < t.ninstr) && definedInstr (t.instrAt t.pc))

/-! ### Bounds of the Weir -/

/-- The operating point is one of R514's eight; throttle levels are at most 8 (R516, R523); the excursion account is at most 2 J, in
units of 10 µJ (R520); the cap lies between 600 W and 1,400 W (R521). -/
def Weir.bounded (w : Weir) : Bool :=
  decide (w.opp < 8) && decide (w.tp ≤ 8) && decide (w.td.length = 4) && w.td.all (fun l => decide (l ≤ 8))
    && decide (w.energy ≤ 200000) && decide (600 ≤ w.cap) && decide (w.cap ≤ 1400)

/-- The commands that act on the Weir: its own loops, what resets the device (a marker period among them, at whose end a reset may have
waited: R598), and the two ways to set the cap or the pin. -/
def movesWeir : Instr → Bool
  | .powerSample _ => true
  | .powerLoopTick => true
  | .freqStep _ => true
  | .thermalLoopTick _ => true
  | .thermalEmergency _ _ => true
  | .thermalRestart _ _ => true
  | .avsTick _ _ => true
  | .droopDetected _ => true
  | .stretchEnd _ => true
  | .regulatorFault _ _ => true
  | .oppPin _ => true
  | .oppRelease _ => true
  | .powerCap _ => true
  | .setnumericeffectervalue _ _ _ => true
  | .porstAssert => true
  | .railUndervoltage _ => true
  | .deviceReset _ => true
  | .bringUpStage _ _ _ _ _ => true
  | .markerPeriod _ _ => true
  | _ => false

end Sys2Proof.Machine
end

