-- ==== Sys2Proof/Certificates/Slice0/Obligations.lean ====
section
/-! DEFINITION. The statements about the block, for the provers. The meaning of a command appears as `exec`; a mailbox request that stands to
be executed as `State.asks`; `State.respond` is the answer that every mailbox command ends with, stated by itself below. -/

open Sys2Proof Sys2Proof.Machine

/-! ### The queue of commands -/

/-- A step takes the command at the front and runs it on the state whose queue is the rest. -/
def Obligations.StepRunsTheFrontCommand : Prop :=
  ∀ (c : Instr) (rest : List Instr) (s : State),
    step { s with pending := c :: rest } = exec c { s with pending := rest }

/-! ### Mailbox: what every command shares -/

/-- An answer (R340, R345, R547): the oldest taken request is gone; the mailbox is not busy, DONE is 1, its response page holds the words
of R345 and then the results; IRQ_STATUS bit 0 is set; where the command carries NOIRQ = 0 vector 0 is raised. Every other function, the
queues, the memories, the tiles and the links are as they were. For a request whose function has not been reset, on a device that has not
failed. Of several failing checks the first in the order of R14 is reported: no other failing check has a status that comes before it, and
where none fails the status is ST_OK.
The model's choices in it: log entry 28. -/
def Obligations.AnswersAndTheirStatus : Prop :=
  (∀ (s : State) (t : Taken) (a : Ans), t.lost = false → s.boot.failed = false →
    let u := s.respond t a
    u.taken = s.taken.drop 1
      ∧ (u.func t.fn).mbx.busy = false ∧ (u.func t.fn).mbx.done = true
      ∧ (u.func t.fn).mbx.resp = Mem.setBytes [] 0
          (wordsBytes [t.opcode + 65536 * t.seq.toNat, a.st.toNat + 65536 * a.qpos, if a.st = stOk then a.res.length else 0, a.err,
            t.time % 2 ^ 32, t.time / 2 ^ 32 % 2 ^ 32, s.time % 2 ^ 32, s.time / 2 ^ 32 % 2 ^ 32] ++ (if a.st = stOk then a.res else []))
      ∧ (u.func t.fn).irqStatus.getLsbD 0 = true
      ∧ (u.func t.fn).mbx.req = (s.func t.fn).mbx.req ∧ (u.func t.fn).bound = (s.func t.fn).bound
      ∧ (∀ g, g ≠ t.fn → u.func g = s.func g)
      ∧ u.queues = s.queues ∧ u.packets = s.packets ∧ u.launches = s.launches ∧ u.hbm = s.hbm ∧ u.hostMem = s.hostMem
      ∧ u.tiles = s.tiles ∧ u.links = s.links ∧ u.sync = s.sync ∧ u.rel = s.rel ∧ u.weir = s.weir ∧ u.pending = s.pending)
  ∧ (∀ (cs : List Chk),
    (∀ c ∈ cs, c.2.1 ≠ stOk) →
    ((∀ c ∈ cs, c.1 = false) → firstChk cs = (stOk, 0x3FF))
      ∧ ((∃ c ∈ cs, c.1 = true) →
          ∃ c ∈ cs, c.1 = true ∧ firstChk cs = c.2 ∧ ∀ d ∈ cs, d.1 = true → statusRank c.2.1 ≤ statusRank d.2.1))

/-! ### Mailbox: device, partitions, Jet sets -/

/-- DEV_IDENTIFY, DEV_ARRAYS, REPRO_KEY, BOOT_REPORT and PART_QUERY are executed and answer the words of R356, R355, R362, R607 and
R357, and change nothing else.
The model's choices in it: log entries 27 and 28.
Completes: devIdentify, devArrays, reproKey, bootReport, partQuery. -/
def Obligations.DeviceQueriesAnswer : Prop :=
  ∀ (s : State) (t : Taken) (p : Nat),
    (s.asks t p { op := 0x0100, who := .any, plen := 0 } = true →
      exec (.devIdentify t.fn) s = .next (s.respond t (okWords
        [s.fuses.partnum.toNat + 65536 * s.fuses.stepping.toNat, s.fuses.serial.toNat % 2 ^ 32, s.fuses.serial.toNat / 2 ^ 32,
         s.boot.fwver.toNat, s.jet.version.toNat, ((List.range 256).filter (fun i => (s.tile i).arrayOn)).length,
         (match s.devid with | some d => d.toNat + 2 ^ 12 | none => 0) + 65536 * t.fn,
         (match (s.func t.fn).bound with | some b => b + 16 | none => 0) + 256 * s.boot.activePair.toNat + 512 * s.boot.standbyOk.toNat
           + 1024 * s.boot.straps.tracesel.toNat + 2048 * s.sec.unlocked.toNat,
         s.flash.ownerCtr.toNat, 0])))
    ∧ (s.asks t p { op := 0x0101, who := .part, plen := 0 } = true →
      exec (.devArrays t.fn) s = .next (s.respond t (okWords
        ((List.range 8).map (fun w => (((List.range 256).filter (fun i => (s.tile i).arrayOn)).filter (fun i => i / 32 == w)).foldl
            (fun m i => m + 2 ^ (i % 32)) 0)
          ++ [((List.range 256).filter (fun i => (s.tile i).arrayOn)).length]))))
    ∧ (s.asks t p { op := 0x0102, who := .part, plen := 8, masks := [7, 7] } = true →
      exec (.reproKey t.fn) s = .next (s.respond t (okWords
        (bytesWords 4 ((sha384 (wordsBytes [0x4B45_5931, s.fuses.stepping.toNat, s.jet.version.toNat, State.keyMode (t.w 8), t.w 9,
            0, 0, 0])).take 16)
          ++ [s.fuses.stepping.toNat, s.jet.version.toNat, State.keyMode (t.w 8), t.w 9]))))
    ∧ (s.asks t p { op := 0x0104, who := .pf, plen := 0 } = true →
      exec (.bootReport t.fn) s = .next (s.respond t (okWords
        [s.boot.cause.toNat + 2 ^ 4 * s.boot.uvrail.toNat + 2 ^ 8 * s.boot.prevfail.toNat + 2 ^ 16 * s.boot.prevclass.toNat
           + 2 ^ 24 * s.boot.recovery.toNat + 2 ^ 25 * s.boot.fwbank.toNat + 2 ^ 26 * s.boot.secDamaged.toNat,
         s.boot.hbmoff.toNat, s.boot.newdis % 512 + 65536 * (s.flash.retired.length % 512), s.boot.epoch.toNat,
         s.boot.tready.toNat % 2 ^ 32, s.boot.tready.toNat / 2 ^ 32])))
    ∧ (s.asks t p { op := 0x0112, who := .part, plen := 0 } = true →
      exec (.partQuery t.fn) s = .next (s.respond t (okWords
        ((s.part p).words ++ [(s.part p).bind.length]
          ++ bytesWords 64 ((s.part p).bind.map (BitVec.ofNat 8) ++ List.replicate (256 - (s.part p).bind.length) 0)))))

/-- PART_ASSIGN and PART_DESTROY move granules where R34 and R358 find nothing against it, and answer; the granules of the descriptor
are then the target's. FUNC_BIND and its UNBIND form bind and release a function.
JETSET_LOAD of an image that can be read and that R190 accepts: the set of the image serves from then on, its digest is the
measured one, and every function is told the new and the old version.
The model's choices in it: log entries 15, 16, 27, 29 and 31.
Completes: jetsetLoad, partAssign, partDestroy, funcBind, funcUnbind. -/
def Obligations.PartitionAndJetsetCommandsExecute : Prop :=
  (∀ (s : State) (t : Taken) (p : Nat),
    (s.asks t p { op := 0x0110, who := .pf, plen := 68, masks :=
        [15, 0xFFFF_FFFF, 0xFFFF_FFFF, 0xFFFF_FFFF, 0xFFFF_FFFF, 0xFFFF_FFFF, 0xFFFF_FFFF, 0xFFFF_FFFF, 0xFFFF_FFFF, 0xFFFF_FFFF,
          0xFFFF_FFFF, 0xFFFF_FFFF, 0xFFFF_FFFF, 0xFFFF_FFFF, 0, 0, 0] } = true →
      (∀ k ∈ s.moveChks (t.w 8) (t.desc 9), k.1 = false) →
      exec (.partAssign t.fn) s = .next ((s.moveGranules (t.w 8) (t.desc 9)).respond t
        (okWords [((s.moveGranules (t.w 8) (t.desc 9)).part (t.w 8)).bind.length])))
    ∧ (s.asks t p { op := 0x0111, who := .pf, plen := 4, masks := [15] } = true →
      t.w 8 ≠ 0 → s.boundFuncs (t.w 8) = [] → (∀ k ∈ s.moveChks 0 ({ s.part (t.w 8) with spare := 0 } : Part), k.1 = false) →
      exec (.partDestroy t.fn) s = .next ((s.moveGranules 0 ({ s.part (t.w 8) with spare := 0 } : Part)).respond t ok))
    ∧ (s.asks t p { op := 0x0113, who := .pf, plen := 8, masks := [0x1F7F, 0xFFFF_FFFF] } = true →
      (t.w 8).testBit 12 = false → t.w 8 % 128 ≤ 64 → (s.part (bits (t.w 8) 8 4)).held = true →
      (∀ g, g < 32 → (t.w 9).testBit g = true → (s.part (bits (t.w 8) 8 4)).hasPage g = true
        ∧ ∀ o, s.pageOwner g = some o → o = t.w 8 % 128) →
      s.funcBusy (t.w 8 % 128) t.fn = false →
      exec (.funcBind t.fn) s = .next (((s.modFunc (t.w 8 % 128) (fun f => { f with bound := some (bits (t.w 8) 8 4) })).assignPages
        (t.w 8 % 128) (t.w 9)).respond t ok))
    ∧ (s.asks t p { op := 0x0113, who := .pf, plen := 8, masks := [0x1F7F, 0xFFFF_FFFF] } = true →
      (t.w 8).testBit 12 = true → t.w 8 % 128 ≤ 64 → bits (t.w 8) 8 4 = 0 → t.w 9 = 0 → s.funcBusy (t.w 8 % 128) t.fn = false →
      exec (.funcUnbind t.fn) s = .next (((s.modFunc (t.w 8 % 128) (fun f => { f with bound := none })).assignPages
        (t.w 8 % 128) 0).respond t ok)))
  ∧ (∀ (s : State) (t : Taken) (p : Nat),
    s.asks t p { op := 0x0103, who := .pf, plen := 12, masks := [0xFFFF_FFFF, 0xFFFF, 0x1_FFFF] } = true → s.actsOn t = some p →
    s.readable (cmdAgent t p) (t.addr 8) (t.w 10) false = true → t.addr 8 % 64 = 0 → s.canRead (cmdAgent t p) (t.addr 8) (t.w 10) = true →
    ∃ (s1 : State) (b : List Byte), s.load (cmdAgent t p) (t.addr 8) (t.w 10) = .ok (s1, b)
      ∧ ((∀ k ∈ s.jetChks b, k.1 = false) →
        ∃ u : State, exec (.jetsetLoad t.fn) s = .next (u.respond t (okWords [(JetImage.set b).version.toNat]))
          ∧ u.jet = JetImage.set b ∧ u.boot.jetdig = sha384 b ∧ u.links = s1.links ∧ u.rel.log = s1.rel.log))

/-! ### Mailbox: queues, sync objects, slots -/

/-- The queue commands of R363 and R364 are executed where the queue is the partition's and nothing of R302, R306, R307 and R364 stands
against it.
The sync and slot commands of R325, R326, R328, R331, R363 and R364 are executed on objects and slots of the partition.
The model's choices in it: log entries 27, 30 and 39.
Completes: qCreate, qModify, qDestroy, qQuery, qResume, qAbort, ctxSize, syncReset, syncRead, syncSignalCmd, syncArm, syncDisarm,
slotWrite, slotRead. -/
def Obligations.QueueSyncAndSlotCommandsExecute : Prop :=
  (∀ (s : State) (t : Taken) (p : Nat),
    (s.asks t p { op := 0x0200, who := .part, plen := 36, masks := ctxMasks } = true →
      (∀ k ∈ s.ctxChks (ctxQueue t) t.fn p, k.1 = false) → (s.part p).hasPage (t.w 8 / 512) = true →
      s.pageOwner (t.w 8 / 512) = some t.fn → (s.queue (t.w 8)).created = false →
      ((ctxQueue t).qtype = 3 → s.eventQueue t.fn = none) →
      exec (.qCreate t.fn) s = .next ((s.setQueue (t.w 8) { ctxQueue t with st := .active, owner := t.fn }).respond t ok))
    ∧ (s.asks t p { op := 0x0201, who := .part, plen := 36, masks := ctxMasks } = true →
      (∀ k ∈ s.ctxChks (ctxQueue t) (s.queue (t.w 8)).owner p, k.1 = false) →
      (s.part p).hasPage (t.w 8 % 2 ^ 14 / 512) = true → (s.queue (t.w 8 % 2 ^ 14)).created = true →
      (ctxQueue t).qtype = (s.queue (t.w 8)).qtype → (ctxQueue t).log2 = (s.queue (t.w 8)).log2 →
      (ctxQueue t).base = (s.queue (t.w 8)).base → ((s.queue (t.w 8)).qtype = 0 → s.running (t.w 8) = false) →
      exec (.qModify t.fn) s = .next ((s.modQueue (t.w 8) (fun q => { q with
        prio := (ctxQueue t).prio, haltOnErr := (ctxQueue t).haltOnErr, cq := (ctxQueue t).cq, dlq := (ctxQueue t).dlq,
        dlv := (ctxQueue t).dlv, vector := (ctxQueue t).vector, vecv := (ctxQueue t).vecv, coalcnt := (ctxQueue t).coalcnt,
        coaltime := (ctxQueue t).coaltime })).respond t ok))
    ∧ (s.asks t p { op := 0x0202, who := .part, plen := 4, masks := [0x3FFF] } = true →
      (s.part p).hasPage (t.w 8 % 2 ^ 14 / 512) = true → (s.queue (t.w 8 % 2 ^ 14)).created = true →
      s.named (t.w 8) = false → ((s.queue (t.w 8)).qtype = 0 → s.running (t.w 8) = false) →
      exec (.qDestroy t.fn) s = .next (({ s.setQueue (t.w 8) {} with
        launches := s.launches.filter (fun l => !(l.queue == t.w 8 && l.ph == .suspended)),
        saved := s.saved.filter (fun x => x.queue != t.w 8) } : State).respond t ok))
    ∧ (s.asks t p { op := 0x0203, who := .part, plen := 4, masks := [0x3FFF] } = true →
      (s.part p).hasPage (t.w 8 % 2 ^ 14 / 512) = true → (s.queue (t.w 8 % 2 ^ 14)).created = true →
      exec (.qQuery t.fn) s = .next (s.respond t (okWords
        ((s.queue (t.w 8)).context ++ [(s.queue (t.w 8)).hostIdx, (s.queue (t.w 8)).devIdx]))))
    ∧ (s.asks t p { op := 0x0204, who := .part, plen := 4, masks := [0x3FFF] } = true →
      (s.part p).hasPage (t.w 8 % 2 ^ 14 / 512) = true → (s.queue (t.w 8 % 2 ^ 14)).created = true →
      (s.queue (t.w 8 % 2 ^ 14)).qtype = 0 → (s.queue (t.w 8)).st = .halted →
      exec (.qResume t.fn) s = .next ((s.modQueue (t.w 8) (fun q => { q with st := .active })).respond t ok))
    ∧ (s.asks t p { op := 0x0205, who := .part, plen := 4, masks := [0x3FFF] } = true →
      (s.part p).hasPage (t.w 8 % 2 ^ 14 / 512) = true → (s.queue (t.w 8 % 2 ^ 14)).created = true →
      (s.queue (t.w 8 % 2 ^ 14)).qtype = 0 →
      exec (.qAbort t.fn) s = .next ((((s.packets.filter (fun k => k.queue == t.w 8 && k.work != .done)).foldl State.abortPacket s).modQueue
          (t.w 8) (fun c => { c with fetched := [], bells := [], devIdx := c.hostIdx, fetchErr := false, retries := 0 })).respond t (okWords
          [(s.packets.filter (fun k => k.queue == t.w 8 && k.work != .done)).length,
           (s.queue (t.w 8)).used + (s.queue (t.w 8)).fetched.length])))
    ∧ (s.asks t p { op := 0x0206, who := .part, plen := 4, masks := [0x7FFF] } = true →
      (s.part p).hasPage (t.w 8 % 2 ^ 14 / 512) = true → (s.queue (t.w 8 % 2 ^ 14)).created = true →
      (s.queue (t.w 8 % 2 ^ 14)).qtype = 0 →
      exec (.ctxSize t.fn) s = .next (s.respond t (okWords
        (let n := match s.launches.find? (fun l => l.queue == t.w 8 % 2 ^ 14 && (l.ph == .running || (l.ph == .ended && l.started))) with
          | some l => ctxSize l ((t.w 8).testBit 14)
          | none => 0
         [n % 2 ^ 32, n / 2 ^ 32])))))
  ∧ (∀ (s : State) (t : Taken) (p : Nat),
    (s.asks t p { op := 0x0210, who := .part, plen := 12, masks := [0x7FFF, m32, m32] } = true →
      (s.part p).hasSync (t.w 8 % 2 ^ 15) = true → s.syncHeld (t.w 8) = false →
      exec (.syncReset t.fn) s = .next ((s.setCounter (t.w 8) (BitVec.ofNat 64 (t.w 9 + 2 ^ 32 * t.w 10))).respond t ok))
    ∧ (s.asks t p { op := 0x0211, who := .part, plen := 4, masks := [0x7FFF] } = true →
      (s.part p).hasSync (t.w 8 % 2 ^ 15) = true →
      exec (.syncRead t.fn) s = .next (s.respond t (okWords
        [(s.counter (t.w 8)).toNat % 2 ^ 32, (s.counter (t.w 8)).toNat / 2 ^ 32])))
    ∧ (s.asks t p { op := 0x0212, who := .part, plen := 12, masks := [0x7FFF, m32, m32] } = true →
      (s.part p).hasSync (t.w 8 % 2 ^ 15) = true →
      exec (.syncSignalCmd t.fn) s = .next ((s.syncAdd (t.w 8) (t.w 9 + 2 ^ 32 * t.w 10)).respond t ok))
    ∧ (s.asks t p { op := 0x0213, who := .part, plen := 12, masks := [0xFFFF, m32, m32] } = true →
      (t.w 8).testBit 15 = false → (s.part p).hasSync (t.w 8 % 2 ^ 15) = true →
      exec (.syncArm t.fn) s = .next (((({ s with arms := s.arms.filter (fun a => a.1 != t.w 8 % 2 ^ 15)
          ++ [(t.w 8 % 2 ^ 15, ({ fn := t.fn, threshold := BitVec.ofNat 64 (t.w 9 + 2 ^ 32 * t.w 10) } : Arm))] } : State).fireArms p
        (t.w 8 % 2 ^ 15))).respond t ok))
    ∧ (s.asks t p { op := 0x0213, who := .part, plen := 12, masks := [0xFFFF, m32, m32] } = true →
      (t.w 8).testBit 15 = true → (s.part p).hasSync (t.w 8 % 2 ^ 15) = true → t.w 9 = 0 → t.w 10 = 0 →
      exec (.syncDisarm t.fn) s = .next (({ s with arms := s.arms.filter (fun a => a.1 != t.w 8 % 2 ^ 15) } : State).respond t ok))
    ∧ (s.asks t p { op := 0x0220, who := .part, plen := 68, masks :=
        [0xFF, 1, m32, m32, m32, m32, m32, 0xFFFF, 0xFFFF, m32, m32, m32, m32, m32, m32, m32, m32] } = true →
      (s.part p).hasSlot (t.w 8) = true → ((t.w 16).testBit 15 = true → (s.part p).hasSync (t.w 16 % 2 ^ 15) = true) →
      (∀ l ∈ s.launches, t.w 8 ∉ l.slots) →
      exec (.slotWrite t.fn) s = .next ((s.setSlot (t.w 8) (Slot.ofWords (fun i => t.w (9 + i)))).respond t ok))
    ∧ (s.asks t p { op := 0x0221, who := .part, plen := 4, masks := [0xFF] } = true → (s.part p).hasSlot (t.w 8) = true →
      exec (.slotRead t.fn) s = .next (s.respond t (okWords (s.slot (t.w 8)).words))))

/-! ### Mailbox: translation and the Channel Scale Tables -/

/-- MAP, UNMAP and MAP_QUERY of 1 to 4,096 pages of a range below 2^38 (R366): a MAP whose range is free and whose HBM pages have
frames makes every page of the range readable at its place; an UNMAP of mapped pages that nothing uses removes them; MAP_QUERY answers
the entry. CST_WRITE and CST_READ of up to 506 entries of the partition write and return them (R151, R367).
The model's choices in it: log entries 27, 29 and 32.
Completes: map, unmap, mapQuery, cstWrite, cstRead. -/
def Obligations.MemoryCommandsExecute : Prop :=
  ∀ (s : State) (t : Taken) (p : Nat),
    (∀ place : List Nat, s.asks t p { op := 0x0300, who := .part, plen := 20, masks := [m32, 0xFFFF, 0x7_1FFF, m32, 0xFFFF] } = true →
      t.w 9 % 65536 < 4096 → ((t.w 10).testBit 18 = false → t.w 11 = 0 ∧ t.w 12 = 0) →
      (mapPages t = 0 → exec (.map t.fn place) s = .next (s.respond t ok))
      ∧ (1 ≤ mapPages t → mapPages t ≤ 4096 → mapVa t % mapUnit t = 0 → mapVa t + mapBytes t ≤ 2 ^ 38 →
      s.rangeMapped p (mapVa t) (mapBytes t) = false →
      ((t.w 10).testBit 18 = true → t.addr 11 % mapUnit t = 0 ∧ t.addr 11 + mapBytes t ≤ 2 ^ 44 →
        exec (.map t.fn place) s = .next ((s.mapIn p (mapVa t) (mapUnit t) (mapBig t) ((t.w 10).testBit 17) true t.fn
          ((List.range (mapPages t)).map (fun j => t.addr 11 + j * mapUnit t))).respond t ok))
      ∧ ∀ frames, (t.w 10).testBit 18 = false →
        s.framesFor p (mapPages t) (mapUnit t) (mapBig t) (mapVa t) place = some frames →
        exec (.map t.fn place) s = .next ((s.mapIn p (mapVa t) (mapUnit t) (mapBig t) ((t.w 10).testBit 17) false t.fn frames).respond t ok)))
    ∧ (s.asks t p { op := 0x0301, who := .part, plen := 12, masks := [m32, 0xFFFF, 0x1_1FFF] } = true →
      t.w 9 % 65536 < 4096 → mapPages t = 0 → exec (.unmap t.fn) s = .next (s.respond t ok))
    ∧ (s.asks t p { op := 0x0301, who := .part, plen := 12, masks := [m32, 0xFFFF, 0x1_1FFF] } = true →
      t.w 9 % 65536 < 4096 → 1 ≤ mapPages t → mapPages t ≤ 4096 → mapVa t % mapUnit t = 0 → mapVa t + mapBytes t ≤ 2 ^ 38 →
      (∀ j, j < mapPages t → ∃ g, s.pageAt p (mapVa t + j * mapUnit t) = some g ∧ g.big = mapBig t) →
      s.mapHeld p (mapVa t) (mapBytes t) = false →
      exec (.unmap t.fn) s = .next ((s.setPart p { s.part p with pages := (s.part p).pages.filter (fun g =>
        decide (65536 * g.1 < mapVa t) || decide (mapVa t + mapBytes t ≤ 65536 * g.1)) }).respond t ok))
    ∧ (s.asks t p { op := 0x0302, who := .part, plen := 8, masks := [m32, 0xFFFF] } = true →
      t.w 9 % 65536 < 4096 → mapVa t < 2 ^ 38 →
      exec (.mapQuery t.fn) s = .next (s.respond t (okWords
        [(s.mapEntry p (mapVa t)).1 % 2 ^ 32, (s.mapEntry p (mapVa t)).1 / 2 ^ 32, (s.mapEntry p (mapVa t)).2])))
    ∧ (s.asks t p { op := 0x0310, who := .part, plen := 16 + 8 * t.w 10, masks := [3, 0x1_FFFF, 0x3FF, 0] } = true →
      t.w 10 ≤ 506 → t.w 9 + t.w 10 ≤ 131072 →
      (∀ i, i < t.w 10 → t.w (13 + 2 * i) % 65536 = 0 ∧ (s.part p).hasCst (t.w 8 % 4) (t.w 9 + i) = true) →
      (t.w 10 ≠ 0 → ∀ a r act, (s.lock (4 * 256 + t.w 8 % 4)).holder = some a → a.kind = .maint r act → act ≠ 4) →
      (t.w 10 ≠ 0 → s.tiles.any (fun e => e.2.running && e.2.part == p && dieOf e.1 == t.w 8 % 4) = false) →
      ∃ u : State, exec (.cstWrite t.fn) s = .next (u.respond t ok)
        ∧ u.cst = (List.range (t.w 10)).foldl (fun m i => SMap.set State.cstReset m (t.w 8 % 4 * 131072 + (t.w 9 + i))
            (BitVec.ofNat 64 (t.w (12 + 2 * i) + 2 ^ 32 * t.w (13 + 2 * i)))) s.cst
        ∧ u.tiles = s.tiles ∧ u.hbm = s.hbm ∧ u.parts = s.parts ∧ u.rel.log = s.rel.log)
    ∧ (s.asks t p { op := 0x0311, who := .part, plen := 12, masks := [3, 0x1_FFFF, 0x3FF] } = true →
      t.w 10 ≤ 506 → t.w 9 + t.w 10 ≤ 131072 →
      (∀ i, i < t.w 10 → (s.part p).hasCst (t.w 8 % 4) (t.w 9 + i) = true) →
      exec (.cstRead t.fn) s = .next (s.respond t (okWords ((List.range (t.w 10)).flatMap (fun i =>
        [(s.cstEntry (t.w 8 % 4) (t.w 9 + i)).toNat % 2 ^ 32, (s.cstEntry (t.w 8 % 4) (t.w 9 + i)).toNat / 2 ^ 32])))))

/-! ### Mailbox: links, routes, communicators, the remote window -/

/-- LINK_STATUS answers the words of R422. LINK_CONTROL acts on a link whose lock is free (R421, R503): DISABLE takes it out of service,
ENABLE moves a DISABLED or DOWN link to DETECT, RETRAIN moves it to DETECT under the lock, SPARE asks for a receive lane's role to move.
The model's choices in it: log entries 27 and 34.
Completes: linkStatus, linkDisable, linkEnable, linkRetrain, linkSpare. -/
def Obligations.LinkCommandsExecute : Prop :=
  ∀ (s : State) (t : Taken) (p : Nat),
    (s.asks t p { op := 0x0400, who := .part, plen := 4, masks := [0x1F] } = true →
      exec (.linkStatus t.fn) s = .next (s.respond t (okWords
        (let l := s.link (t.w 8)
         [l.st.code + 2 ^ 4 * l.lanes + 2 ^ 8 * l.rx.spare.getD 15 + 2 ^ 16 * l.peer.toNat + 2 ^ 28 * l.peerV.toNat,
          l.crcErrs.toNat % 2 ^ 32, l.crcErrs.toNat / 2 ^ 32, l.replays.toNat % 2 ^ 32, l.replays.toNat / 2 ^ 32,
          l.fecs.toNat % 2 ^ 32, l.fecs.toNat / 2 ^ 32]))))
    ∧ (s.asks t p { op := 0x0401, who := .pf, plen := 4, masks := [0x7F1F] } = true →
      s.lockBusy (2 * 256 + t.w 8 % 32) = false →
      let n := t.w 8 % 32
      let action := bits (t.w 8) 8 3
      let lane := bits (t.w 8) 11 4
      let held := s.setLock (2 * 256 + n) { s.lock (2 * 256 + n) with holder := some (lcAct t) }
      let idle : Host.Outcome State Fault Refusal := .next ((s.deferredEvent (lcAct t) stOk (s.link n).report).respond t ok)
      (action = 0 → lane = 0 → exec (.linkDisable t.fn) s =
        if (s.link n).st = .disabled then idle
        else .next ((({ (s.modLink n (fun l => { l with disabling := true })) with acts := s.acts ++ [lcAct t] } : State).linkQuiet n).respond
          t ok))
      ∧ (action = 1 → lane = 0 → exec (.linkEnable t.fn) s =
        if (s.link n).st = .disabled ∨ (s.link n).st = .down then
          .next (({ (s.modLink n (·.detect false)) with acts := s.acts ++ [lcAct t] } : State).respond t ok)
        else idle)
      ∧ (action = 2 → lane = 0 → exec (.linkRetrain t.fn) s =
        .next (({ held.modLink n (·.detect true) with acts := s.acts ++ [lcAct t] } : State).respond t ok))
      ∧ (action = 3 → lane < 9 → (s.link n).rx.spare = some lane → exec (.linkSpare t.fn) s = idle)
      ∧ (action = 3 → lane < 9 → (∃ m, (s.link n).rx.spare = some m ∧ m ≠ lane) → (s.link n).rx.half = false →
        ((s.link n).st = .active ∨ (s.link n).st = .recovery) →
        exec (.linkSpare t.fn) s = .next (({ held.modLink n (fun l =>
            if l.rx.roles.contains lane && l.spreq.isNone then { l with spreq := some lane, spOwn := false } else l)
          with acts := s.acts ++ [lcAct t] } : State).respond t ok)))

/-- ROUTE_WRITE and ROUTE_READ of up to 506 entries (R425, R428), DEVID_SET without communicators (R356, R368), COMM_CREATE of a descriptor that R438
accepts, COMM_DESTROY and COMM_QUERY of one that exists (R439), WINDOW_SET of a range that the partition may write (R368).
The model's choices in it: log entries 27 and 33.
Completes: routeWrite, routeRead, devidSet, commCreate, commDestroy, commQuery, windowSet. -/
def Obligations.FabricCommandsExecute : Prop :=
  ∀ (s : State) (t : Taken) (p : Nat),
    (s.asks t p { op := 0x0410, who := .pf, plen := 16 + 8 * t.w 9, masks := [0xFFF, 0x3FF, 0, 0] } = true →
      t.w 9 ≤ 506 → t.w 8 + t.w 9 ≤ 4096 →
      (∀ i, i < t.w 9 → t.w (13 + 2 * i) < 4 ∧ ((t.w (13 + 2 * i)).testBit 0 = true → t.w (12 + 2 * i) ≠ 0)) →
      exec (.routeWrite t.fn) s = .next (({ s with routes := (List.range (t.w 9)).foldl (fun m i =>
          SMap.set 0 m (t.w 8 + i) (BitVec.ofNat 64 (t.w (12 + 2 * i) + 2 ^ 32 * t.w (13 + 2 * i)))) s.routes } : State).respond t ok))
    ∧ (s.asks t p { op := 0x0411, who := .part, plen := 8, masks := [0xFFF, 0x3FF] } = true → t.w 9 ≤ 506 → t.w 8 + t.w 9 ≤ 4096 →
      exec (.routeRead t.fn) s = .next (s.respond t (okWords ((List.range (t.w 9)).flatMap (fun i =>
        [(SMap.get 0 s.routes (t.w 8 + i)).toNat % 2 ^ 32, (SMap.get 0 s.routes (t.w 8 + i)).toNat / 2 ^ 32])))))
    ∧ (s.asks t p { op := 0x0412, who := .pf, plen := 4, masks := [0xFFF] } = true → s.comms.any (fun c => c.2.isSome) = false →
      exec (.devidSet t.fn) s = .next (((List.range 32).foldl (fun (u : State) n =>
          if (u.link n).st = .config then u.startConfig n else u)
        { s with devid := some (BitVec.ofNat 12 (t.w 8)) }).respond t ok))
    ∧ (s.asks t p { op := 0x0420, who := .part, plen := 16, masks := [0xFF, m32, 0xFFFF, 0xFFFF] } = true →
      (s.part p).hasComm (t.w 8) = true → s.readable (cmdAgent t p) (t.addr 9) (t.w 11) false = true →
      s.canRead (cmdAgent t p) (t.addr 9) (t.w 11) = true →
      ∃ (s1 : State) (b : List Byte), s.load (cmdAgent t p) (t.addr 9) (t.w 11) = .ok (s1, b)
        ∧ ((∀ k ∈ s.commChks t p b, k.1 = false) →
          exec (.commCreate t.fn) s = .next (((s1.setComm (t.w 8) (some (s1.commOfDesc p b))).joinStep (t.w 8)).respond t ok)))
    ∧ (s.asks t p { op := 0x0421, who := .part, plen := 4, masks := [0xFF] } = true → (s.part p).hasComm (t.w 8) = true →
      (s.comm (t.w 8)).isSome = true →
      (∀ k ∈ s.packets, pType k.words = 6 → word k.words 4 % 256 = t.w 8 → s.queuePart k.queue ≠ p) →
      exec (.commDestroy t.fn) s = .next (({ s with comms := SMap.set none s.comms (t.w 8) none } : State).respond t ok))
    ∧ (∀ c : Comm, s.asks t p { op := 0x0422, who := .part, plen := 4, masks := [0xFF] } = true → (s.part p).hasComm (t.w 8) = true →
      s.comm (t.w 8) = some c →
      exec (.commQuery t.fn) s = .next (s.respond t (okWords [c.st.code, c.own.getD 0xFFF, c.nmem, c.lost.length, c.gen])))
    ∧ (s.asks t p { op := 0x0430, who := .pf, plen := 16, masks := [m32, 0xFFFF, 0xFFFF, m32] } = true → s.actsOn t = some p →
      t.w 9 % 65536 < 4096 → s.allowed (cmdAgent t p) (t.addr 8) (65536 * t.w 10) true = true →
      t.w 11 ||| (s.part p).syncgrp.toNat = (s.part p).syncgrp.toNat → (t.w 10 ≠ 0 → t.addr 8 % 65536 = 0) →
      let w : Window := { part := p, fn := t.fn, base := t.addr 8, size := t.w 10, mask := BitVec.ofNat 32 (t.w 11) }
      exec (.windowSet t.fn) s = .next (({ s with window := some w } : State).respond t ok))

/-! ### Mailbox: reliability and maintenance -/

/-- FAULT_READ, MAINT_STATUS and ERR_COUNTS answer the words of R498, R370 and R369; SCRUB_PERIOD sets both periods (R501); MAINT_CANCEL
removes a queued activity. The five maintenance activities of R503: on a resource that offers the activity, and that is not the active
Cretharel pair, a request whose lock is free holds it and starts (R352, R504); one that finds it held is queued where it asks for that,
and answers ST_BUSY with its place.
The model's choices in it: log entries 27, 42 and 51.
Completes: faultRead, maintRepair, maintLaneSparing, maintEqualisation, maintScrub, maintSelfTest, maintStatus, maintCancel,
scrubPeriod, errCounts. -/
def Obligations.ReliabilityAndMaintenanceCommandsExecute : Prop :=
  (∀ (s : State) (t : Taken) (p : Nat),
    (s.asks t p { op := 0x0500, who := .part, plen := 8, masks := [0xFFFF, 0x3F] } = true →
      exec (.faultRead t.fn) s = .next (s.respond t (okWords
        (let seen := if t.fn = 0 then s.rel.log else s.rel.log.filter (fun f => f.part == some p)
         seen.length :: ((seen.drop (t.w 8)).take (t.w 9)).flatMap (·.words)))))
    ∧ (s.asks t p { op := 0x0502, who := .part, plen := 4, masks := [0xFFF] } = true →
      resourceOk (t.w 8 / 256 % 16) (t.w 8 % 256) = true →
      exec (.maintStatus t.fn) s = .next (s.respond t (okWords
        [(match (s.lock (t.w 8)).holder with | some a => 1 + 2 * a.rank | none => 0)
          + 16 * (List.range 8).foldl (fun n i => if (s.lock (t.w 8)).queue.any (fun a => a.rank == i) then n + 2 ^ i else n) 0])))
    ∧ (s.asks t p { op := 0x0503, who := .pf, plen := 8, masks := [0xFFF, 7] } = true →
      resourceOk (t.w 8 / 256 % 16) (t.w 8 % 256) = true → (offers (t.w 8 / 256 % 16)).contains (t.w 9 % 8) = true →
      (s.lock (t.w 8)).queue.any (fun a => a.rank == t.w 9 % 8) = true →
      exec (.maintCancel t.fn) s = .next ((s.setLock (t.w 8)
        ({ s.lock (t.w 8) with queue := (s.lock (t.w 8)).queue.filter (fun a => a.rank != t.w 9 % 8) } : Lock)).respond t ok))
    ∧ (s.asks t p { op := 0x0504, who := .pf, plen := 4, masks := [0xFF] } = true → t.w 8 % 16 ≤ 8 → t.w 8 / 16 ≤ 8 →
      let hbm := if t.w 8 % 16 = 0 then 8 else t.w 8 % 16
      let sram := if t.w 8 / 16 = 0 then 8 else t.w 8 / 16
      exec (.scrubPeriod t.fn) s = .next (({ s with rel := { s.rel with scrubHbm := hbm, scrubSram := sram } } : State).respond t ok))
    ∧ (s.asks t p { op := 0x0505, who := .part, plen := 4, masks := [0xFFF] } = true →
      resourceOk (t.w 8 / 256 % 16) (t.w 8 % 256) = true →
      exec (.errCounts t.fn) s = .next (s.respond t (okWords
        (let c : ErrCount := SMap.get {} s.rel.counts (t.w 8)
         let l := s.link (t.w 8 % 256)
         [if t.w 8 / 256 % 16 = 2 then l.fecs else c.corrected, c.uncorr, c.residue,
           if t.w 8 / 256 % 16 = 2 then l.replays else c.replays].flatMap (fun v => [v.toNat % 2 ^ 32, v.toNat / 2 ^ 32]))))))
  ∧ (∀ (s : State) (t : Taken) (p act : Nat) (c : Instr),
    (act, c) ∈ [(0, Instr.maintRepair t.fn), (1, Instr.maintLaneSparing t.fn), (2, Instr.maintEqualisation t.fn),
      (3, Instr.maintScrub t.fn), (4, Instr.maintSelfTest t.fn)] →
    s.asks t p { op := 0x0501, who := .pf, enq := true, plen := 8, masks := [0xFFF, 7] } = true →
    t.w 9 % 8 = act → resourceOk (t.w 8 / 256 % 16) (t.w 8 % 256) = true → (offers (t.w 8 / 256 % 16)).contains act = true →
    ¬ (t.w 8 / 256 % 16 = 5 ∧ t.w 8 % 256 = s.activeIdx) →
    let a : Act := { fn := some t.fn, opcode := t.opcode, seq := t.seq, kind := .maint (t.w 8) act }
    (s.lockBusy (t.w 8) = false → exec c s = .next (((s.setLock (t.w 8) { s.lock (t.w 8) with holder := some a }).beginMaint (t.w 8)).respond t ok))
      ∧ (s.lockBusy (t.w 8) = true → t.enq = true → (s.lock (t.w 8)).queue.any (fun x => x.rank == act) = false →
          exec c s = .next ((s.setLock (t.w 8) { s.lock (t.w 8) with queue := (s.lock (t.w 8)).queue ++ [a] }).respond t
            { st := stBusy, err := 8, qpos := s.lockPos (t.w 8) act }))
      ∧ (s.lockBusy (t.w 8) = true → t.enq = false →
          exec c s = .next (s.respond t { st := stBusy, err := 8, qpos := s.lockPos (t.w 8) act })))

/-! ### Mailbox: telemetry -/

/-- Telemetry on what the requester may read (R371, R559, R563 to R569): CTR_PROGRAM sets a counter's mode, event and filter; a SNAPSHOT
of length 0 writes nothing, one with room advances the generation and answers at least the bytes of the counters it covers; SAMPLE_CONFIG
sets the sampling of one tile or of all; HIST_CONFIG restarts a histogram with its source; HIST_READ answers it and, where asked, clears
it.
The model's choices in it: log entries 27 and 36.
Completes: ctrProgram, snapshot, sampleConfig, histConfig, histRead. -/
def Obligations.TelemetryCommandsExecute : Prop :=
  ∀ (s : State) (t : Taken) (p : Nat),
    (s.asks t p { op := 0x0600, who := .part, plen := 12, masks := [0xFF_FFFF, 0x3_FFFF, 0x1_FFFF] } = true →
      unitOk (t.w 8 % 65536) = true → 1 ≤ bits (t.w 8) 16 8 → bits (t.w 8) 16 8 ≤ unitCtrs (t.w 8 % 65536 / 4096) →
      bits (t.w 9) 16 2 < 3 →
      (∃ mask, eventMask (t.w 9 % 65536) = some mask ∧ t.w 9 % 65536 / 4096 = t.w 8 % 65536 / 4096
        ∧ t.w 10 % 256 ||| mask = mask) →
      ((t.w 10).testBit 16 = true → t.w 8 % 65536 / 4096 = 0) → s.mayRead t.fn p (t.w 8 % 65536) = true →
      let c : Ctr := ⟨0, bits (t.w 9) 16 2, BitVec.ofNat 16 (t.w 9 % 65536), BitVec.ofNat 32 (t.w 10)⟩
      let ctrs := SMap.set {} s.tele.ctrs (t.w 8 % 65536 * 256 + bits (t.w 8) 16 8) c
      exec (.ctrProgram t.fn) s = .next (({ s with tele := { s.tele with ctrs := ctrs } } : State).respond t ok))
    ∧ (s.asks t p { op := 0x0601, who := .part, plen := 12, masks := [m32, 0xFFFF, m32] } = true →
      (t.w 10 = 0 → exec (.snapshot t.fn) s = .next (s.respond t (okWords [0])))
      ∧ (daSpace (t.addr 8) = 0 ∨ daSpace (t.addr 8) = 4 → t.addr 8 % 64 = 0 →
          64 + 16 * ((s.readUnits t.fn p).map (fun u => unitCtrs (u / 4096) + 1)).sum ≤ t.w 10 →
          s.readable (cmdAgent t p) (t.addr 8)
            (64 + 16 * ((s.readUnits t.fn p).map (fun u => unitCtrs (u / 4096) + 1)).sum) true = true →
          ∃ (u : State) (n : Nat), exec (.snapshot t.fn) s = .next (u.respond t (okWords [n])) ∧ u.tele.snapgen = s.tele.snapgen + 1
            ∧ 64 + 16 * ((s.readUnits t.fn p).map (fun u => unitCtrs (u / 4096) + 1)).sum ≤ n))
    ∧ (s.asks t p { op := 0x0602, who := .part, plen := 16, masks := [0x1FF, 0xFF, 0xFFFF, m32] } = true →
      t.w 10 / 4096 = 0 → (eventMask (t.w 10)).isSome = true → (t.w 8 = 0x1FF ∨ t.w 8 < (s.part p).count) → t.w 9 ≤ 224 →
      (t.w 11 = 0 ∨ 16 ≤ t.w 11) →
      (∀ ph ∈ s.sampled p (t.w 8), (s.tile ph).sampler.samplen = 1024 * t.w 9 ∨ s.launchOn ph = false) →
      exec (.sampleConfig t.fn) s = .next (((s.sampled p (t.w 8)).foldl (fun s ph => s.modTile ph (fun x =>
        let sm := if x.sampler.samplen = 1024 * t.w 9 then x.sampler else { x.sampler with samplen := 1024 * t.w 9, staged := [], buffer := [] }
        { x with sampler := if x.running then { sm with next := some (BitVec.ofNat 16 (t.w 10), t.w 11) }
                            else { sm with event := BitVec.ofNat 16 (t.w 10), period := t.w 11, next := none } })) s).respond t ok))
    ∧ (s.asks t p { op := 0x0603, who := .part, plen := 12, masks := [0x1F, 0xFFFF, 0x3F] } = true →
      (t.w 9 = 0 ∨ ∃ q, histQual (t.w 9 % 256) = some q ∧ t.w 9 / 256 ≤ q) → t.w 10 ≤ 40 →
      let h : Hist := { source := BitVec.ofNat 16 (t.w 9), shift := t.w 10 }
      exec (.histConfig t.fn) s =
        .next ((s.setPart p { s.part p with hists := SMap.set {} (s.part p).hists (t.w 8) h }).respond t ok))
    ∧ (s.asks t p { op := 0x0604, who := .part, plen := 4, masks := [0x3F] } = true →
      let h : Hist := SMap.get {} (s.part p).hists (t.w 8 % 32)
      exec (.histRead t.fn) s = .next ((if (t.w 8).testBit 5 then
          s.setPart p { s.part p with hists := SMap.set {} (s.part p).hists (t.w 8 % 32) { source := h.source, shift := h.shift } }
        else s).respond t (okWords ([h.source.toNat + 65536 * h.shift, 0] ++
          ([h.count, h.sum, h.min, h.max] ++ (List.range 64).map (fun b => SMap.get 0 h.bins b)).flatMap
            (fun v => [v % 2 ^ 32, v / 2 ^ 32 % 2 ^ 32])))))

/-! ### Mailbox: security, debug, power -/

/-- The security commands (R372, R373, R599): ATTEST answers the caller's nonce, the measurements, the key of the default mode and
versions (the signature that follows is the device's own: only its length is stated); CERT_READ answers bytes of the chain;
OWNER_KEY_ENROL and REVOKE, where they are authorised, write and clear a key slot and count; FW_STAGE starts the staging of the bank not
selected; FW_SELECT selects a bank and changes no image.
The model's choices in it: log entries 16, 27, 55 and 56.
Completes: attest, certRead, ownerKeyEnrol, ownerKeyRevoke, fwStage, fwSelect. -/
def Obligations.SecurityCommandsExecute : Prop :=
  ∀ (s : State) (t : Taken) (p : Nat),
    (s.asks t p { op := 0x0700, who := .part, plen := 32, masks := List.replicate 8 m32 } = true →
      ∃ sig : List Nat, exec (.attest t.fn) s = .next (({ s with draws := s.draws + 1 } : State).respond t (okWords
        (t.ws 8 8 ++ wordsOf s.boot.fwdig ++ wordsOf s.boot.jetdig ++ bytesWords 4 (s.reproKey 0 0)
          ++ [s.boot.fwver.toNat, s.boot.svn.toNat + 2 ^ 31 * s.sec.unlocked.toNat] ++ sig))) ∧ sig.length = 24)
    ∧ (s.asks t p { op := 0x0701, who := .part, plen := 8, masks := [0xFFFF, 0xFFF] } = true → t.w 9 ≤ 4060 →
      exec (.certRead t.fn) s = .next (s.respond t
        { res := wordsBytes [Config.certChain.length % 65536] ++ (Config.certChain.drop (t.w 8)).take (t.w 9) }))
    ∧ (s.asks t p { op := 0x0710, who := .pf, plen := 196, masks := 15 :: List.replicate 48 m32 } = true →
      s.boot.secDamaged = false → s.flash.keys.getD (t.w 8 % 4) none = none →
      ((s.noOwner = true ∧ ∀ v ∈ t.ws 33 24, v = 0) ∨ (s.noOwner = false ∧ s.authOk t 25 33 = true)) →
      let keys := s.flash.keys.set (t.w 8 % 4) (some (wordsBytes (t.ws 9 24)))
      let n := s.flash.ownerCtr + 1
      exec (.ownerKeyEnrol t.fn) s = .next
        (({ s with flash := { s.flash with keys := keys, ownerCtr := n }, fuses := { s.fuses with ownerCtr := n } } : State).respond t ok))
    ∧ (s.asks t p { op := 0x0711, who := .pf, plen := 100, masks := 15 :: List.replicate 24 m32 } = true →
      s.boot.secDamaged = false → s.authOk t 1 9 = true →
      let keys := s.flash.keys.set (t.w 8 % 4) none
      let n := s.flash.ownerCtr + 1
      exec (.ownerKeyRevoke t.fn) s = .next
        (({ s with flash := { s.flash with keys := keys, ownerCtr := n }, fuses := { s.fuses with ownerCtr := n } } : State).respond t ok))
    ∧ (s.asks t p { op := 0x0720, who := .pf, plen := 12, masks := [m32, 0xFFFF, m32] } = true → s.actsOn t = some p →
      1 ≤ t.w 10 → t.w 10 ≤ 12 * 2 ^ 20 → s.canRead (cmdAgent t p) (t.addr 8) (t.w 10) = true →
      ∃ (s1 : State) (image : List Byte), s.load (cmdAgent t p) (t.addr 8) (t.w 10) = .ok (s1, image)
        ∧ (let a : Act := { fn := some t.fn, opcode := t.opcode, seq := t.seq, kind := .stage (!s1.flash.selected) image }
           exec (.fwStage t.fn) s = .next (({ s1 with acts := s1.acts ++ [a] } : State).respond t ok)))
    ∧ (s.asks t p { op := 0x0720, who := .pf, plen := 12, masks := [m32, 0xFFFF, m32] } = true → t.w 10 = 0 →
      exec (.fwStage t.fn) s = .next ((s.deferredEvent { fn := some t.fn, opcode := t.opcode, seq := t.seq, kind := .stage false [] } stOk
        0).respond t ok))
    ∧ (s.asks t p { op := 0x0721, who := .pf, plen := 4, masks := [1] } = true →
      ∃ f : Flash, exec (.fwSelect t.fn) s = .next (({ s with flash := f } : State).respond t ok)
        ∧ f.bank0 = s.flash.bank0 ∧ f.bank1 = s.flash.bank1 ∧ f.keys = s.flash.keys ∧ f.selected = (t.w 8 == 1))

/-- The debug commands (R375, R376): DEBUG_CHALLENGE keeps and answers a fresh nonce of 32 bytes; DEBUG_UNLOCK with the owner's signature
over the nonce and the serial number unlocks and uses the nonce up; FAULT_INJECT has the effect of the fault it names on the resource it
names; TRACE_CONFIG sets the trace where its strap is set; DEBUG_LOCK locks again and ends the test registers.
The model's choices in it: log entries 16, 27 and 55.
Completes: debugChallenge, debugUnlock, faultInject, traceConfig, debugLock. -/
def Obligations.DebugCommandsExecute : Prop :=
  ∀ (s : State) (t : Taken) (p : Nat),
    (s.asks t p { op := 0x0900, who := .pf, plen := 0 } = true →
      ∃ n : List Byte, n.length = 32 ∧ exec (.debugChallenge t.fn) s = .next
        (({ s with draws := s.draws + 1, sec := { s.sec with nonce := some n } } : State).respond t (okWords (bytesWords 8 n))))
    ∧ (∀ key n, s.asks t p { op := 0x0901, who := .pf, plen := 100, masks := 3 :: List.replicate 24 m32 } = true →
      s.ownerKey (t.w 8) = some key → s.sec.nonce = some n →
      ecdsaVerify key (wordsBytes (t.ws 9 24)) (n ++ leBytes 8 s.fuses.serial.toNat) = true →
      exec (.debugUnlock t.fn) s = .next (({ s with sec := { unlocked := true, nonce := none } } : State).respond t ok))
    ∧ (s.asks t p { op := 0x0902, who := .pfDebug, plen := 16, masks := [0xFFF, 15, m32, 0xFFFF] } = true →
      resourceOk (t.w 8 / 256 % 16) (t.w 8 % 256) = true →
      (t.w 9 = 0 → (t.w 8 / 256 % 16 = 0 ∨ t.w 8 / 256 % 16 = 3 ∨ t.w 8 / 256 % 16 = 4 ∨ t.w 8 / 256 % 16 = 5) →
        exec (.faultInject t.fn) s = .next ((s.corrected (t.w 8 / 256 % 16) (t.w 8 % 256) 1).respond t ok))
      ∧ (t.w 9 = 3 → t.w 8 / 256 % 16 = 2 →
        exec (.faultInject t.fn) s = .next ((s.modLink (t.w 8 % 256 % 32) (fun l => { l with corrupt := true })).respond t ok))
      ∧ (t.w 9 = 1 → (t.w 8 / 256 % 16 = 0 ∨ t.w 8 / 256 % 16 = 3 ∨ t.w 8 / 256 % 16 = 4 ∨ t.w 8 / 256 % 16 = 5) →
        exec (.faultInject t.fn) s =
          .next ((s.uncorrectable (t.w 8 / 256 % 16) (t.w 8 % 256) (t.addr 10) true).respond t ok))
      ∧ (t.w 9 = 2 → t.w 8 / 256 % 16 = 0 →
        let ph := t.w 8 % 256
        ((s.tile ph).stopped = false → (s.tile ph).running = true →
          exec (.faultInject t.fn) s = .next ((s.replayTile ph 5 true [] 0 id).respond t ok))
        ∧ ((s.tile ph).stopped = false → (s.tile ph).running = false → exec (.faultInject t.fn) s = .next (s.respond t ok))
        ∧ ((s.tile ph).stopped = true → exec (.faultInject t.fn) s = .next
            ((s.setTile ph { s.tile ph with held := (s.tile ph).held ++ [.checker 5 true []] }).respond t ok)))
      ∧ (t.w 9 = 4 → t.w 8 / 256 % 16 = 5 →
        let rest : State := { s with taken := s.taken.drop 1 }
        exec (.faultInject t.fn) s = .next (({ rest.pairFails (t.w 8 % 256 != s.activeIdx) 7 with taken := s.taken } : State).respond t ok))
      ∧ (t.w 9 = 5 → t.w 8 / 256 % 16 = 1 →
        exec (.faultInject t.fn) s = .next ((s.uncorrectable 1 (t.w 8 % 256) (t.addr 10) true).respond t ok)))
    ∧ (s.asks t p { op := 0x0903, who := .pfDebug, plen := 8, masks := [1, m32] } = true → s.boot.straps.tracesel = true →
      let tele := { s.tele with trace := t.w 8 == 1, traceFilter := BitVec.ofNat 32 (t.w 9) }
      exec (.traceConfig t.fn) s = .next (({ s with tele := tele } : State).respond t ok))
    ∧ (s.asks t p { op := 0x0904, who := .pf, plen := 0 } = true →
      exec (.debugLock t.fn) s = .next
        (({ s with sec := { s.sec with unlocked := false }, tele := { s.tele with tstOn := false } } : State).respond t ok))

/-- The power commands of R374: OPP_LIST answers the eight points of R514; OPP_PIN of a point that the cap covers holds its voltage and
stops the throttles (R525), answered at once where no tile runs and otherwise when every tile has switched (R132, R377); RELEASE resumes
the loops; POWER_CAP sets a cap from 600 W to 1,400 W (R521); POWER_READ answers measurements. The model's choices in it: log entries 7,
27 and 52. Completes: oppList, oppPin, oppRelease, powerCap, powerRead. -/
def Obligations.PowerCommandsExecute : Prop :=
  ∀ (s : State) (t : Taken) (p : Nat),
    (s.asks t p { op := 0x0800, who := .part, plen := 0 } = true →
      exec (.oppList t.fn) s = .next (s.respond t (okWords (8 :: opps.flatMap (·.words)))))
    ∧ (s.asks t p { op := 0x0801, who := .pf, plen := 4, masks := [0x1F] } = true → t.w 8 < 8 →
      (oppOf (t.w 8)).pmax ≤ s.weir.cap → (∀ l ∈ s.weir.td, l = 0) → (∀ e ∈ s.weir.emergency, e = false) →
      (∀ m ∈ s.weir.mute, m = false) → ¬ (s.weir.pinned = true ∧ s.weir.opp = t.w 8) →
      ∃ u : State, exec (.oppPin t.fn) s = .next (if s.tiles.any (fun e => e.2.running) = true then
          ({ u with taken := u.taken.drop 1, pinWait := u.pinWait ++ [t] } : State) else u.respond t ok)
        ∧ u.taken = s.taken ∧ u.pinWait = s.pinWait ∧ u.weir.opp = t.w 8 ∧ u.weir.pinned = true ∧ u.weir.tp = 0
        ∧ u.weir.energy = 0 ∧ u.weir.cap = s.weir.cap ∧ (∀ v ∈ u.weir.volts, v = (oppOf (t.w 8)).vpin))
    ∧ (s.asks t p { op := 0x0801, who := .pf, plen := 4, masks := [0x1F] } = true → t.w 8 < 8 →
      (oppOf (t.w 8)).pmax ≤ s.weir.cap → (∀ l ∈ s.weir.td, l = 0) → (∀ e ∈ s.weir.emergency, e = false) →
      s.weir.pinned = true → s.weir.opp = t.w 8 → exec (.oppPin t.fn) s = .next (s.respond t ok))
    ∧ (s.asks t p { op := 0x0801, who := .pf, plen := 4, masks := [0x1F] } = true → t.w 8 = 16 →
      exec (.oppRelease t.fn) s = .next ((if s.weir.pinned then
        ({ s with weir := { s.weir with pinned := false, energy := 0, calm := 0, hotTp := 0 } } : State) else s).respond t ok))
    ∧ (s.asks t p { op := 0x0802, who := .pf, plen := 4, masks := [0x7FF] } = true → 600 ≤ t.w 8 → t.w 8 ≤ 1400 →
      ∃ u : State, exec (.powerCap t.fn) s = .next (u.respond t ok) ∧ u.weir.cap = t.w 8 ∧ u.weir.opp = s.weir.opp
        ∧ ((oppOf s.weir.opp).pmax ≤ t.w 8 → u = { s with weir := { s.weir with cap := t.w 8 } })
        ∧ (t.w 8 < (oppOf s.weir.opp).pmax → u.weir.pinned = false))
    ∧ (s.asks t p { op := 0x0803, who := .part, plen := 0 } = true →
      ∃ mean peak hot aclk : Nat, exec (.powerRead t.fn) s = .next (({ s with draws := s.draws + 1 } : State).respond t
          (okWords [mean, peak, hot, aclk]))
        ∧ (100 ≤ s.weir.samples.length → ∃ r, r < 100 ∧ mean = ((s.weir.samples.take 100).sum + r) / 100 % 2048)
        ∧ (∀ m, s.weir.samples.max? = some m → peak = m % 2048))

/-! ### The mailbox protocol -/

/-- MBX_DOORBELL and the take (R338, R340, R341): GO on a ready, idle mailbox submits its request; on a busy one it only sets OVERRUN; CANCEL of a
request not taken answers ST_ABORTED; a request in turn is copied and taken; host software clears DONE and OVERRUN.
A deferred activity that has ended lets go of its link's lock and writes its end event; a staged image is in its bank (R354, R421, R599).
The model's choices in it: log entries 27 and 34.
Completes: mbxGo, mbxCancel, mbxTake, mbxDoneClear, deferredActivityEnd. -/
def Obligations.MailboxHandshakeAndDeferredEnds : Prop :=
  (∀ (s : State) (fn : Nat) (v : BitVec 32), (s.func fn).present = true → (s.func fn).mse = true →
    let w : State := s.count State.unitPcie 0x003 1 1 0
    (∀ stores : List Host.Cell, v.toNat.testBit 16 = true →
      let m := stores.foldl (fun (m : Mem) c => m.setByte c.1 c.2) s.hostMem
      (v.toNat.testBit 17 = false → (s.func fn).mbx.busy = false → (s.func fn).mbx.ready = true →
        exec (.mbxGo fn v stores) s = .next (({ w with hostMem := m, gos := s.gos ++ [fn] } : State).modFunc fn (fun f =>
          let b := { f.mbx with busy := true, taken := false, done := false, seq := BitVec.ofNat 16 v.toNat }
          { f with mbx := b })))
      ∧ ((v.toNat.testBit 17 = true ∨ (s.func fn).mbx.busy = true ∨ (s.func fn).mbx.ready = false) →
        exec (.mbxGo fn v stores) s = .next (({ w with hostMem := m } : State).modFunc fn (fun f =>
          { f with mbx := { f.mbx with overrun := true } }))))
    ∧ (v.toNat.testBit 17 = true → v.toNat.testBit 16 = false → (s.func fn).mbx.busy = true → (s.func fn).mbx.taken = false →
      exec (.mbxCancel fn v) s =
        .next (({ w with gos := s.gos.filter (· != fn) } : State).answer fn 0 (s.func fn).mbx.seq 0 false { st := stAborted }))
    ∧ (∀ (rest : List Nat) (t : Taken), s.live = true → s.gos = fn :: rest →
      t = { fn := fn, seq := (s.func fn).mbx.seq, words := (List.range 1024).map (fun i => (s.func fn).mbx.req.word 0 i), time := s.time } →
      (knownOpcode t.opcode = true →
        exec (.mbxTake fn) s = .next (({ s with gos := rest, taken := s.taken ++ [t] } : State).modFunc fn (fun f =>
          { f with mbx := { f.mbx with taken := true } })))
      ∧ (knownOpcode t.opcode = false →
        exec (.mbxTake fn) s = .next ((({ s with gos := rest } : State).modFunc fn (fun f =>
          { f with mbx := { f.mbx with taken := true } })).answer fn t.opcode t.seq t.time t.noirq { st := stBadOpcode, err := 0 })))
    ∧ exec (.mbxDoneClear fn v) s = .next (w.modFunc fn (fun f =>
        let b := { f.mbx with done := f.mbx.done && !v.toNat.testBit 18, overrun := f.mbx.overrun && !v.toNat.testBit 19 }
        { f with mbx := b })))
  ∧ (∀ (s : State) (i : Nat) (a : Act), s.live = true → s.acts[i]? = some a →
    (∀ (n action lane : Nat) (st : Word16), a.kind = .link n action lane → linkActionEnd (s.link n) action lane = some st →
      let gone : State := { s with acts := s.acts.eraseIdx i }
      exec (.deferredActivityEnd i) s = .next ((if (s.lock (2 * 256 + n)).holder = some a then gone.endMaint (2 * 256 + n) st 0
        else gone).deferredEvent a st (s.link n).report))
    ∧ (∀ (bank : Bool) (image : List Byte), a.kind = .stage bank image →
      exec (.deferredActivityEnd i) s = .next (({ s with acts := s.acts.eraseIdx i, flash :=
          if bank then { s.flash with bank1 := Mem.setBytes [] 0 image } else { s.flash with bank0 := Mem.setBytes [] 0 image } }
            : State).deferredEvent a stOk 0)))

/-! ### Queues and packets -/

/-- The Queue Manager (R303, R305, R308, R309, R322). A doorbell value of a page assigned to the function that R305 accepts becomes the host's
index, and each new entry of a submission queue keeps the time of its doorbell; one that R305 rejects moves nothing and writes event
0x0202; one equal to the index changes nothing. A fetch reads the entry at the device's index of the queue whose turn it is. A dispatch
takes the oldest fetched packet. A packet that is done leaves, and ends with its completion. COALTIME raises the vector.
The model's choices in it: log entries 38 and 39.
Completes: dblQueueWrite, packetFetch, packetDispatch, packetComplete, coaltimeExpiry. -/
def Obligations.QueueManagerRuns : Prop :=
  ∀ (s : State) (q : Nat), s.live = true →
    (∀ (fn : Nat) (v : BitVec 64) (stores : List Host.Cell), (s.func fn).present = true → (s.func fn).mse = true → q < 16384 →
      s.pageOwner (q / 512) = some fn →
      let c := s.queue q
      let n := v.toNat % 2 ^ 21
      let w : State := ((s.hostStores stores).count State.unitPcie 0x003 1 1 0).count State.unitQueues 0x001 1 1 0
      let sound := c.created = true ∧ bits v.toNat 21 11 = 0 ∧ bits v.toNat 53 11 = 0 ∧ n < 2 * c.size
        ∧ (if c.qtype = 0 then c.dist n c.devIdx else c.dist c.devIdx n) ≤ c.size
      (sound → n ≠ c.hostIdx → c.qtype = 0 → exec (.dblQueueWrite fn q v stores) s =
        .next (w.setQueue q { c with hostIdx := n, bells := c.bells ++ List.replicate (c.dist n c.hostIdx) s.time }))
      ∧ (sound → n ≠ c.hostIdx → c.qtype ≠ 0 → c.waiting = [] → c.lost = 0 → exec (.dblQueueWrite fn q v stores) s =
        .next (w.setQueue q (if ({ c with hostIdx := n } : Queue).used = 0 then { c with hostIdx := n, unrep := 0 }
          else { c with hostIdx := n })))
      ∧ (sound → n = c.hostIdx → exec (.dblQueueWrite fn q v stores) s = .next w)
      ∧ (¬ sound → ∃ u : State, exec (.dblQueueWrite fn q v stores) s = .next u ∧ u.packets = s.packets
          ∧ ((∀ f, s.eventQueue f ≠ some q) → u.queue q = c)))
    ∧ (s.turnOf q = true → s.canRead (s.ringAgent (s.queue q)) ((s.queue q).entry (s.queue q).devIdx) 64 = true →
      ∃ (s1 : State) (bs : List Byte),
        ({ s with served := s.served.set (s.queue q).prio q } : State).load (s.ringAgent (s.queue q)) ((s.queue q).entry (s.queue q).devIdx)
          64 = .ok (s1, bs)
        ∧ (let c := s.queue q
           let entry := (c.pktseq, bytesWords 16 bs, c.bells.headD s.time)
           exec (.packetFetch q) s = .next (s1.setQueue q { c with
             devIdx := c.next c.devIdx, pktseq := c.pktseq + 1, retries := 0, fetchErr := false, bells := c.bells.drop 1,
             fetched := c.fetched ++ [entry] })))
    ∧ (∀ (seq : BitVec 32) (ws : List Nat) (bell : Nat) (rest : List (BitVec 32 × List Nat × Nat)),
      (s.queue q).fetched = (seq, ws, bell) :: rest → s.dispatchable q = true → s.packets.length < 1024 →
      (∀ e ∈ s.queues, e.2.prio ≤ (s.queue q).prio ∨ s.dispatchable e.1 = false) → definedPacket ws = true →
      let p : Packet := { queue := q, seq := seq, words := ws, tdisp := s.time, work := .inbox, status := stOk }
      exec (.packetDispatch q) s = .next ((({ s.setQueue q { s.queue q with fetched := rest } with packets := s.packets ++ [p] } : State).count
        State.unitQueues 0x003 1 1 0).interval (s.queuePart q) 0x01 (pType ws) (s.time - bell)))
    ∧ (∀ (seq : BitVec 32) (p : Packet), s.packet? q seq = some p → p.work = .done →
      exec (.packetComplete q seq) s = .next (s.complete p)
        ∧ (pSig p.words = false → s.launchEnded p = none →
            (s.complete p).packets = s.packets.filter (fun x => !(x.queue == p.queue && x.seq == p.seq))))
    ∧ ((s.queue q).created = true → (s.queue q).vecv = true → (s.queue q).qtype ≠ 0 → (s.queue q).coaltime ≠ 0 → (s.queue q).unrep ≠ 0 →
      exec (.coaltimeExpiry q) s = .next ((s.setQueue q { s.queue q with unrep := 0 }).raise (s.queue q).owner (s.queue q).vector))

/-- SYNC_SIGNAL, SYNC_WAIT and its limit, FENCE, DIGEST_MARK and DMA packets whose fields and objects R316 and R317 accept take their effect.
Completes: dma, syncSignal, syncWait, syncWaitTimeout, fence, digestMark. -/
def Obligations.SimplePacketsExecute : Prop :=
  ∀ (s : State) (p : Packet),
    (s.presents p 3 = true → withinMasks p.words [0x7FF, m32, 0x7FFF, m32, 0x0FFF_FFFF, m32, m32] = true →
      let obj := word p.words 4 % 2 ^ 15
      let dev := bits (word p.words 4) 16 12
      ((word p.words 4).testBit 15 = false → dev = 0 → (s.part (s.queuePart p.queue)).hasSync obj = true →
        exec (.syncSignal p.queue p.seq) s = .next ((s.syncAdd obj (word64 p.words 5)).finish p.queue p.seq stOk 0))
      ∧ ((word p.words 4).testBit 15 = true → s.canRequest dev = true →
        exec (.syncSignal p.queue p.seq) s = .next ((s.modPacket p.queue p.seq (fun x => { x with work := .remote })).request dev 2 obj
          (word64 p.words 5) [] (.packet p.queue p.seq) p.queue)))
    ∧ (s.presents p 4 = true → withinMasks p.words [0x7FF, m32, 0x7FFF, m32, 0x7FFF, m32, m32, m32] = true →
      (s.part (s.queuePart p.queue)).hasSync (word p.words 4 % 2 ^ 15) = true →
      let v := (s.counter (word p.words 4 % 2 ^ 15)).toNat
      exec (.syncWait p.queue p.seq) s = .next (if word64 p.words 5 ≤ v then s.finish p.queue p.seq stOk v
        else s.modPacket p.queue p.seq (fun x => { x with work := .wait (word p.words 4 % 2 ^ 15) (BitVec.ofNat 64 (word64 p.words 5)) })))
    ∧ (∀ (obj : Nat) (target : BitVec 64), s.live = true → s.packet? p.queue p.seq = some p → p.work = .wait obj target →
      word p.words 7 ≠ 0 →
      exec (.syncWaitTimeout p.queue p.seq) s = .next (s.finish p.queue p.seq stTimeout (s.counter obj).toNat))
    ∧ (s.presents p 5 = true → withinMasks p.words [0x7FF, m32, 0x7FFF, m32] = true →
      exec (.fence p.queue p.seq) s =
        .next ((s.land (fun f => s.flights.any (fun g => g.queue == p.queue && f.sameLine g))).modPacket p.queue p.seq (fun x => { x with work := .fence })))
    ∧ (s.presents p 7 = true → withinMasks p.words [0x7FF, m32, 0x7FFF, m32, m32, m32] = true → (s.queue p.queue).dlv = true →
      exec (.digestMark p.queue p.seq) s = .next ((s.pushRecord (s.queue p.queue).dlq (wordsBytes
        [0x82 + 65536 * 3, word p.words 1, p.queue, p.seq.toNat, word p.words 4, word p.words 5, 0, 0, 0, 0, 0, 0, 0, 0, 0, 0])).modPacket
        p.queue p.seq (fun x => { x with work := .mark })))
    ∧ (s.presents p 2 = true → withinMasks p.words [0x7FF, m32, 0x7FFF, m32, 0x1FFF, m32, 0xFFFF, 0xFFFF] = true →
      (s.part (s.queuePart p.queue)).hasEngine (word p.words 4 % 32) = true →
      s.readable { part := s.queuePart p.queue, fn := (s.queue p.queue).owner } (addr48 p.words 5) (64 * word p.words 7) false = true →
      (word p.words 7 = 0 → exec (.dma p.queue p.seq) s = .next (s.finish p.queue p.seq stOk 0))
      ∧ (1 ≤ word p.words 7 → addr48 p.words 5 % 64 = 0 → s.rel.sluiceOut.contains (word p.words 4 % 32) = false →
      let k := word p.words 4 % 32 * 64 + bits (word p.words 4) 5 6
      let c : ChanPkt := { queue := p.queue, seq := p.seq, desc := addr48 p.words 5, count := word p.words 7, idx := 0,
                           pclass := bits (word p.words 4) 11 2, part := s.queuePart p.queue, fn := (s.queue p.queue).owner }
      exec (.dma p.queue p.seq) s = .next (((s.modPacket p.queue p.seq (fun x => { x with work := .dma })).modChan k (fun x =>
        { x with queue := x.queue ++ [c] })).serve k)))

/-- A kernel launch (R267 to R270, R311, R315, R332, R475): a packet whose header, slots and addresses stand becomes a launch that waits;
one that may start runs from then on; one whose tiles have committed their last step is collected, and its packet ends once its
records are in the log; LTIMEOUT ends a running one with ST_TIMEOUT.
The model's choices in it: log entry 25.
Completes: kernelLaunch, launchStart, launchComplete, ltimeoutExpiry. -/
def Obligations.LaunchesExecute : Prop :=
  ∀ (s : State),
    (∀ (p : Packet) (s1 s2 : State) (hb lb : List Byte), s.presents p 1 = true →
      let fn := (s.queue p.queue).owner
      let a : Agent := { part := s.queuePart p.queue, fn := fn }
      let h := bytesWords 16 hb
      let n := word p.words 11 % 512
      let slots := lb.map (·.toNat)
      withinMasks p.words State.launchMasks = true → n ≤ 256 → s.readable a (addr48 p.words 4) 64 false = true →
      s.load a (addr48 p.words 4) 64 = .ok (s1, hb) → s1.headerStatus a.part h = stOk →
      (if n = 0 then s2 = s1 ∧ lb = [] else s1.readable a (addr48 p.words 12) n false = true ∧
        s1.load a (addr48 p.words 12) n = .ok (s2, lb)) →
      s2.slotStatus a.part h (word p.words 11 / 65536) slots = stOk → s2.addressStatus a p.words h = stOk →
      exec (.kernelLaunch p.queue p.seq) s = .next (s2.addLaunch p a.part fn h slots)
        ∧ (s2.addLaunch p a.part fn h slots).launches.map (fun l => (l.queue, l.seq, l.slots, l.ninstr))
            = s2.launches.map (fun l => (l.queue, l.seq, l.slots, l.ninstr)) ++ [(p.queue, p.seq, slots, kNinstr h)])
    ∧ (∀ (q : Nat) (seq : BitVec 32) (l : Launch), s.live = true → s.launch? q seq = some l →
      let s0 := if s.tilesFree l.part then s.dropDue l.part else s
      (s0.startable l = true → l.restore = none → exec (.launchStart q seq) s = .next (s0.startLaunch l))
      ∧ (l.collected = false → s.launchDone l = true → ∃ u : State, exec (.launchComplete q seq) s = .next u
          ∧ (u = s.collect l ∨ ∃ l1, (s.collect l).launch? q seq = some l1 ∧ u = (s.collect l).closeLaunch l1))
      ∧ (∀ (s1 s2 s3 : State) (code data args : List Byte), s.rel.dueTiles = [] → s.startable l = true → l.restore = none →
          (s.tilesOf l.part l.nltile).any (fun t => s.rel.cstOut.contains (dieOf t)) = false →
          s.load { part := l.part, fn := l.fn } (l.binaddr + l.codeoff) (16 * l.ninstr) = .ok (s1, code) →
          s1.load { part := l.part, fn := l.fn } (l.binaddr + l.dataoff) l.datalen = .ok (s2, data) →
          s2.load { part := l.part, fn := l.fn } l.argaddr l.arglen = .ok (s3, args) →
          ∃ u : State, exec (.launchStart q seq) s = .next u
            ∧ (∃ m ∈ u.launches, m.queue = q ∧ m.seq = seq ∧ m.started = true)
            ∧ (∀ ph, s.tilesOf l.part l.nltile = [ph] → 0 < l.ninstr → definedInstr (SMap.get 0 (codeOf code) 0) = true →
                (u.tile ph).running = true ∧ (u.tile ph).pc = 0 ∧ (u.tile ph).ninstr = l.ninstr ∧ (u.tile ph).part = l.part
                  ∧ (u.tile ph).ltile = 0 ∧ (u.tile ph).code = codeOf code ∧ (u.tile ph).mode = l.mode))
      ∧ (l.collected = true → exec (.launchComplete q seq) s = .next (s.closeLaunch l)
          ∧ (l.records.any (fun r => (s.queue l.queue).dlv && s.held l.queue r) = false → l.restore = none →
              ∀ x ∈ (s.closeLaunch l).packets, x.queue = l.queue → x.seq = l.seq →
                x.work = .done ∧ x.status = l.status ∧ x.reason = l.reason ∧ x.ltile = l.ltile ∧ x.instr = l.instr))
      ∧ (l.ph = .running → l.ltimeout ≠ 0 → exec (.ltimeoutExpiry q seq) s = .next (s.endLaunch l stTimeout 0 0 0)))

/-- CONTEXT_SAVE asks every tile of the running launch of its queue to stop at its boundary (R318); a tile that reaches it, between two
instructions or inside the one at its program counter (R129), waits to be saved, and with the last of them the launch is saved;
CONTEXT_RESTORE of an area that R319 and R485 accept makes the saved launch wait for its tiles.
The model's choices in it: log entries 40 and 75.
Completes: preemptBoundary, contextSave, contextRestore. -/
def Obligations.ContextSwitchExecutes : Prop :=
  ∀ (s : State),
    (∀ (p : Packet) (l : Launch), s.presents p 8 = true →
      let tq := word p.words 4 % 2 ^ 14
      let addr := addr48 p.words 5
      withinMasks p.words [0x7FF, m32, 0x7FFF, m32, 0x7FFF, m32, 0xFFFF, m32] = true →
      s.launches.find? (fun l => l.queue == tq && (l.ph == .running || (l.ph == .ended && l.started))) = some l →
      l.ph = .running → l.saving = none → daSpace addr = 0 → addr % 4096 = 0 → ctxSize l ((word p.words 4).testBit 14) ≤ 4096 * word p.words 7 →
      s.allowed { part := s.queuePart p.queue, fn := (s.queue p.queue).owner } addr (ctxSize l ((word p.words 4).testBit 14)) true = true →
      (s.queue tq).created = true → s.queuePart tq = s.queuePart p.queue → (s.queue tq).qtype = 0 →
      let s1 := (s.modPacket p.queue p.seq (fun x => { x with work := .save })).modLaunch l.queue l.seq (fun x =>
        { x with saving := some (p.queue, p.seq), saveAddr := addr, saveBase := (word p.words 4).testBit 14 })
      exec (.contextSave p.queue p.seq) s =
        .next ((s1.launchPhys l).foldl (fun s ph => s.modTile ph (fun t => { t with preempt := true })) s1))
    ∧ (∀ (ph : Nat) (l : Launch) (pk : Nat × BitVec 32), s.live = true → (s.tile ph).running = true → (s.tile ph).preempt = true →
      (s.tile ph).parked = false → (s.tile ph).stopped = false → (∀ x ∈ (s.tile ph).steps, x.sent = false) →
      let d := s.draw
      let s1 := d.2.setTile ph { s.cutInside ph d.1 with parked := true, wait := none }
      s1.runningOf (s.tile ph).part = some l → l.saving = some pk →
      exec (.preemptBoundary ph) s = .next (if (s1.launchPhys l).all (fun i => (s1.tile i).parked) then s1.finishSave l pk else s1))
    ∧ (∀ (p : Packet) (s1 : State) (area : List Byte) (l : Launch), s.presents p 9 = true →
      withinMasks p.words [0x7FF, m32, 0x7FFF, m32, 0, m32, 0xFFFF, m32] = true →
      let a : Agent := { part := s.queuePart p.queue, fn := (s.queue p.queue).owner }
      let addr := addr48 p.words 5
      let room := 4096 * word p.words 7
      daSpace addr = 0 → addr % 4096 = 0 → room ≠ 0 → s.allowed a addr room false = true →
      s.ctxArea a addr room = .ok (s1, area) → s1.ctxValid a.part area = true →
      s1.suspendedOf (leNat ((area.drop 8).take 4) % 2 ^ 14) = some l →
      exec (.contextRestore p.queue p.seq) s = .next ((s1.modPacket p.queue p.seq (fun x => { x with work := .launch })).modLaunch l.queue l.seq
        (fun x => { x with ph := .waiting, restore := some (p.queue, p.seq), saveAddr := addr })))

/-- A COLLECTIVE of any of the seven operations whose fields, ranges, communicator and groups R442, R443 and R449 accept joins its
communicator's collectives and runs as far as it can; a count of 0 completes at once (R15).
The model's choices in it: log entry 47.
Completes: allreduce, reduce, broadcast, allgather, reducescatter, barrier, smreduce. -/
def Obligations.CollectivePacketsExecute : Prop :=
  ∀ (s : State) (p : Packet) (op : Nat) (i : Instr),
    (op, i) ∈ [(0, Instr.allreduce p.queue p.seq), (1, Instr.reduce p.queue p.seq), (2, Instr.broadcast p.queue p.seq),
      (3, Instr.allgather p.queue p.seq), (4, Instr.reducescatter p.queue p.seq), (5, Instr.barrier p.queue p.seq),
      (6, Instr.smreduce p.queue p.seq)] →
    s.presents p 6 = true → bits (word p.words 4) 8 4 = op →
    withinMasks p.words [0x7FF, m32, 0x7FFF, m32, 0x00FF_FFFF, m32, 0xFFFF, m32, 0xFFFF, m32] = true →
    ∀ (c : Comm) (me : Nat),
    let part := s.queuePart p.queue
    let a : Agent := { part := part, fn := (s.queue p.queue).owner }
    let n := word p.words 4 % 256
    let root := bits (word p.words 4) 12 12
    let src := addr48 p.words 5
    let dst := addr48 p.words 7
    let count := word p.words 9
    let ext := State.collExtents op count c.nmem me root
    let useDst := ext.2 ≠ 0 ∧ ¬ (op = 2 ∧ dst = 0)
    (s.part part).hasComm n = true → s.comm n = some c → c.own = some me →
    (root = 0 ∨ op = 1 ∨ op = 2) → (op = 5 → src = 0 ∧ dst = 0 ∧ count = 0) →
    (op = 1 → me ≠ root → dst = 0) → (op = 2 → me ≠ root → src = 0) →
    (count = 0 → op ≠ 5 → exec i s = .next (s.finish p.queue p.seq stOk 0))
    ∧ ((count ≠ 0 ∨ op = 5) → c.st ≠ .broken → root < c.nmem →
      (op ≠ 5 → ext.1 ≠ 0 → ∀ k ∈ s.collRange a src ext.1 false, k.1 = false) →
      (op ≠ 5 → useDst → ∀ k ∈ s.collRange a dst ext.2 true, k.1 = false) →
      (opReduces op = false → op ≠ 5 → useDst → daSpace dst ≠ 2) →
      (opReduces op = true → src % 128 = 0 ∧ (useDst → dst % 128 = 0) ∧ 96 * count ≤ c.stageLen * 65536 - 2 ^ 20) →
      (op = 4 → count % c.nmem = 0) → (useDst → ext.1 ≠ 0 → crosses src ext.1 dst ext.2 = false) →
      (opReduces op = true → op ≠ 6 → useDst → daSpace dst = 2 → ∀ t sl, s.cisternAt a dst = some (t, sl) →
        oneOpenGroup (s.tile t) sl (ext.2 / 128) = true) →
      ∀ row0 rows cols, (if op = 6 then s.smCheck a src dst count else (stOk, 0, 0, 0)) = (stOk, row0, rows, cols) →
      let k : Coll := { queue := p.queue, seq := p.seq, op := op, root := root, count := count, src := src, dst := dst,
                        row0 := row0, rows := rows, cols := cols }
      exec i s = .next (((s.modPacket p.queue p.seq (fun x => { x with work := .coll })).setComm n
        (some { c with colls := c.colls ++ [k] })).collRun n))

/-! ### Exact accumulation -/

/-- An addition into a quire is exact (R79): the total of Q and X rises by exactly the term while X stays within 64 bits; where it would
leave them OVX is set, X holds the limit of that sign, and Q takes the sum modulo 2^640; with OVX set nothing is added.
R80 for the drain: whatever the order of a multiset of terms, finite or not, the quire ends the same, as long as their magnitudes
together with the total it starts from stay below 2^702, so that OVX is not set. -/
def Obligations.QuireAdditionIsExactInAnyOrder : Prop :=
  (∀ (c : Quire) (t : Int),
    (c.ovx = false → -(2 ^ 703) - 2 ^ 639 ≤ c.total + t → c.total + t < 2 ^ 703 - 2 ^ 639 →
      (c.addInt t).total = c.total + t ∧ (c.addInt t).ovx = false)
    ∧ (c.ovx = false → 2 ^ 703 - 2 ^ 639 ≤ c.total + t →
      (c.addInt t).ovx = true ∧ (c.addInt t).x = BitVec.intMax 64 ∧ (c.addInt t).q = c.q + BitVec.ofInt 640 t)
    ∧ (c.ovx = false → c.total + t < -(2 ^ 703) - 2 ^ 639 →
      (c.addInt t).ovx = true ∧ (c.addInt t).x = BitVec.intMin 64 ∧ (c.addInt t).q = c.q + BitVec.ofInt 640 t)
    ∧ (c.ovx = true → c.addInt t = c)
    ∧ (c.addInt t).firstk = c.firstk ∧ (c.addInt t).snan = c.snan ∧ (c.addInt t).snar = c.snar
    ∧ (c.addInt t).spinf = c.spinf ∧ (c.addInt t).sninf = c.sninf)
  ∧ (∀ (c : Quire) (l m : List (Val × Nat)), l.Perm m → c.ovx = false →
    c.total.natAbs + (l.map (fun e => match e.1 with
      | .fin x => ((x.scale2 320).num / ((x.scale2 320).den : Int)).natAbs
      | _ => 0)).sum < 2 ^ 702 →
    l.foldl (fun q e => q.addVal e.1 e.2) c = m.foldl (fun q e => q.addVal e.1 e.2) c)

/-- Merges (R89, R97): Q and X take the sum exactly, the special bits and OVX combine by OR and FIRSTK by minimum, a sum of X values
beyond its range sets OVX as an addition does, and a set of merges gives one quire in any order (while no OVX is set by it); a standard
quire adds P × 2^80, and its NaR sets SNAR and nothing else. -/
def Obligations.MergesAreExact : Prop :=
  (∀ c s : Quire,
    (c.merge s).firstk = minK c.firstk s.firstk ∧ (c.merge s).snan = (c.snan || s.snan) ∧ (c.merge s).snar = (c.snar || s.snar)
    ∧ (c.merge s).spinf = (c.spinf || s.spinf) ∧ (c.merge s).sninf = (c.sninf || s.sninf)
    ∧ (c.ovx = true → (c.merge s).ovx = true ∧ (c.merge s).q = c.q ∧ (c.merge s).x = c.x)
    ∧ (c.ovx = false → (c.merge s).q = c.q + s.q
      ∧ (-(2 ^ 703) - 2 ^ 639 ≤ c.total + s.total → c.total + s.total < 2 ^ 703 - 2 ^ 639 →
          (c.merge s).total = c.total + s.total ∧ (c.merge s).ovx = s.ovx)
      ∧ (2 ^ 703 - 2 ^ 639 ≤ c.total + s.total → (c.merge s).ovx = true ∧ (c.merge s).x = BitVec.intMax 64)
      ∧ (c.total + s.total < -(2 ^ 703) - 2 ^ 639 → (c.merge s).ovx = true ∧ (c.merge s).x = BitVec.intMin 64)))
  ∧ (∀ (c : Quire) (l m : List Quire), l.Perm m → c.ovx = false → (∀ s ∈ l, s.ovx = false) →
    c.total.natAbs + (l.map (fun s => s.total.natAbs)).sum < 2 ^ 702 → l.foldl Quire.merge c = m.foldl Quire.merge c)
  ∧ (∀ (c : Quire) (p : Nat), p < 2 ^ 512 →
    (p = 2 ^ 511 → c.mergeStandard p = { c with snar := true })
    ∧ (p ≠ 2 ^ 511 → c.mergeStandard p = c.addInt ((BitVec.ofNat 512 p).toInt * 2 ^ 80)))

/-- The values of the posit3 patterns (R48), for each es. -/
def Obligations.Posit3Patterns : Prop :=
  let same (v : Val) (n : Int) (d : Nat) : Prop := match v with
    | .fin q => q.num * d = n * q.den ∧ 0 < q.den
    | _ => False
  ∀ es, es < 3 →
    positDecode 0 3 es = .zero false ∧ positDecode 4 3 es = .nar
    ∧ same (positDecode 1 3 es) 1 (2 ^ 2 ^ es) ∧ same (positDecode 2 3 es) 1 1 ∧ same (positDecode 3 3 es) (2 ^ 2 ^ es) 1
    ∧ same (positDecode 5 3 es) (-(2 ^ 2 ^ es)) 1 ∧ same (positDecode 6 3 es) (-1) 1 ∧ same (positDecode 7 3 es) (-1) (2 ^ 2 ^ es)

/-- A slot image holds all of a quire, a row-state entry all of a row state, and the words of a sequence slot all of it: reading back what
was written gives it again (R78, R197, R330). -/
def Obligations.ImagesReadBack : Prop :=
  (∀ c : Quire, Quire.ofImage c.image = c)
    ∧ (∀ c : Quire, c.image.length = 128)
    ∧ (∀ r : RowState, RowState.ofWords r.words = { r with bound := true })
    ∧ (∀ v : Slot, v.user.length = 7 → Slot.ofWords (fun i => v.words.getD i 0) = v)

/-! ### Tile instructions of the ARRAY, CISTERN, REQ, JET, RSU and BASIN slots -/

/-- The instructions that work on their tile alone (R217, R257): the one that stands at the program counter and that its operands allow takes the
effect of its unit, leaves its tile at the next instruction, and is counted; one that is illegal ends the launch with ST_BAD_OPCODE and its
reason, and one that fails ends it with its status. The MERGE and STATUS modes of MOVE, where no address of theirs is closed to the kernel.
The model's choices in it: log entries 19 and 21.
Completes: loadw, stream, packcfg, gopen, gclose, drain, qexport, moveMerge, moveMergeStandard, moveStatus, cvt, jet, sminit, smterm,
smmerge, smnorm, nstat, nvar, tload, nearCopy, nearAdd, nearSub, nearMul, nearMax, nearMin, nearFma, normrow, affcol, nearNeg, nearAbs. -/
def Obligations.TileInstructionsIssue : Prop :=
  ∀ (s : State) (ph : Nat) (w : Word128) (i : Instr) (mine : Bool) (f : Tile → TRes),
    let near (n : Nat) : Bool := !s.closedTo ph (moveSrc (s.tile ph) w) (moveLen w) false && !s.closedTo ph (moveDst (s.tile ph) w) n true
    (i, mine, f) ∈ [(Instr.loadw ph w, opcode w == 0x01, (tileLOADW · w)), (.stream ph w, opcode w == 0x02, (tileSTREAM · w)),
      (.packcfg ph w, opcode w == 0x03, (tilePACKCFG · w)), (.gopen ph w, opcode w == 0x08, (tileGOPEN · w)),
      (.gclose ph w, opcode w == 0x09, (tileGCLOSE · w)), (.drain ph w, opcode w == 0x0A, (tileDRAIN · w)),
      (.qexport ph w, opcode w == 0x0B, (tileQEXPORT · w)), (.moveMerge ph w, isMove 1 w && near (moveLen w), (tileMERGE · w false)),
      (.moveMergeStandard ph w, isMove 2 w && near (moveLen w / 64 * 128), (tileMERGE · w true)),
      (.moveStatus ph w, isMove 3 w && !s.closedTo ph (moveDst (s.tile ph) w) (moveLen w) true, (tileSTATUS · w)),
      (.cvt ph w, opcode w == 0x11, (tileCVT · w)), (.jet ph w, opcode w == 0x14, (tileJET (s.tctx ph) · w)),
      (.sminit ph w, isRstat 0 w, (tileSMINIT · w)), (.smterm ph w, isRstat 1 w, (tileSMTERM · w)),
      (.smmerge ph w, isRstat 2 w, (tileSMMERGE · w)), (.smnorm ph w, isRstat 3 w, (tileSMNORM · w)),
      (.nstat ph w, isRstat 4 w, (tileNSTAT · w)), (.nvar ph w, isRstat 5 w, (tileNVAR · w)),
      (.tload ph w, opcode w == 0x18, (tileTLOAD · w)), (.nearCopy ph w, isNear 0 w, (tileNEAR .copy · w)),
      (.nearAdd ph w, isNear 1 w, (tileNEAR .add · w)), (.nearSub ph w, isNear 2 w, (tileNEAR .sub · w)),
      (.nearMul ph w, isNear 3 w, (tileNEAR .mul · w)), (.nearMax ph w, isNear 4 w, (tileNEAR .max · w)),
      (.nearMin ph w, isNear 5 w, (tileNEAR .min · w)), (.nearFma ph w, isNear 6 w, (tileNEAR .fma · w)),
      (.normrow ph w, isNear 7 w, (tileNEAR .normrow · w)), (.affcol ph w, isNear 8 w, (tileNEAR .affcol · w)),
      (.nearNeg ph w, isNear 9 w, (tileNEAR .neg · w)), (.nearAbs ph w, isNear 10 w, (tileNEAR .abs · w))] →
    s.standsAt ph w = true → mine = true →
    (∀ t' rd wr, f (s.tile ph) = .ok t' rd wr → (s.tile ph).unhindered t' rd wr = true →
      (t'.moved rd wr).running = true → (t'.moved rd wr).settled = true →
      ∃ u : State, exec i s = .next u ∧ u.tile ph = t'.moved rd wr ∧ (∀ o, o ≠ ph → u.tile o = s.tile o) ∧ { u with tiles := s.tiles, tele := s.tele } = s)
    ∧ (∀ r, f (s.tile ph) = .illegal r → exec i s = .next (s.failTile ph stBadOpcode r (s.tile ph).pc))
    ∧ (∀ st, f (s.tile ph) = .fail st → exec i s = .next (s.failTile ph st 0 (s.tile ph).pc))

/-- REQUANT and COPY, which reach beyond their tile (R153, R238), take effect likewise; REQUANT of an entry with an uncorrectable error ends
its launch with ST_UNCORRECTABLE_MEMORY; a COPY within the tile's own Basin puts the bytes of its source at its destination.
The model's choices in it: log entries 19 and 21.
Completes: moveCopy, requant. -/
def Obligations.RequantAndCopyIssue : Prop :=
  ∀ (s : State) (ph : Nat) (w : Word128) (t' : Tile) (rd wr : List Range), s.standsAt ph w = true →
    (opcode w = 0x10 → tileREQUANT (s.tctx ph) (s.tile ph) w = .ok t' rd wr →
      (∀ i, s.badEntryRead ph (s.tile ph) w = some i →
        exec (.requant ph w) s = .next ((s.loseTile ph 4 (dieOf ph) i).failTile ph stUncorrectable 0 (s.tile ph).pc))
      ∧ (s.badEntryRead ph (s.tile ph) w = none → (s.tile ph).unhindered t' rd wr = true →
        exec (.requant ph w) s = .next (s.accept ph t' rd wr)))
    ∧ (∀ s1 : State, isMove 0 w = true → tileCOPY w s ph (s.tile ph) = (s1, .ok t' rd wr) → (s.tile ph).unhindered t' rd wr = true →
      exec (.moveCopy ph w) s = .next (s1.accept ph t' rd wr))
    ∧ (isMove 0 w = true → moveFields w = true →
      (let t := s.tile ph
       let src := moveSrc t w
       let dst := moveDst t w
       let len := moveLen w
       len ≠ 0 → t.ownAddr src 1 = true → t.ownAddr dst 1 = true → s.closedTo ph src len false = false → s.closedTo ph dst len true = false →
       tileCOPY w s ph t = (s, .ok (t.write 1 (daOff dst) (t.basin.bytes (daOff src) len))
          [⟨1, daOff src, daOff src + len⟩] [⟨1, daOff dst, daOff dst + len⟩])))

/-- The effects of GOPEN, GCLOSE, PACKCFG with no band, SMINIT, MOVE STATUS, MERGE of images and DRAIN, where R84, R85, R231, R198, R238, R89
and R234 allow them.
The model's choices in it: log entry 19. -/
def Obligations.CisternInstructionsTakeEffect : Prop :=
  ∀ (t : Tile) (w : Word128),
    (let h := fld w 0 8 5
     let base := fld w 1 0 13
     let rows := fld w 1 13 13 + 1
     let cols := fld w 2 0 7 + 1
     onlyFields w 0x1FFF 0x03FF_FFFF 0x7F 0 = true → base + rows * cols ≤ 8192 → (t.group h).st ≠ .openG →
     (∀ e ∈ t.groups, e.2.st = .openG → e.2.overlaps base (base + rows * cols) = false) →
     ∃ u : Tile, tileGOPEN t w = .ok u [] []
       ∧ u.group h = { base := base, rows := rows, cols := cols, st := .openG, anchored := true, origin := t.stepNo }
       ∧ u.cistern = t.cistern.filter (fun e => decide (e.1 < base) || decide (base + rows * cols ≤ e.1))
       ∧ u.basin = t.basin ∧ u.aux = t.aux ∧ u.rows = t.rows ∧ u.aregs = t.aregs)
    ∧ (let h := fld w 0 8 5
       onlyFields w 0x1FFF 0 0 0 = true →
       ((t.group h).st = .openG → tileGCLOSE t w = .ok (t.setGroup h { t.group h with st := .closedG }) [] [])
       ∧ ((t.group h).st ≠ .openG → tileGCLOSE t w = .illegal 0x07))
    ∧ (onlyFields w 0x00FF_FFFF 0x1FFFF 0 0 = true → fld w 0 8 16 = 0 → tilePACKCFG t w = .ok { t with pack := [] } [] [])
    ∧ (let first := fld w 1 0 9
       let count := fld w 1 9 10
       let lslot := fld w 2 0 13
       let orow := fld w 2 13 13
       onlyFields w (rstatWord0 false false false) 0x00FF_FFFF 0x03FF_FFFF 0 = true →
       1 ≤ count → first + count ≤ 512 → lslot + count ≤ 8192 → orow + count ≤ 8192 →
       ∃ u : Tile, tileSMINIT t w = .ok u [] []
         ∧ (∀ i, i < count → u.row (first + i) =
              { bound := true, lslot := BitVec.ofNat 13 (lslot + i), ogrp := BitVec.ofNat 5 (fld w 1 19 5),
                orow := BitVec.ofNat 13 (orow + i) })
         ∧ { u with rows := t.rows } = t)
    ∧ (let dst := moveDst t w
       moveFields w = true → moveLen w = 32 → t.ownAddr dst 1 = true →
       tileSTATUS t w = .ok (t.wrBasin (daOff dst) t.status.image) [] [⟨1, daOff dst, daOff dst + 32⟩])
    ∧ (let src := moveSrc t w
       let dst := moveDst t w
       let n := moveLen w / 128
       moveFields w = true → moveLen w ≠ 0 → mergeReason t src dst (moveLen w) 128 = none → daSpace src = 1 →
       tileMERGE t w false = .ok ((List.range n).foldl (fun u i => u.setSlot (daOff dst / 128 + i)
           ((u.slot (daOff dst / 128 + i)).merge (Quire.ofImage (((t.basin.bytes (daOff src) (moveLen w)).drop (i * 128)).take 128)))) t)
         [⟨1, daOff src, daOff src + moveLen w⟩] [])

/-- The CONTROL instructions (R250 to R255): SETA writes its register and nothing else but the program counter; LOOP enters its body or, with a count of
zero or less, passes it; BRANCH goes where its condition says; WAIT of a met counter and WAIT local pass, an unmet one holds; SIGNAL waits for the
commit; STEP ends the step unless four are uncommitted; END stops issue.
The model's choices in it: log entries 19 and 66.
Completes: loop, branch, seta, waitSync, waitLocal, signal, step, tileEnd. -/
def Obligations.ControlInstructionsExecute : Prop :=
  ∀ (s : State) (ph : Nat) (w : Word128), s.standsAt ph w = true →
    let t := s.tile ph
    let goes (c : Instr) (u : Tile) : Prop := u.running = true → u.settled = true →
      ∃ v : State, exec c s = .next v ∧ v.tile ph = u ∧ (∀ o, o ≠ ph → v.tile o = s.tile o) ∧ { v with tiles := s.tiles, tele := s.tele } = s
    (opcode w = 0x22 → onlyFields w 0x7F_FFFF 0xFFFF_FFFF 0 0 = true →
      goes (.seta ph w) (t.setAreg (fld w 0 8 4) (setaResult t w)).advance)
    ∧ (opcode w = 0x20 → onlyFields w 0x3FFF 0xFFFF_FFFF 0x7FF 0xFFFF = true → (∀ l ∈ t.loops, l.ctr ≠ fld w 0 8 2) →
      t.loops.length < 4 → t.pc + fld w 2 0 11 + 1 < t.ninstr → (∀ l ∈ t.loops.head?, t.pc + fld w 2 0 11 + 1 ≤ l.last) →
      let count := (t.areg (fld w 0 10 4) + imm48 w).toInt
      let last := t.pc + fld w 2 0 11 + 1
      (count ≤ 0 → goes (.loop ph w) (loopEnd last t.loops { t with lastIdx := t.pc, issued := t.issued + 1 }))
      ∧ (0 < count → goes (.loop ph w) { t with
          lastIdx := t.pc, pc := t.pc + 1, issued := t.issued + 1, ctrs := SMap.set 0 t.ctrs (fld w 0 8 2) count.toNat,
          loops := { ctr := fld w 0 8 2, first := t.pc + 1, last := last, left := count.toNat, inc1 := fld w 3 0 4, str1 := fld w 3 4 4,
                     inc2 := fld w 3 8 4, str2 := fld w 3 12 4 } :: t.loops }))
    ∧ (opcode w = 0x21 → onlyFields w 0x7_FFFF 0xFFFF_FFFF 0xFFFF 0 = true → fld w 0 8 3 ≠ 7 →
      (branchTaken t w = false → goes (.branch ph w) t.advance)
      ∧ (∀ n : Nat, branchTaken t w = true → (t.pc : Int) + sfld w 2 0 16 = n → n < t.ninstr → innermost t n = innermost t t.pc →
        goes (.branch ph w) { t with lastIdx := t.pc, pc := n, issued := t.issued + 1 }))
    ∧ (opcode w = 0x23 → onlyFields w 0xFF_FFFF 0x7FFF 0xFFFF_FFFF 0xFF_FFFF = true →
      (flag w 0 8 = true → goes (.waitLocal ph w) t.advance)
      ∧ (flag w 0 8 = false → (s.part t.part).hasSync (syncIndex t w) = true →
        (syncValue t w ≤ (s.counter (syncIndex t w)).toNat → goes (.waitSync ph w) t.advance)
        ∧ ((s.counter (syncIndex t w)).toNat < syncValue t w → goes (.waitSync ph w) { t with
            wait := some { obj := syncIndex t w, target := syncValue t w, timeout := fld w 3 0 24 } })))
    ∧ (opcode w = 0x24 → onlyFields w 0xFF_00FF 0x7FFF 0xFFFF_FFFF 0 = true → (s.part t.part).hasSync (syncIndex t w) = true →
      goes (.signal ph w) (t.mapStep (fun x =>
        { x with signals := x.signals ++ [(syncIndex t w, BitVec.ofNat 64 (syncValue t w))] })).advance)
    ∧ (opcode w = 0x25 → onlyFields w 0xFF 0 0 0 = true →
      (t.steps.length < 4 → goes (.step ph w) t.boundary.advance) ∧ (4 ≤ t.steps.length → exec (.step ph w) s = .next s))
    ∧ (opcode w = 0x26 → onlyFields w 0xFF 0 0 0 = true →
      goes (.tileEnd ph w) { t.mapStep (fun x => { x with closed := true, final := true }) with ended := true, lastIdx := t.pc })

/-! ### Commits, and what stops a tile -/

/-- The commit of the oldest closed step of a running tile (R260): its flags and records join the status record; with nothing to write its
signals are made and it is gone, and after END every group is FREE; a deferred write to HBM or
host memory that is all it owes lands, and it is gone; one that meets an error ends the launch with its status. An open step stays.
The model's choices in it: log entry 20.
Completes: stepCommit. -/
def Obligations.StepCommits : Prop :=
  ∀ (s : State) (ph : Nat) (x : StepRec) (rest : List StepRec), s.live = true →
    (s.tile ph).running = true → (s.tile ph).stopped = false → (s.tile ph).parked = false → (s.tile ph).steps = x :: rest →
    (x.closed = false → exec (.stepCommit ph) s = .next s)
    ∧ (x.closed = true → x.sent = false →
      let s1 := (s.commitFirst ph x).modOldest ph (fun y => { y with sent := true })
      (s1.tile ph).status = (s.tile ph).status.absorb x
      ∧ (x.deferred = [] → s.reqs = [] → exec (.stepCommit ph) s = .next (s1.commitLast ph { x with sent := true }))
      ∧ (x.deferred = [] → x.signals = [] → s.reqs = [] →
          ∃ u : State, exec (.stepCommit ph) s = .next u ∧ (u.tile ph).steps = rest ∧ (u.tile ph).replays = 0 ∧ u.sync = s.sync
            ∧ (x.final = true → (u.tile ph).groups = []) ∧ (u.tile ph).basin = (s.tile ph).basin)
      ∧ (∀ d : Deferred, x.deferred = [d] → x.signals = [] → s.reqs = [] →
          let src := d.src.toNat
          let dst := d.dst.toNat
          daSpace src = 1 → daSpace dst = 0 → (s.tile ph).badBasin = [] → (s.tile ph).badAux = [] → s.canWrite (s.kernelAgent ph) dst d.len = true →
          ∃ u s2 : State, exec (.stepCommit ph) s = .next u
            ∧ s.store (s.kernelAgent ph) dst ((s.tile ph).basin.bytes (daOff src) d.len) = .ok s2
            ∧ u.hbm = s2.hbm ∧ u.hostMem = s2.hostMem ∧ (u.tile ph).steps = rest ∧ (u.tile ph).basin = (s.tile ph).basin ∧ u.sync = s.sync)
      ∧ (∀ (d : Deferred) (more : List Deferred) (st : Word16), x.deferred = d :: more → rest = [] → s1.landOne ph x.num d = .fails st →
          exec (.stepCommit ph) s = .next ((s1.modTile ph (fun t => { t with steps := t.steps.drop 1 })).failTile ph st 0 d.idx)))

/-- What ends or delays a tile's launch: a WAIT at its limit ends it with ST_TIMEOUT (R253); a detected fault replays, which changes no bit of
the work of a tile that has read no outside memory, and a group to rebuild that lost its anchor ends the launch with ST_REPLAY_EXHAUSTED
(R262, R264, R266, R477); while the tile's clocks are stopped the fault is held (R135).
The model's choices in it: log entry 41.
Completes: waitTimeout, tileFaultReplay. -/
def Obligations.TileFaultsAndTimeouts : Prop :=
  (∀ (s : State) (ph cls : Nat) (array : Bool) (groups : List Nat), s.live = true → (s.tile ph).running = true → (s.tile ph).stopped = true →
    cls = 2 ∨ cls = 5 ∨ cls = 6 → exec (.tileFaultReplay ph cls array groups) s =
      .next (s.setTile ph { s.tile ph with held := (s.tile ph).held ++ [.checker cls (array && cls != 2) groups] }))
  ∧ ∀ (s : State) (ph : Nat), s.live = true → (s.tile ph).running = true → (s.tile ph).stopped = false →
    (∀ w : WaitRec, (s.tile ph).wait = some w → w.met = false → w.timeout ≠ 0 →
      exec (.waitTimeout ph) s = .next (s.failTile ph stTimeout 0 (s.tile ph).pc))
    ∧ (∀ (cls : Nat) (array : Bool) (groups : List Nat), cls = 2 ∨ cls = 5 ∨ cls = 6 →
      ((∀ h ∈ groups, ((s.tile ph).group h).anchored = true ∨ ((s.tile ph).group h).st = .freeG) → (s.tile ph).replays < 3 →
        (s.tile ph).outReads = [] → ∃ u : State, exec (.tileFaultReplay ph cls array groups) s = .next u
          ∧ u.tile ph = { s.tile ph with replays := (s.tile ph).replays + 1 } ∧ u.launches = s.launches ∧ u.packets = s.packets
          ∧ u.sync = s.sync ∧ u.hbm = s.hbm ∧ (∀ o, o ≠ ph → u.tile o = s.tile o))
      ∧ ((∃ h ∈ groups, ((s.tile ph).group h).anchored = false ∧ ((s.tile ph).group h).st ≠ .freeG) →
        ∃ u : State, exec (.tileFaultReplay ph cls array groups) s = .next (u.failTile ph stReplay 0 (s.tile ph).pc)
          ∧ u.launches = s.launches))

/-- A tile that fails ends the running launch of its partition with the status, reason, tile and index it met (R257 to R259); no launch of another
identity changes.
The model's choices in it: log entry 20. -/
def Obligations.FailingTileEndsItsLaunch : Prop :=
  ∀ (s : State) (ph reason instr : Nat) (status : Word16) (l : Launch), s.runningOf (s.tile ph).part = some l →
    (∃ m ∈ (s.failTile ph status reason instr).launches, m.queue = l.queue ∧ m.seq = l.seq ∧ m.ph = .ended ∧ m.status = status
      ∧ m.reason = reason ∧ m.ltile = (s.tile ph).ltile ∧ m.instr = instr)
    ∧ (∀ m ∈ s.launches, ¬ (m.queue = l.queue ∧ m.seq = l.seq) → m ∈ (s.failTile ph status reason instr).launches)
    ∧ (s.failTile ph status reason instr).sync = s.sync

/-- An addition to a sync object is exact up to 2^64 − 1, where it stays (R325), touches no other object, and wakes every waiting packet
whose target it reaches (R327).
The model's choices in it: log entries 39 and 65. -/
def Obligations.SyncAdditionSaturates : Prop :=
  ∀ (s : State) (obj amount : Nat), SMap.wf 0 s.sync = true →
    ((s.syncAdd obj amount).counter obj).toNat = Nat.min ((s.counter obj).toNat + amount) (2 ^ 64 - 1)
    ∧ (∀ o, o ≠ obj → (s.syncAdd obj amount).counter o = s.counter o)
    ∧ (∀ p ∈ (s.syncAdd obj amount).packets, ∀ target : BitVec 64, p.work = .wait obj target →
        ((s.syncAdd obj amount).counter obj).toNat < target.toNat)

/-! ### The Weir -/

/-- Power (R519 to R521, R525): two samples above 1,600 W in a row raise the throttle level by two; each period of the loop moves the
excursion account within its bounds and the level by at most one; a frequency step goes to the adjacent point, at most once a millisecond,
with every answering rail within the limits of the new point.
The model's choices in it: log entry 52.
Completes: powerLoopTick, freqStep, powerSample. -/
def Obligations.PowerLoopsRun : Prop :=
  ∀ (s : State), s.live = true →
    (∀ watts, ∃ u : State, exec (.powerSample watts) s = .next u ∧ u.weir.samples = (watts :: s.weir.samples).take 1000
      ∧ (∀ x xs, 1600 < watts → s.weir.samples = x :: xs → 1600 < x → s.weir.fast = false →
          u.weir.tp = Nat.min (s.weir.tp + 2) 8 ∧ u.weir.fast = true ∧ u.weir.pinned = false)
      ∧ (watts ≤ 1600 → u.weir.tp = s.weir.tp ∧ u.weir.pinned = s.weir.pinned))
    ∧ (s.weir.samples.length < 10 → exec .powerLoopTick s = .next s)
    ∧ (10 ≤ s.weir.samples.length → s.weir.pinned = false → s.weir.tp ≤ 8 →
      ∃ u : State, exec .powerLoopTick s = .next u ∧ { u with weir := s.weir } = s ∧ u.weir.opp = s.weir.opp ∧ u.weir.td = s.weir.td
        ∧ u.weir.energy = Nat.min (s.weir.energy + (s.weir.samples.take 10).sum - 10 * s.weir.cap) 200000
        ∧ u.weir.tp ≤ s.weir.tp + 1 ∧ s.weir.tp ≤ u.weir.tp + 1
        ∧ (s.weir.fast = false → u.weir.energy = 200000 → 10 * s.weir.cap < (s.weir.samples.take 10).sum →
            u.weir.tp = Nat.min (s.weir.tp + 1) 8))
    ∧ (10 ≤ s.weir.samples.length → s.weir.pinned = true →
      ∃ u : State, exec .powerLoopTick s = .next u ∧ u.weir.tp = s.weir.tp ∧ u.weir.opp = s.weir.opp ∧ u.weir.fast = false
        ∧ u.weir.pinned = !(decide (10 * s.weir.cap < (s.weir.samples.take 10).sum) && decide (100 ≤ s.weir.overCap + 1)))
    ∧ (∀ opp, s.weir.pinned = false → (∀ t, s.weir.lastStep = some t → t + 100000 ≤ s.time) →
      (∀ c, opp = s.weir.opp + 1 → opp < 8 → s.stepDownCause = some c →
        ∃ u : State, exec (.freqStep opp) s = .next u ∧ u.weir.opp = opp ∧ u.weir.lastStep = some s.time
          ∧ (∀ i, i < s.weir.volts.length → s.weir.mute.getD i false = false →
              (oppOf opp).vmin ≤ u.weir.volts.getD i 0 ∧ u.weir.volts.getD i 0 ≤ (oppOf opp).vmax))
      ∧ (opp + 1 = s.weir.opp → s.mayStepUp = true →
        ∃ u : State, exec (.freqStep opp) s = .next u ∧ u.weir.opp = opp ∧ u.weir.lastStep = some s.time))
    ∧ (∀ opp, s.weir.pinned = true → exec (.freqStep opp) s = .next s)

/-- Temperature (R522 to R524): a reading above 95 °C raises its die's throttle level and ends a pin; ten milliseconds below 90 °C lower
it; above 105 °C every tile of a compute die stops, or an I/O die brings the device to the slowest point; a restart lets them run at the
highest level.
The model's choices in it: log entries 52 and 54.
Completes: thermalEmergency, thermalRestart, thermalLoopTick. -/
def Obligations.ThermalLoopsRun : Prop :=
  ∀ (s : State) (die temp : Nat), s.live = true →
    (die < 4 → 95 < temp →
      ∃ u : State, exec (.thermalLoopTick [(die, temp)]) s = .next u ∧ u.weir.td.getD die 0 = Nat.min (s.weir.td.getD die 0 + 1) 8
        ∧ u.weir.pinned = false)
    ∧ (die < 4 → temp < 90 → s.weir.pinned = false →
      ∃ u : State, exec (.thermalLoopTick [(die, temp)]) s = .next u
        ∧ u.weir.td.getD die 0 = if 9 ≤ s.weir.coolMs.getD die 0 then s.weir.td.getD die 0 - 1 else s.weir.td.getD die 0)
    ∧ (105 < temp → s.weir.emergency.getD die true = false →
      (die < 4 → ∃ u : State, exec (.thermalEmergency die temp) s = .next u ∧ u.weir.emergency = s.weir.emergency.set die true
        ∧ u.weir.pinned = false ∧ (∀ i, i < 64 → (u.tile (64 * die + i)).stopped = true))
      ∧ (die = 4 ∨ die = 5 → ∃ u : State, exec (.thermalEmergency die temp) s = .next u ∧ u.weir.opp = 7
        ∧ u.weir.emergency = s.weir.emergency.set die true))
    ∧ (temp ≤ 105 → exec (.thermalEmergency die temp) s = .next s)
    ∧ (∀ micros, s.weir.emergency.getD die false = true →
      (die < 4 → ∃ (s1 r u : State), exec (.thermalRestart die micros) s = .next u
        ∧ r = (List.range 64).foldl (fun s i => s.restartTile (64 * die + i)) s1 ∧ u = (List.range 256).foldl (fun s i => s.collRun i) r
        ∧ u.weir.emergency = s.weir.emergency.set die false ∧ u.weir.td = s.weir.td.set die 8 ∧ u.weir.opp = s.weir.opp
        ∧ (s.eventQueue 0 = none → (∀ i, i < 64 → (s.tile (64 * die + i)).held = []) → ∀ i, i < 64 → (r.tile (64 * die + i)).stopped = false))
      ∧ (die = 4 ∨ die = 5 → ∃ u : State, exec (.thermalRestart die micros) s = .next u
        ∧ u.weir.emergency = s.weir.emergency.set die false ∧ u.weir.td = s.weir.td ∧ u.weir.opp = s.weir.opp))
    ∧ (∀ micros, s.weir.emergency.getD die false = false → exec (.thermalRestart die micros) s = .next s)

/-- Voltage and placement (R517, R518, R526, R527, R585): adaptive voltage raises a rail by 5 mV while its margin is short and the point
allows it; a droop stretches the die's clocks and ends a pin; a regulator that stops answering is marked; a bound tile and its block's
spare change places while nothing runs there.
The model's choices in it: log entry 53.
Completes: avsTick, droopDetected, stretchEnd, regulatorFault, placementAdaptation. -/
def Obligations.VoltageAndPlacementAdapt : Prop :=
  ∀ (s : State) (k : Nat), s.live = true →
    (∀ slack : Int, k < 6 → s.weir.pinned = false → s.weir.mute.getD k false = false → slack < 0 →
      (oppOf s.weir.opp).vmin ≤ s.weir.volts.getD k 0 + 5 → s.weir.volts.getD k 0 + 5 ≤ (oppOf s.weir.opp).vmax →
      ∃ u : State, exec (.avsTick k slack) s = .next u ∧ u.weir.volts = s.weir.volts.set k (s.weir.volts.getD k 0 + 5)
        ∧ { u with weir := s.weir } = s)
    ∧ (∀ slack : Int, s.weir.pinned = true → exec (.avsTick k slack) s = .next s)
    ∧ (k < 6 → s.weir.stretch.getD k true = false →
      ∃ u : State, exec (.droopDetected k) s = .next u ∧ u.weir.stretch = s.weir.stretch.set k true ∧ u.weir.pinned = false
        ∧ u.weir.opp = s.weir.opp)
    ∧ (s.weir.stretch.getD k false = true →
      ∃ u : State, exec (.stretchEnd k) s = .next u ∧ u.weir.stretch = s.weir.stretch.set k false ∧ { u with weir := s.weir } = s)
    ∧ (∀ starts : Bool, k < 6 → s.weir.mute.getD k false ≠ starts →
      ∃ u : State, exec (.regulatorFault k starts) s = .next u ∧ u.weir.mute = s.weir.mute.set k starts ∧ u.weir.volts = s.weir.volts)
    ∧ (∀ part sp, (s.part part).held = true → s.weir.pinned = false → k < (s.part part).bind.length →
      (s.part part).spares.find? (fun t => t / 16 == (s.part part).bind.getD k 256 / 16) = some sp →
      (∀ l ∈ s.launches, l.part ≠ part) → (∀ p ∈ s.packets, s.queuePart p.queue ≠ part ∨ pType p.words ≠ 1) →
      exec (.placementAdaptation part k) s = .next ((s.setPart part { s.part part with
        bind := (s.part part).bind.set k sp,
        spares := (s.part part).spares.map (fun t => if t = sp then (s.part part).bind.getD k 256 else t) }).eventBoth
          part 0x0104 part stOk (s.part part).bind.length 0))

/-! ### Sluice engines -/

/-- A channel that serves a packet (R382 to R397). With no descriptor in progress it reads the next one: a CONFIG that R385 accepts takes
effect and is done, a COPY or FILL that R385 accepts may move its beats (one of length 0 is done), and any other halts with the status of
R385. A COPY in its turn reads a beat into the staging buffer, of at most 64 bytes and within its row; a COPY writes the oldest of them,
and a FILL its pattern, as bytes in flight to the destination of that beat; the last makes the descriptor finished. Writes in flight land
oldest first. A finished descriptor that owes no record gives way to the next, or ends the packet; one that owes a record writes it to the
ring where that has space. A channel that only a full ring holds reads HEADADDR again. A bus error at a read beat waits for its reissue, and
a reissue that meets none lets the channel go on.
The model's choices in it: log entries 35, 37 and 38.
Completes: sluiceCopy, sluiceFill, sluiceConfig, sluiceDescComplete, sluiceRetry, headaddrReread, busError. -/
def Obligations.SluiceChannelsRun : Prop :=
  ∀ (s : State) (e c : Nat) (p : ChanPkt), s.live = true → e < 32 → c < 64 →
    let k := e * 64 + c
    (s.chan k).pkt = some p →
    ((s.chan k).runs = [] → (s.chan k).stop = none → s.canRead (State.chanAgent p) (State.descAddr p) 64 = true →
      ∃ (s1 : State) (bs : List Byte), s.load (State.chanAgent p) (State.descAddr p) 64 = .ok (s1, bs)
        ∧ (let s2 := s1.hbmLatency (State.chanAgent p) (State.descAddr p) 64
           let ws := bytesWords 16 bs
           let st := s2.descStatus (State.chanAgent p) ws
           let d : DescRun := { words := ws, checked := true }
           (dOp ws = 2 → st = stOk → exec (.sluiceConfig e c) s = .next (s2.modChan k (fun x =>
              { State.configure x ws with runs := [{ d with finished := true, tdone := s.time }] })))
           ∧ (dOp ws = 0 ∨ dOp ws = 1 → st = stOk →
              (if dOp ws = 0 then exec (.sluiceCopy e c ⟨0, 0, 0⟩ 0) s else exec (.sluiceFill e c ⟨0, 0, 0⟩ 0) s) =
              .next (s2.modChan k (fun x => { x with
                runs := [if dLen ws = 0 then { d with finished := true, tdone := s.time } else d] })))
           ∧ (st ≠ stOk → dOp ws ≤ 2 →
              (if dOp ws = 0 then exec (.sluiceCopy e c ⟨0, 0, 0⟩ 0) s else if dOp ws = 1 then exec (.sluiceFill e c ⟨0, 0, 0⟩ 0) s
                else exec (.sluiceConfig e c) s) =
              .next (s2.modChan k (fun x => { x with buf := [], runs := [{ d with halt := some (st, 0), tdone := s.time }] })))))
    ∧ (∀ (d : DescRun) (rest : List DescRun), (s.chan k).runs = d :: rest → d.unread = false → d.checked = true →
      let (src, _, n) := beatAt d.words d.rpos
      let (_, dst, m) := beatAt d.words d.pos
      (dOp d.words = 0 → rest = [] → d.rpos < dTotal d.words → (s.chan k).buf.length < 16 → State.moving (s.chan k) = true →
        s.canRead (State.chanAgent p) src n = true → s.beatTurn k false = true →
        ∃ (u : State) (bs : List Byte), exec (.sluiceCopy e c ⟨0, 1, 0⟩ 0) s = .next u ∧ bs.length = n ∧ n ≤ 64
          ∧ u.chan k = { s.chan k with runs := [{ d with rpos := d.rpos + n, tries := 0 }], buf := (s.chan k).buf ++ [bs] }
          ∧ u.flights = s.flights ∧ u.hbm = s.hbm)
      ∧ (dOp d.words = 0 ∨ dOp d.words = 1 → d.finished = false → State.moving (s.chan k) = true → daSpace dst ≠ 5 →
        ∀ (bs : List Byte) (more : List (List Byte)) (pl : Place),
        (dOp d.words = 0 → d.pos < d.rpos ∧ (s.chan k).buf = bs :: more) →
        (dOp d.words = 1 → more = (s.chan k).buf ∧ bs = (List.range m).map (fun i =>
          (leBytes 8 (word64 d.words 12)).getD ((d.pos % dLen d.words + i) % 8) 0)) →
        s.place (State.chanAgent p) dst bs.length true = some pl → s.writeBar pl bs.length = none → s.beatTurn k true = true →
        ∃ (u : State) (f : Flight), (if dOp d.words = 0 then exec (.sluiceCopy e c ⟨0, 0, 1⟩ 0) s else exec (.sluiceFill e c ⟨0, 0, 1⟩ 0) s) = .next u
          ∧ u.flights = s.flights ++ [f] ∧ f.chan = k ∧ f.queue = p.queue ∧ f.seq = p.seq ∧ f.da = dst ∧ f.data = bs
          ∧ (u.chan k).buf = more ∧ (∃ x : DescRun, (u.chan k).runs = x :: rest ∧ x.pos = d.pos + m
              ∧ x.finished = decide (dTotal d.words ≤ d.pos + m) ∧ (x.finished = true → x.tdone = s.time)))
      ∧ (∀ land, dOp d.words = 0 → exec (.sluiceCopy e c ⟨0, 0, 0⟩ land) s =
          .next (((s.flights.filter (fun f => f.chan == k)).take land).foldl State.landFlight s))
      ∧ ((s.chan k).st = .active → d.finished = true → d.halt = none → (s.chan k).ring = 0 ∨ dRec d.words = false →
          exec (.sluiceDescComplete e c) s = .next (s.afterRecord k p d)
          ∧ (dSig d.words = false → p.idx + 1 < p.count → (s.chan k).stop = none →
              (s.afterRecord k p d).chan k = { s.chan k with
                st := .active, runs := rest, headErr := none, pkt := some { p with idx := p.idx + 1 } })
          ∧ (dSig d.words = false → p.count ≤ p.idx + 1 → ∀ x ∈ (s.afterRecord k p d).packets, x.queue = p.queue → x.seq = p.seq →
              x.work = .done))
      ∧ ((s.chan k).st = .active → d.finished = true → d.halt = none → (s.chan k).ring ≠ 0 → dRec d.words = true →
          State.ringFull (s.chan k) = false →
          let slot := (s.chan k).ring + 32 * ((s.chan k).pidx % 2 ^ (s.chan k).log2)
          s.canWrite (State.chanAgent p) slot 32 = true →
          ∃ s1 : State, s.store (State.chanAgent p) slot (State.sluiceRecord k (s.chan k) p d stOk 0) = .ok s1
            ∧ exec (.sluiceDescComplete e c) s = .next ((s1.setChan k
                { s.chan k with pidx := ((s.chan k).pidx + 1) % 2 ^ ((s.chan k).log2 + 1) }).afterRecord k p d))
      ∧ (∀ stores : List Host.Cell, (s.chan k).st = .waiting → (s.chan k).headErr = none → (∀ x ∈ d :: rest, x.errAddr = none) →
          d.finished = true → (s.chan k).ring ≠ 0 → dRec d.words = true → State.ringFull (s.chan k) = true →
          (s.hostStores stores).canRead (State.chanAgent p) (s.chan k).head 8 = true →
          ∃ (s1 : State) (bs : List Byte), (s.hostStores stores).load (State.chanAgent p) (s.chan k).head 8 = .ok (s1, bs)
            ∧ (let seen := { s.chan k with headSeen := leNat bs % 2 ^ ((s.chan k).log2 + 1), headErr := none }
               exec (.headaddrReread e c stores) s = .next
                 (if State.ringFull seen then s1.setChan k { seen with st := .waiting } else (s1.setChan k seen).recordOut k p d)))
      ∧ (dOp d.words = 0 → rest = [] → d.rpos < dTotal d.words → State.moving (s.chan k) = true → (s.chan k).buf.length < 16 →
          d.tries < (s.chan k).retryMax → s.canRead (State.chanAgent p) src n = true →
          exec (.busError (.channel e c false)) s = .next ((s.modRun k 0 (fun x => { x with errAddr := some src })).modChan k (fun x =>
            { x with st := .waiting })))
      ∧ (∀ da : Nat, d.errAddr = some da → (s.chan k).headErr = none →
        ∃ u : State, exec (.sluiceRetry e c true) s = .next u
          ∧ u.chan k = { s.chan k with
              st := .active, runs := { d with retries := d.retries + 1, tries := d.tries + 1, errAddr := none } :: rest }
          ∧ u.hbm = s.hbm ∧ u.packets = s.packets))

/-- A bus error at a fetch or a launch's read is remembered; the read is made again at most three times, and then the queue halts, or the
launch ends, with ST_BUS_ERROR (R390, R613).
The model's choices in it: log entry 37.
Completes: busError, readReissue. -/
def Obligations.ReadsAreReissued : Prop :=
  ∀ (s : State) (q : Nat), s.live = true →
    (s.turnOf q = true → exec (.busError (.fetch q)) s = .next (s.modQueue q (fun c => { c with fetchErr := true })))
    ∧ ((s.queue q).fetchErr = true → 2 ≤ (s.queue q).retries →
      exec (.readReissue (.fetch q) false) s =
        .next ((s.setQueue q { s.queue q with retries := (s.queue q).retries + 1 }).fetchFails q stBusError))
    ∧ ((s.queue q).fetchErr = true → (s.queue q).retries < 2 →
      exec (.readReissue (.fetch q) false) s = .next (s.setQueue q { s.queue q with retries := (s.queue q).retries + 1 }))
    ∧ (∀ (s1 : State) (bs : List Byte), (s.queue q).fetchErr = true →
      let s0 := s.setQueue q { s.queue q with retries := (s.queue q).retries + 1 }
      s0.load (s0.ringAgent (s0.queue q)) ((s0.queue q).entry (s0.queue q).devIdx) 64 = .ok (s1, bs) →
      ∃ u : State, exec (.readReissue (.fetch q) true) s = .next u
        ∧ (u.queue q).fetched = (s.queue q).fetched
            ++ [((s.queue q).pktseq, bytesWords 16 bs, (s.queue q).bells.headD s.time)]
        ∧ (u.queue q).fetchErr = false ∧ (u.queue q).devIdx = (s.queue q).next (s.queue q).devIdx)
    ∧ (∀ (p : Packet) (n : Nat) (seq : BitVec 32), s.packet? q seq = some p → p.work = .reread n →
      (2 ≤ n → exec (.readReissue (.launch q seq) false) s = .next (s.finish q seq stBusError 0))
      ∧ (n < 2 → exec (.readReissue (.launch q seq) false) s =
          .next (s.modPacket q seq (fun p => { p with work := .reread (n + 1) }))))

/-! ### Rill links -/

/-- Training (R404 to R406, R410, R411, R420, R421): a link goes from DETECT to TRAIN to ALIGN to CONFIG, and to ACTIVE once both ends are
configured; a state's time limit takes it DOWN, and so does a peer that says FAILED; every marker period its counters advance and it
sends nine blocks; a link being disabled ends at its limit.
The model's choices in it: log entries 44 and 45.
Completes: linkDetectDone, trainConverged, alignLocked, linkStateTimeout, markerPeriod, markerBlock, disableTimeout. -/
def Obligations.LinksTrain : Prop :=
  ∀ (s : State) (n : Nat), s.linksUp = true → n < 32 →
    ((s.link n).st = .detect → exec (.linkDetectDone n) s =
      .next (s.setLink n { s.link n with st := .train, taps := presetTaps, eqReq := [] }))
    ∧ ((s.link n).st = .train → exec (.trainConverged n) s = .next (s.setLink n { s.link n with st := .align, marks := [] }))
    ∧ (∀ lanes far : List Nat, (s.link n).st = .align →
      let ok := (s.link n).byPlane ((sortLanes lanes).filter (fun p => !(s.link n).rx.failed.contains p))
      (ok.length < 4 → exec (.alignLocked n ⟨lanes, far⟩) s = .next s)
      ∧ (4 ≤ ok.length → s.devid = none ∨ (s.link n).peerV = false →
        ∃ u : State, exec (.alignLocked n ⟨lanes, far⟩) s = .next u
          ∧ (u.link n).st = .config ∧ (u.link n).cfgSeen = false ∧ (u.link n).cfgAcked = false ∧ (u.link n).cfgSent = s.devid.isSome
          ∧ (u.link n).rx = (s.link n).rx.align (s.link n).retrain (Lanes.found (s.link n).marks ok) ok
          ∧ (∀ m, m ≠ n → u.link m = s.link m)))
    ∧ ((s.link n).st = .train ∨ (s.link n).st = .align ∨ (s.link n).st = .recovery
        ∨ ((s.link n).st = .config ∧ s.devid.isSome = true ∧ (s.link n).peerV = true) →
      exec (.linkStateTimeout n) s = .next (s.linkDown n 1))
    ∧ ((s.link n).marking = true → (s.link n).dying = 0 → ∀ corrected,
      ∃ u : State, exec (.markerPeriod n corrected) s = .next u ∧ (u.link n).mcount = (s.link n).mcount + 1
        ∧ (u.link n).beat = (s.link n).beat + 1 ∧ (u.link n).st = (s.link n).st ∧ (u.link n).taps = (s.link n).equalise.taps
        ∧ (u.link n).blocks.length = 9
        ∧ (∀ b ∈ (u.link n).blocks, b.length = 8 ∧ b.getD 0 0 = 0xA5C3_3C5A ∧ b.getD 2 0 = (s.link n).mcount + 1)
        ∧ (∀ m, m ≠ n → u.link m = s.link m))
    ∧ (∀ (lane : Nat) (words : List Word32), lane < 9 → markerGood words = true →
      let w (i : Nat) : Nat := (words.getD i 0).toNat
      let heard : Link := { (s.link n).readMarker w with
        planes := SMap.set 9 ((s.link n).readMarker w).planes lane (bits (w 1) 4 4) }
      ((s.link n).st = .train → exec (.markerBlock n lane words) s = .next (s.setLink n heard))
      ∧ ((s.link n).st = .active → (w 3).testBit 16 = false →
          exec (.markerBlock n lane words) s = .next (s.setLink n heard))
      ∧ ((s.link n).st = .active ∨ (s.link n).st = .recovery → (w 3).testBit 16 = true →
          exec (.markerBlock n lane words) s = .next ((s.setLink n heard).linkDown n 4))
      ∧ ((s.link n).st = .align → marksClash (s.link n).marks lane (bits (w 1) 8 5) (w 1 % 16) (BitVec.ofNat 32 (w 2)) = true →
          exec (.markerBlock n lane words) s = .next (s.linkDown n 1))
      ∧ ((s.link n).st = .align → marksClash (s.link n).marks lane (bits (w 1) 8 5) (w 1 % 16) (BitVec.ofNat 32 (w 2)) = false →
          exec (.markerBlock n lane words) s = .next (s.setLink n { heard with
            marks := SMap.set (32, 16, 0) (s.link n).marks lane (bits (w 1) 8 5, w 1 % 16, BitVec.ofNat 32 (w 2)) }))
      ∧ (∀ d : BitVec 12, (s.link n).st = .config → s.devid = some d → (w 7).testBit 12 = true → BitVec.ofNat 12 (w 7) ≠ d →
          (s.link n).cfgSeen = true → (s.link n).cfgDev ≠ d → (s.link n).cfgAcked = true → (s.link n).cfgSent = true →
          (s.link n).cfgAnswered = true → (s.link n).cfgHalf = true → (w 1).testBit 13 = (s.link n).rx.half →
          ∃ u : State, exec (.markerBlock n lane words) s = .next u ∧ (u.link n).st = .active ∧ (u.link n).cause = 0
            ∧ ∀ m, m ≠ n → u.link m = s.link m))
    ∧ ((s.link n).disabling = true → exec (.disableTimeout n) s = .next (s.linkOff n))

/-- Flits (R404, R412, R415, R416, R418, R421): a damaged one is counted and has no other effect than that one of DATA type counts as
discarded; a good one's header counts, and a DATA flit is accepted in sequence alone, into the receive buffer; LINKCTL flits configure,
recover, power down and resume the link.
The model's choices in it: log entry 44.
Completes: dataFlit, idleFlit, linkctlConfig, linkctlConfigAck, linkctlRecover, linkctlResume. -/
def Obligations.LinksCarryFlits : Prop :=
  ∀ (s : State) (n : Nat) (flit : List Byte) (fec : Bool), s.linksUp = true → n < 32 → (s.link n).disabling = false →
    (s.link n).open = true →
    (∀ c : Instr, c ∈ [Instr.dataFlit n flit fec, .idleFlit n flit fec, .linkctlConfig n flit fec, .linkctlConfigAck n flit fec,
        .linkctlRecover n flit fec, .linkctlResume n flit fec] → flitGood flit fec = false →
      exec c s = .next (s.putLink n ((s.link n).damaged (flitType flit == 1))))
    ∧ (flitGood flit fec = true → ((s.link n).header flit).st = (s.link n).st →
      let h := (s.link n).header flit
      (flitType flit = 0 → exec (.idleFlit n flit fec) s = .next (s.putLink n h))
      ∧ (flitType flit = 1 → (s.link n).st = .active →
          let seq := BitVec.ofNat 12 (bits (flitWord flit 0) 4 12)
          let vc := flitWord flit 2 % 8
          ∃ u : State, exec (.dataFlit n flit fec) s = .next u ∧ u.arrivals = s.arrivals
            ∧ (seq ≠ h.ackSeq + 1 ∨ rxFlits ≤ h.held vc → u.link n = h.refuse)
            ∧ (seq = h.ackSeq + 1 → h.held vc < rxFlits →
                u.link n = { h with
                  ackSeq := seq, ackV := true, naked := false,
                  rxbuf := h.rxbuf ++ [{ vc := vc, sop := (flitWord flit 2).testBit 3, eop := (flitWord flit 2).testBit 4,
                                         data := (flit.drop 12).take (bits (flitWord flit 2) 5 8 + 1) }] }))
      ∧ (flitType flit = 2 → (s.link n).st = .config → s.devid = none →
          (ctlWord flit 0 % 16 = 0 → ∃ u : State, exec (.linkctlConfig n flit fec) s = .next u
            ∧ u.link n = { h with
                cfgSeen := true, cfgHalf := (ctlWord flit 2).testBit 16, cfgDev := BitVec.ofNat 12 (ctlWord flit 1),
                cfgLink := BitVec.ofNat 5 (bits (ctlWord flit 1) 16 5), cfgStep := BitVec.ofNat 16 (ctlWord flit 2) })
          ∧ (ctlWord flit 0 % 16 = 1 → ∃ u : State, exec (.linkctlConfigAck n flit fec) s = .next u
            ∧ u.link n = { h with cfgAcked := true }))
      ∧ (flitType flit = 2 → (s.link n).st = .config → s.devid.isSome = true → h.peerV = false → ctlWord flit 0 % 16 = 0 →
          ∃ u : State, exec (.linkctlConfig n flit fec) s = .next u ∧ (u.link n).st = .config ∧ (u.link n).cfgSeen = true
            ∧ (u.link n).cfgAnswered = true ∧ (u.link n).cfgDev = BitVec.ofNat 12 (ctlWord flit 1)
            ∧ (u.link n).sent.length = h.sent.length + 1)
      ∧ (flitType flit = 2 → ctlWord flit 0 % 16 = 2 →
          ((ctlWord flit 1).testBit 0 = true → exec (.linkctlRecover n flit fec) s = .next ((s.putLink n h).linkDown n 7))
          ∧ ((s.link n).st = .active → (ctlWord flit 1).testBit 0 = false →
            (h.recover.exhausted = false →
              exec (.linkctlRecover n flit fec) s = .next ((s.putLink n h).putLink n (h.recover.control 2 [0])))
            ∧ (h.recover.exhausted = true → exec (.linkctlRecover n flit fec) s = .next ((s.putLink n h).linkDown n 2))))
      ∧ (flitType flit = 2 → (s.link n).st = .recovery → ctlWord flit 0 % 16 = 3 →
          (h.aligned = false → exec (.linkctlResume n flit fec) s =
            .next ((s.putLink n h).putLink n { h.acked (BitVec.ofNat 12 (ctlWord flit 1)) with resumed := true }))
          ∧ (h.aligned = true → ∃ u : State, exec (.linkctlResume n flit fec) s = .next u ∧ (u.link n).st = .active)))

/-- Silence and failing lanes (R409 to R411, R417, R418, R420, R424): unacknowledged flits are replayed, four times, and RECOVERY follows,
of which a fourth for one flit is DOWN; a silent peer takes the link DOWN; a failing data lane asks for the spare, and without one the
link retrains, or goes DOWN with fewer than four healthy lanes; at the agreed marker the spare takes the failing lane's role.
The model's choices in it: log entry 44.
Completes: ackTimeout, flitSilence, peerSilent, laneFailing, laneSpareSwitch. -/
def Obligations.LinksRecover : Prop :=
  ∀ (s : State) (n : Nat), s.linksUp = true → n < 32 → (s.link n).st = .active →
    ((s.link n).replay ≠ [] →
      ((s.link n).resend < 4 →
        exec (.ackTimeout n) s = .next (s.putLink n { (s.link n).resendAll with resend := (s.link n).resend + 1 }))
      ∧ (4 ≤ (s.link n).resend → (s.link n).episodes < 3 →
        exec (.ackTimeout n) s = .next (s.putLink n ((s.link n).recover.control 2 [0])))
      ∧ (4 ≤ (s.link n).resend → 3 ≤ (s.link n).episodes → exec (.ackTimeout n) s = .next (s.linkDown n 2)))
    ∧ ((s.link n).replay = [] ∨ (s.link n).episodes < 3 →
      exec (.flitSilence n) s = .next (s.putLink n ((s.link n).recover.control 2 [0])))
    ∧ ((s.link n).replay ≠ [] → 3 ≤ (s.link n).episodes → exec (.flitSilence n) s = .next (s.linkDown n 2))
    ∧ exec (.peerSilent n) s = .next (s.linkDown n 3)
    ∧ (∀ lane, lane < 9 → (s.link n).rx.failed.contains lane = false → (s.link n).spreq = none → (s.link n).sweep = none →
      (s.link n).rx.roles.contains lane = true →
      ((s.link n).rx.spare.isSome = true → (s.link n).rx.half = false →
        ∃ u : State, exec (.laneFailing n lane) s = .next u ∧ (u.link n).spreq = some lane ∧ (u.link n).spOwn = true
          ∧ (u.link n).rx = (s.link n).rx ∧ (u.link n).st = .active)
      ∧ ((s.link n).rx.spare = none → (insAsc lane (s.link n).rx.failed).length ≤ 5 →
        (s.link n).replay = [] ∨ (s.link n).episodes < 3 →
        ∃ u : State, exec (.laneFailing n lane) s = .next u ∧ (u.link n).st = .recovery
          ∧ (u.link n).rx.failed = insAsc lane (s.link n).rx.failed)
      ∧ ((s.link n).rx.spare = none → 5 < (insAsc lane (s.link n).rx.failed).length → (s.link n).disabling = false →
        ∃ u : State, exec (.laneFailing n lane) s = .next u ∧ (u.link n).st = .down ∧ (u.link n).cause = 5))
    ∧ (∀ (f sp : Nat) (due : BitVec 32), (s.link n).spack = none → (s.link n).sweep = none → (s.link n).rxSwitch = some (f, due) →
      ((s.link n).peerCount - due).toNat < 2 ^ 31 → (s.link n).rx.spare = some sp →
      ∃ u : State, exec (.laneSpareSwitch n) s = .next u ∧ (u.link n).spreq = none ∧ (u.link n).rxSwitch = none
        ∧ (u.link n).rx.roles = (s.link n).rx.roles.map (fun p => if p = f then sp else p) ∧ (u.link n).rx.spare = none
        ∧ (u.link n).rx.failed = insAsc f (s.link n).rx.failed)

/-! ### The fabric -/

/-- The router (R426, R427): a packet for another device leaves on the link that its route and flow choose, one hop spent; one that cannot
be delivered is counted, and its source gets a NOTICE, unless it is itself one.
The model's choices in it: log entry 46.
Completes: packetForward. -/
def Obligations.RouterForwards : Prop :=
  ∀ (s : State) (i : Nat) (a : Arrival), s.arrivals[i]? = some a → s.devid ≠ some (BitVec.ofNat 12 (pkDst a.data)) → s.boot.failed = false →
    (∀ (q : List Byte) (out vc : Nat), s.route a.data a.level = .ok (q, out, vc) →
      exec (.packetForward i) s =
        .next (((s.take i).putLink out ((s.link out).send vc q)).count (State.unitCascade (out / 16)) 0x001 1 1 0)
      ∧ (s.link out).st = .active ∧ bitOf (s.routeMask (pkDst a.data)) out = true ∧ q = setWord a.data 1 (pkWord a.data 1 - 256))
    ∧ (∀ r : Nat, s.route a.data a.level = .error r → pkType a.data = 0x11 →
      exec (.packetForward i) s = .next ((s.take i).noteDrop 0x0405 (pkDst a.data + 2 ^ 12 * pkSrc a.data + 2 ^ 24 * r)))
    ∧ (∀ (r : Nat) (u : State), s.route a.data a.level = .error r → pkType a.data ≠ 0x11 → a.link.isSome = true →
      let noted := (s.take i).noteDrop 0x0405 (pkDst a.data + 2 ^ 12 * pkSrc a.data + 2 ^ 24 * r)
      noted.emit (noted.notice a.data r) 0 = .ok u → exec (.packetForward i) s = .next u)

/-- Requests of other devices (R433, R435): the first WRITE or SIGNAL of a source is applied to the window, recorded and answered; one
that is ahead of its turn is kept; a duplicate is answered again with the same status and not applied again.
The model's choices in it: log entry 46.
Completes: remoteWrite, remoteSignal. -/
def Obligations.RemoteRequestsApplyOnce : Prop :=
  ∀ (s : State) (i : Nat) (p : List Byte), s.live = true →
    (∀ w : Window, SMap.get none s.dups (pkSrc p) = none → BitVec.ofNat 32 (pkParam p) = 1 → s.window = some w → w.size ≠ 0 →
      let first : DupRec := { epoch := BitVec.ofNat 32 (pkWord p 5), expected := 2, held := [], recent := [(1, stOk)] }
      (∀ s1 : State, s.arrival? i 0x01 = some p → pkWord p 4 + (p.drop 32).length ≤ w.size * 65536 →
        (s.take i).store { part := w.part, fn := w.fn } (w.base + pkWord p 4) (p.drop 32) = .ok s1 →
        exec (.remoteWrite i) s =
          .next (({ s1 with dups := SMap.set none s1.dups (pkSrc p) (some first) } : State).acknowledge p stOk))
      ∧ (s.arrival? i 0x02 = some p → bitOf w.mask (pkWord p 4 / 1024) = true → (s.part w.part).hasSync (pkWord p 4) = true →
        exec (.remoteSignal i) s =
          .next (({ (s.take i).syncAdd (pkWord p 4) (pkWord p 6 + 2 ^ 32 * pkWord p 7) with
            dups := SMap.set none ((s.take i).syncAdd (pkWord p 4) (pkWord p 6 + 2 ^ 32 * pkWord p 7)).dups (pkSrc p) (some first) }
              : State).acknowledge p stOk)))
    ∧ (∀ d : DupRec, SMap.get none s.dups (pkSrc p) = some d → d.epoch = BitVec.ofNat 32 (pkWord p 5) →
      BitVec.ofNat 32 (pkParam p) ≠ d.expected → (BitVec.ofNat 32 (pkParam p) - d.expected).toNat ≤ 63 →
      d.held.any (fun h => h.1 == BitVec.ofNat 32 (pkParam p)) = false →
      ∀ c : Instr, (c = .remoteWrite i ∧ s.arrival? i 0x01 = some p) ∨ (c = .remoteSignal i ∧ s.arrival? i 0x02 = some p) →
        exec c s = .next { s.take i with
          dups := SMap.set none s.dups (pkSrc p) (some { d with held := d.held ++ [(BitVec.ofNat 32 (pkParam p), p)] }) })
    ∧ (∀ (d : DupRec) (r : BitVec 32 × Word16), SMap.get none s.dups (pkSrc p) = some d → d.epoch = BitVec.ofNat 32 (pkWord p 5) →
      BitVec.ofNat 32 (pkParam p) ≠ d.expected → 63 < (BitVec.ofNat 32 (pkParam p) - d.expected).toNat →
      d.recent.find? (fun r => r.1 == BitVec.ofNat 32 (pkParam p)) = some r →
      (s.arrival? i 0x01 = some p → exec (.remoteWrite i) s = .next ((s.take i).acknowledge p r.2))
      ∧ (s.arrival? i 0x02 = some p → exec (.remoteSignal i) s = .next ((s.take i).acknowledge p r.2)))

/-- This device's own requests (R432, R436): an ACK ends the request it answers with its status, a NOTICE with ST_LINK_DOWN; an unanswered
one is sent again with its SEQ, and after its limit ends with ST_LINK_DOWN, or ST_REPLAY_EXHAUSTED where its link went DOWN so.
The model's choices in it: log entries 46, 48 and 79.
Completes: ack, notice, remoteResend, remoteGiveUp. -/
def Obligations.OwnRequestsEnd : Prop :=
  ∀ (s : State) (i : Nat) (p : List Byte) (r : RemReq), s.live = true →
    (s.arrival? i 0x10 = some p → knownStatus (BitVec.ofNat 16 (pkWord p 4)) = true →
      s.reqs.find? (fun r => r.dst == pkSrc p && r.seq.toNat == pkParam p && pkWord p 5 == s.boot.epoch.toNat) = some r →
      exec (.ack i) s = .next ((s.take i).endRequest r (BitVec.ofNat 16 (pkWord p 4)))
      ∧ ∀ (q : Nat) (seq : BitVec 32), r.from_ = .packet q seq →
        ∃ u : State, exec (.ack i) s = .next u ∧ u.reqs = s.reqs.erase r
          ∧ ((∀ x ∈ s.packets, x.queue = q → x.seq = seq → x.work ≠ .done) → ∀ x ∈ u.packets, x.queue = q → x.seq = seq →
            x.work = .done ∧ x.status = BitVec.ofNat 16 (pkWord p 4)))
    ∧ (s.arrival? i 0x11 = some p → pkWord p 5 ≠ 0 →
      s.reqs.filter (fun r => r.seq.toNat == pkParam p && pkWord p 5 == s.boot.epoch.toNat) = [r] →
      exec (.notice i) s = .next ((s.take i).draw.2.endRequest r stLinkDown))
    ∧ (∀ (dst : Nat) (seq : BitVec 32), s.reqs.find? (fun r => r.dst == dst && r.seq == seq) = some r →
      exec (.remoteResend dst seq) s = .next (State.forward { s with reqs := s.reqs.map (fun x =>
        if x = r then { r with last := s.time, via := s.outLink r.data, lost := false } else x) } r.data 0 true)
      ∧ exec (.remoteGiveUp dst seq) s = .next (s.endRequest r (if r.exhausted then stReplay else stLinkDown)))

/-- Traffic of collectives (R446, R447, R450): an up chunk of a child is kept, a down chunk is passed on and kept for delivery, a barrier's
arrival is noted and its release ends it; a child sends again; at CTIMEOUT the oldest collective ends with ST_TIMEOUT. JOIN and LOST
(R439, R453): a JOIN with the same digest from below is noted, from above makes the communicator READY, with another digest BROKEN; it is
sent again while the exchange is not over, and kept where its GEN is a later one; a LOST takes its rank out.
The model's choices in it: log entries 47 and 79.
Completes: collUp, collDown, barUp, barDown, chunkResend, ctimeoutExpiry, join, joinResend, lost. -/
def Obligations.CollectiveTrafficAndJoins : Prop :=
  (∀ (s : State) (a i : Nat) (c : Comm) (k : Coll) (p : List Byte), s.live = true →
    (s.arrival? a 0x20 = some p → s.matchColl p = .use i c k → cbN p ≠ 0 → k.ph = .up → State.agrees p k = true →
      (cbFirst p, cbN p) ∈ k.chunks c.nmem → cbRank p ∈ k.children c (c.own.getD 0) →
      (∀ x ∈ k.kids, ¬ (x.1 = cbRank p ∧ x.2.1 = cbFirst p)) → ∀ d, unwireChunk k.op (cbN p) (p.drop 48) = some d →
      exec (.collUp a) s = .next (((s.take a).modColl i k (fun x =>
        { x with kids := x.kids ++ [(cbRank p, cbFirst p, d)] })).collRun i))
    ∧ (s.arrival? a 0x21 = some p → s.matchColl p = .use i c k → k.ph ≠ .finished →
      (cbStatus p = stOk → State.agrees p k = true → (cbFirst p, cbN p) ∈ k.chunks c.nmem → cbFirst p ∉ k.done →
        ∀ d : List Byte, unwireChunk k.op (cbN p) (p.drop 48) = some d →
        exec (.collDown a) s = .next (((s.take a).downChunk i k (cbFirst p, cbN p) d).collRun i))
      ∧ (cbStatus p ≠ stOk → knownStatus (cbStatus p) = true → k.ph = .up → exec (.collDown a) s = .next ((s.take a).downStatus i c k 0x21 (cbStatus p))))
    ∧ (s.arrival? a 0x22 = some p → s.matchColl p = .use i c k → k.ph = .up → State.agrees p k = true →
      exec (.barUp a) s = .next (((s.take a).modColl i k (fun x => { x with ranks := insAsc (cbRank p) x.ranks })).collRun i))
    ∧ (s.arrival? a 0x23 = some p → s.matchColl p = .use i c k → k.ph = .up → knownStatus (cbStatus p) = true →
      exec (.barDown a) s = .next ((s.take a).downStatus i c k 0x23 (cbStatus p)))
    ∧ (∀ me, s.comm i = some c → c.front = some k → c.own = some me → me ≠ 0 → k.ph = .up →
      (k.op = 5 → k.sent ≠ [] → exec (.chunkResend i) s = .next (s.sendColl c k (k.parent c me) 0x22 0 0 stOk []))
      ∧ (∀ (ch : Nat × Nat) (d : List Byte), k.op ≠ 5 → k.chunks c.nmem = [ch] → k.sent.contains ch.1 = true → State.upChunk c k ch = some d →
        exec (.chunkResend i) s = .next (s.sendColl c k (k.parent c me) 0x20 ch.1 ch.2 stOk (wireChunk k.op d))))
    ∧ (s.comm i = some c → c.colls.find? (fun k => k.ph == .waiting || k.ph == .up) = some k → k.ph = .up →
      exec (.ctimeoutExpiry i) s = .next ((s.endColl i k stTimeout).collRun i)))
  ∧ (∀ (s : State) (a i : Nat) (c : Comm) (p : List Byte), s.live = true →
    (s.arrival? a 0x30 = some p → s.commOf (pkParam p) = some (i, c) → cbGen p = c.gen → c.st ≠ .broken →
      (cbCount p = c.digest32 → c.joinTo ≠ some (pkSrc p) → c.st ≠ .ready →
        exec (.join a) s = .next ((((s.take a).setComm i (some { c with joined := insAsc (pkSrc p) c.joined })).joinStep i).collRun i))
      ∧ (cbCount p = c.digest32 → c.joinTo = some (pkSrc p) → c.st ≠ .ready →
        exec (.join a) s = .next (((((s.take a).commEnter i { c with next := 0 } .ready 0 0 false).joinDown c).collRun i)))
      ∧ (cbCount p ≠ c.digest32 → exec (.join a) s = .next ((s.take a).joinMismatch i c (pkSrc p) (cbCount p))))
    ∧ (s.arrival? a 0x30 = some p → s.commOf (pkParam p) = none → exec (.join a) s = .next (s.take a))
    ∧ (s.arrival? a 0x30 = some p → s.commOf (pkParam p) = some (i, c) → c.gen < cbGen p → exec (.join a) s = .next s)
    ∧ (∀ d, s.comm i = some c → c.joinTo = some d → c.st = .forming ∨ c.st = .remapping → c.joinSent = true →
      exec (.joinResend i) s = .next (s.sendJoin c d c.digest32))
    ∧ (s.arrival? a 0x31 = some p → s.commOf (pkWord p 4) = some (i, c) →
      exec (.lost a) s = .next ((s.take a).commLoss i (pkParam p % 4096) (cbRank p))))

/-! ### Faults and the maintenance scheduler -/

/-- The device fails (R496, R548): FAILED and FAIL# are set with the class, an ACTIVE link has 16 marker periods left and every other is
DOWN, and no command is served any more; so do the loss of both fault managers, of a clock, of the last healthy pair, and a thermal
shutdown, which latches THERMTRIP# (R494, R495, R524). In the periods left, HEARTBEAT stands still and the blocks go on.
The model's choices in it: log entry 50.
Completes: faultManagerLoss, clockLoss, lockstepMismatch, thermalShutdown. -/
def Obligations.DeviceFailures : Prop :=
  ∀ (s : State), s.boot.failed = false →
    (∀ info : FaultInfo, (s.failDevice info).boot.failed = true ∧ (s.failDevice info).boot.failPin = true
      ∧ (s.failDevice info).boot.failclass = BitVec.ofNat 8 info.cls ∧ (s.failDevice info).live = false
      ∧ (s.boot.pcieUp = true → (s.failDevice info).boot.aer = true)
      ∧ (∀ l ∈ (s.failDevice info).links, l.2.st = .down ∨ (l.2.st = .active ∧ l.2.dying = 16)))
    ∧ (s.live = true →
      exec (.faultManagerLoss true true) s = .next (s.failAnywhere 6)
      ∧ (∀ north south, north = false ∨ south = false → exec (.faultManagerLoss north south) s = .next s)
      ∧ exec .clockLoss s = .next (s.failAnywhere 8)
      ∧ (s.failAnywhere 8).boot.failed = true
      ∧ (s.boot.standbyOk = false → exec (.lockstepMismatch false) s =
          .next (s.failDevice { cls := 7, severity := 4, kind := 5, index := s.activeIdx }))
      ∧ (s.boot.standbyOk = true → ∃ u : State, exec (.lockstepMismatch false) s = .next u
          ∧ u.boot.activePair = !s.boot.activePair ∧ u.boot.standbyOk = false ∧ u.boot.failed = false ∧ u.packets = s.packets)
      ∧ (s.boot.standbyOk = true → ∃ u : State, exec (.lockstepMismatch true) s = .next u
          ∧ u.boot.activePair = s.boot.activePair ∧ u.boot.standbyOk = false))
    ∧ (∀ sensor temp, (sensor < 6 ∧ 115 < temp) ∨ (8 ≤ sensor ∧ sensor < 16 ∧ 105 < temp) → s.boot.porst = false →
      ∃ u : State, exec (.thermalShutdown sensor temp) s = .next u ∧ u.boot.failed = true ∧ u.boot.thermtrip = true
        ∧ u.boot.failclass = 0x0C)
    ∧ (∀ (t : State) (n corrected : Nat), n < 32 → t.boot.failed = true → 1 < (t.link n).dying →
      ∃ u : State, exec (.markerPeriod n corrected) t = .next u ∧ (u.link n).dying = (t.link n).dying - 1
        ∧ (u.link n).beat = (t.link n).beat ∧ (u.link n).mcount = (t.link n).mcount + 1
        ∧ (∀ b ∈ (u.link n).blocks, (b.getD 3 0).toNat.testBit 16 = true))

/-- Uncorrectable errors (R490, R497, R501, R502, R612): one in HBM marks its line, is counted, and the first one is logged at severity 2;
one in a memory of the control complex is counted and stops its pair. Scrub handles what it finds, bad lines and corrections, each by its
own operation, and its rate halves down to 15 minutes and doubles back.
The model's choices in it: log entries 42, 43 and 62.
Completes: uncorrectableError, scrubSlice, scrubRate. -/
def Obligations.ErrorsAndScrub : Prop :=
  ∀ (s : State), s.live = true →
    (∀ loc : BitVec 48, loc.toNat < 192 * 2 ^ 30 → (∀ fn, s.eventQueue fn = none) →
      ∃ u : State, exec (.uncorrectableError 1 (State.stackOf loc.toNat) loc) s = .next u
        ∧ u.rel.badHbm = insAsc (loc.toNat / 64) s.rel.badHbm ∧ s.rel.nextSeq < u.rel.nextSeq
        ∧ (SMap.get {} u.rel.counts (256 + State.stackOf loc.toNat)).uncorr
          = satInc (SMap.get {} s.rel.counts (256 + State.stackOf loc.toNat)).uncorr
        ∧ (s.seen (State.badKey 1 (State.stackOf loc.toNat) (loc.toNat / 64)) = 0 →
          ∃ f ∈ u.rel.log, f.severity = 2 ∧ f.cls = 4 ∧ f.kind = 1 ∧ f.index = State.stackOf loc.toNat))
    ∧ (∀ (i : Nat) (loc : BitVec 48), i < 2 → exec (.uncorrectableError 5 i loc) s =
        .next ((s.tally 5 i (fun c => { c with uncorr := satInc c.uncorr })).pairFails (i != s.activeIdx) 2))
    ∧ (∀ (res n : Nat) (bad : List (BitVec 48)), (s.lock res).holder = none → (s.lock res).queue = [] → resKind res ≠ 2 → res < 6 * 256 →
      exec (.scrubSlice res n bad) s = .next (bad.foldl (fun s l => s.uncorrectable (resKind res) (resIndex res) l.toNat false)
        (s.corrected (resKind res) (resIndex res) n)))
    ∧ (∀ res, res < 6 * 256 → resKind res ≠ 2 → SMap.wf 0 s.rel.periods = true →
      (15 < s.scrubPeriod res → ∃ u : State, exec (.scrubRate res true) s = .next u
        ∧ u.scrubPeriod res = Nat.max 15 (s.scrubPeriod res / 2) ∧ u.rel.log = s.rel.log)
      ∧ (s.scrubPeriod res ≤ 15 → exec (.scrubRate res true) s = .next s)
      ∧ ∃ u : State, exec (.scrubRate res false) s = .next u ∧ u.scrubPeriod res = Nat.min (2 * s.scrubPeriod res) (s.setPeriod res))

/-- The scheduler (R499, R500, R504 to R506): a free lock goes to the queued activity of lowest rank; a due repair asks for its lock; an
activity that may end gives its lock back and writes its end event, and a tile's repair takes the row out of use.
The model's choices in it: log entries 49 and 51.
Completes: maintLockGrant, autoRepair, maintActivityEnd. -/
def Obligations.MaintenanceRuns : Prop :=
  ∀ (s : State) (res : Nat), s.live = true →
    (∀ a : Act, (s.lock res).holder = none → lowestRank (s.lock res).queue = some a →
      exec (.maintLockGrant res) s =
        .next ((s.setLock res { holder := some a, queue := (s.lock res).queue.erase a }).beginMaint res)
      ∧ ∀ b ∈ (s.lock res).queue, a.rank ≤ b.rank)
    ∧ (s.rel.persist.contains res = true → ∃ u : State, exec (.autoRepair res) s = .next u ∧ res ∉ u.rel.persist
        ∧ ((s.lock res).holder = none → (s.lock res).queue = [] → resKind res ≠ 2 →
            (u.lock res).holder = some { fn := none, opcode := 0, seq := 0, kind := .maint res 0 }))
    ∧ (∀ (a : Act) (act : Nat) (result : BitVec 16), (s.lock res).holder = some a → a.kind = .maint res act →
      s.maintReady res act = true →
      (resKind res = 1 → act = 0 → exec (.maintActivityEnd res result) s =
          .next ((s.repairStack (resIndex res)).endMaint res stOk result.toNat))
      ∧ (resKind res = 2 ∨ resKind res = 4 ∨ (resKind res < 2 ∧ act ≠ 0) →
          exec (.maintActivityEnd res result) s = .next (s.endMaint res stOk result.toNat))
      ∧ (resKind res = 0 → act = 0 → (s.tile (resIndex res)).repair = (0x7F, 0x7F) → result.toNat ≤ 64 →
          exec (.maintActivityEnd res result) s = .next (({ s.modTile (resIndex res) (fun t => { t with
              repair := (BitVec.ofNat 7 result.toNat, 0x7F) }) with flash := { s.flash with
              repairs := SMap.set (0x7F, 0x7F) s.flash.repairs (resIndex res) (BitVec.ofNat 7 result.toNat, 0x7F) } }).endMaint
            res stOk result.toNat)))

/-! ### Reset and bring-up -/

/-- What PORST# leaves (R541 to R549, R597): stage 0x0, nothing running or waiting, every memory empty, every link DISABLED, no fabric ID,
every register of a function at its reset value, the operating point 0 and the cap at 1,400 W, and the PF in partition 0.
The model's choices in it: log entry 5. -/
def Obligations.ResetLeaves : Prop :=
  State.reset.boot.porst = true ∧ State.reset.boot.stage = 0 ∧ State.reset.boot.failed = false ∧ State.reset.live = false
    ∧ State.reset.time = 0 ∧ State.reset.pending = [] ∧ State.reset.packets = [] ∧ State.reset.launches = [] ∧ State.reset.flights = []
    ∧ State.reset.hbm = [] ∧ State.reset.devid = none ∧ State.reset.vfEnable = false
    ∧ (∀ n, (State.reset.link n).st = .disabled) ∧ (∀ i, State.reset.counter i = 0)
    ∧ (∀ d i, State.reset.cstEntry d i = 0x0000_0000_8000_4000)
    ∧ (∀ q, (State.reset.queue q).created = false) ∧ (∀ i, (State.reset.slot i).active = false)
    ∧ (∀ ph i, (State.reset.tile ph).slot i = {}) ∧ (∀ ph, (State.reset.tile ph).running = false)
    ∧ (State.reset.func 0).present = true ∧ (State.reset.func 0).bound = some 0 ∧ (State.reset.func 0).irqStatus = 0
    ∧ (State.reset.func 0).badAccess = none ∧ (State.reset.func 0).scratch = 0 ∧ (State.reset.func 0).mbx.ready = false
    ∧ (∀ n, n ≠ 0 → (State.reset.func n).present = false)
    ∧ State.reset.weir.opp = 0 ∧ State.reset.weir.cap = 1400 ∧ State.reset.weir.pinned = false ∧ State.reset.sec.unlocked = false
    ∧ State.reset.rel.log = []

/-- After reset the device holds one partition, partition 0 (R36): it owns every granule, it is bound to the PF and to no VF, and its
logical tiles are bound by R30 (tiles with an enabled array in ascending order, then those without) with no spares held. -/
def Obligations.WholePartitionAfterReset : Prop :=
  (∀ p, p ≠ 0 → (State.reset.part p).held = false) ∧ (State.reset.part 0).held = true
    ∧ (∀ ph, ph < 256 → (State.reset.part 0).hasTile ph = true) ∧ (∀ i, i < 32768 → (State.reset.part 0).hasSync i = true)
    ∧ (∀ i, i < 256 → (State.reset.part 0).hasSlot i = true ∧ (State.reset.part 0).hasComm i = true)
    ∧ (∀ e, e < 32 → (State.reset.part 0).hasEngine e = true ∧ (State.reset.part 0).hasPage e = true)
    ∧ (∀ d i, d < 4 → i < 131072 → (State.reset.part 0).hasCst d i = true)
    ∧ (∀ g, g < 192 → bitOf (State.reset.part 0).hbm g = true)
    ∧ (State.reset.part 0).bind = (List.range 256).filter (fun ph => (State.reset.tile ph).arrayOn)
        ++ (List.range 256).filter (fun ph => !(State.reset.tile ph).arrayOn)
    ∧ (State.reset.part 0).spares = []
    ∧ (State.reset.func 0).bound = some 0 ∧ ∀ n, n ≠ 0 → (State.reset.func n).bound = none

/-- Whole-device resets (R587, R592, R597, R598, R607): every state goes back to its reset value but fuses and flash, which no reset
changes where no bank is being written; the cause is latched, and whether the device had failed; PORST# releases FAIL# and THERMTRIP#, a
device reset keeps them. With an ACTIVE link, PORST# and a device reset wait for its last marker periods; an undervoltage does not.
The model's choices in it: log entries 6, 56 and 80.
Completes: porstAssert, deviceReset, railUndervoltage, railToleranceReached, pcieLinkUp. -/
def Obligations.ResetsClear : Prop :=
  ∀ (s : State), s.boot.porst = false →
    (s.boot.resetDue = none → (∀ l ∈ s.links, l.2.st ≠ .active) →
      (∃ u : State, exec .porstAssert s = .next u ∧ u.boot.porst = true ∧ u.boot.cause = 1 ∧ u.boot.failPin = false
        ∧ u.boot.thermtrip = false
        ∧ u.boot.prevfail = s.boot.failed ∧ u.boot.prevclass = s.boot.failclass ∧ u.fuses = s.fuses ∧ (s.acts = [] → u.flash = s.flash)
        ∧ u.tiles = [] ∧ u.queues = [] ∧ u.packets = [] ∧ u.links = [] ∧ u.hbm = [] ∧ u.sync = [] ∧ u.weir = {} ∧ u.pending = s.pending)
      ∧ (∀ cause, cause = 3 ∨ cause = 4 ∨ cause = 5 →
        ∃ u : State, exec (.deviceReset cause) s = .next u ∧ u.boot.cause = BitVec.ofNat 4 cause ∧ u.boot.porst = false
          ∧ u.boot.failPin = s.boot.failPin ∧ u.boot.thermtrip = s.boot.thermtrip ∧ u.boot.prevfail = s.boot.failed
          ∧ u.boot.failed = false ∧ u.boot.stage = (if s.boot.railsOk && !s.boot.thermtrip then 1 else 0)
          ∧ u.boot.straps = s.boot.straps ∧ u.fuses = s.fuses ∧ (s.acts = [] → u.flash = s.flash) ∧ u.tiles = [] ∧ u.queues = []
          ∧ u.hbm = []))
    ∧ (∀ (c : Instr) (cause : BitVec 4), (c, cause) ∈ [(Instr.porstAssert, 1), (.deviceReset 3, 3), (.deviceReset 4, 4), (.deviceReset 5, 5)] →
      s.boot.resetDue = none → (∃ l ∈ s.links, l.2.st = .active) →
      ∃ u : State, exec c s = .next u ∧ u.boot.resetDue = some cause ∧ u.live = false ∧ u.hbm = s.hbm
        ∧ (∀ l ∈ u.links, (l.2.st = .active ∧ l.2.dying = 16) ∨ l.2.st = .disabled))
    ∧ (∀ (n corrected : Nat) (cause : BitVec 4), n < 32 → SMap.wf {} s.links = true → s.boot.resetDue = some cause →
      (s.link n).dying = 1 → (∀ l ∈ s.links, l.1 ≠ n → l.2.dying = 0) →
      ∃ u : State, exec (.markerPeriod n corrected) s = .next u ∧ u.boot.cause = cause ∧ u.boot.porst = (cause == 1)
        ∧ u.boot.resetDue = none ∧ u.fuses = s.fuses ∧ u.tiles = [] ∧ u.links = [] ∧ u.hbm = [])
    ∧ (∀ rail, rail < 15 → s.boot.railsOk = true →
      ∃ u : State, exec (.railUndervoltage rail) s = .next u ∧ u.boot.cause = 2 ∧ u.boot.uvrail = BitVec.ofNat 4 rail
        ∧ u.boot.stage = 0 ∧ u.boot.railsOk = false ∧ u.fuses = s.fuses ∧ u.tiles = [] ∧ u.hbm = [])
    ∧ (∀ straps, s.boot.railsOk = false → s.boot.thermtrip = false →
      ∃ u : State, exec (.railToleranceReached straps) s = .next u ∧ u.boot.stage = 1 ∧ u.boot.railsOk = true
        ∧ u.boot.straps = (if s.boot.resample then Straps.sample straps else s.boot.straps))
    ∧ (∀ straps rails, exec (.porstDeassert straps rails) s = .next s)
    ∧ (1 ≤ s.boot.stage.toNat → exec .pcieLinkUp s = .next { s with boot := { s.boot with pcieUp := true } })

/-- Bring-up (R581, R600 to R606): PORST# deasserted samples the straps; the boot ROM boots the first bank that it accepts, or gives up at
stage 0xF; the stages follow each other: the pairs with EPOCH one more, HBM with zeros and without failed stacks, the links from DETECT,
the tiles with partition 0 whole and READY at stage 0x6.
The model's choices in it: log entries 58 and 59.
Completes: porstDeassert, bootImageVerify, bringUpStage. -/
def Obligations.BringUpStages : Prop :=
  ∀ (s : State),
    (∀ straps rails, s.boot.porst = true → ∃ u : State, exec (.porstDeassert straps rails) s = .next u ∧ u.boot.porst = false
      ∧ u.boot.straps = Straps.sample straps ∧ u.boot.stage = (if rails then 1 else 0))
    ∧ (s.boot.porst = false → s.boot.stage = 1 →
      (fwAccepted s.fuses (s.flash.bank s.bankTried) = true →
        ∃ u : State, exec .bootImageVerify s = .next u ∧ u.boot.stage = 2 ∧ u.boot.fwbank = s.bankTried)
      ∧ (fwAccepted s.fuses (s.flash.bank s.bankTried) = false → s.boot.tried = 0 →
        exec .bootImageVerify s = .next { s with boot := { s.boot with tried := 1 } })
      ∧ (fwAccepted s.fuses (s.flash.bank s.bankTried) = false → s.boot.tried ≠ 0 →
        exec .bootImageVerify s = .next { s with boot := { s.boot with stage := 0xF } }))
    ∧ (∀ hbmFail arrays tiles north south, s.boot.porst = false → s.boot.failed = false →
      (s.boot.stage = 2 → north = true → ∃ u : State, exec (.bringUpStage hbmFail arrays tiles north south) s = .next u
        ∧ u.boot.stage = 3 ∧ u.flash.epoch = s.flash.epoch + 1 ∧ u.boot.epoch = s.flash.epoch + 1 ∧ u.boot.activePair = false)
      ∧ (s.boot.stage = 2 → north = false → south = false → ∃ u : State, exec (.bringUpStage hbmFail arrays tiles north south) s = .next u
        ∧ u.boot.stage = 0xF)
      ∧ (s.boot.stage = 3 → hbmFail = 0 → ∃ u : State, exec (.bringUpStage hbmFail arrays tiles north south) s = .next u
        ∧ u.boot.stage = 4 ∧ u.hbm = [] ∧ u.boot.hbmoff = 0)
      ∧ (s.boot.stage = 4 → ∃ u : State, exec (.bringUpStage hbmFail arrays tiles north south) s = .next u
        ∧ u.boot.stage = 5 ∧ ∀ n, n < 32 → (u.link n).st = .detect)
      ∧ (s.boot.stage = 5 → s.boot.recovery = false → ∃ u : State, exec (.bringUpStage hbmFail arrays tiles north south) s = .next u
        ∧ u.boot.stage = 6 ∧ (u.func 0).bound = some 0 ∧ u.weir = {} ∧ u.cst = [] ∧ (∀ i, (u.tile i).running = false)
        ∧ (∀ i, i < 256 → (u.tile i).basin = [] ∧ (u.tile i).cistern = [])
        ∧ s.fuses.minSvn.toNat ≤ u.fuses.minSvn.toNat))

/-! ### The host port -/

/-- Configuration space (R533, R536, R537): a function-level reset clears the function's mailbox, registers and queues and keeps its
binding and its configuration bits, and the mailbox is not READY until firmware serves it again; VF Enable makes virtual functions, not
READY at first; Bus Master Enable lets pending messages out; Memory Space Enable is kept.
The model's choices in it: log entries 5 and 57.
Completes: flr, vfEnableChange, busMasterEnableChange, memorySpaceEnableChange. -/
def Obligations.ConfigurationSpaceCommands : Prop :=
  ∀ (s : State) (fn : Nat), s.boot.pcieUp = true →
    ((s.func fn).present = true → exec (.flr fn) s = .next (s.flr fn)
      ∧ ((s.flr fn).func fn).mbx.busy = false ∧ ((s.flr fn).func fn).mbx.done = false ∧ ((s.flr fn).func fn).mbx.seq = 0
      ∧ ((s.flr fn).func fn).irqStatus = 0 ∧ ((s.flr fn).func fn).badAccess = none ∧ ((s.flr fn).func fn).scratch = 0
      ∧ ((s.flr fn).func fn).mbx.ready = false
      ∧ ((∀ e ∈ s.queues, e.2.created = true → e.2.owner ≠ fn) → ((s.flr fn).func fn).bound = (s.func fn).bound
          ∧ ((s.flr fn).func fn).bme = (s.func fn).bme ∧ ((s.flr fn).func fn).mse = (s.func fn).mse)
      ∧ (∀ a ∈ (s.flr fn).arms, a.2.fn ≠ fn) ∧ fn ∉ (s.flr fn).gos)
    ∧ (∀ n, s.vfEnable = false → n ≤ 64 → ∃ u : State, exec (.vfEnableChange true n) s = .next u ∧ u.vfEnable = true ∧ u.numVfs = n
        ∧ (∀ k, 1 ≤ k → k ≤ n → (u.func k).present = true
            ∧ ((s.func k).present = false → (u.func k).bound = none ∧ (u.func k).mbx.ready = false))
        ∧ (u.func 0) = s.func 0)
    ∧ ((s.func fn).present = true →
      (∀ on, exec (.memorySpaceEnableChange fn on) s = .next (s.modFunc fn (fun f => { f with mse := on })))
      ∧ exec (.busMasterEnableChange fn false) s = .next (s.modFunc fn (fun f => { f with bme := false }))
      ∧ ∃ u : State, exec (.busMasterEnableChange fn true) s = .next u ∧ (u.func fn).bme = true
          ∧ (∀ v ∈ (u.func fn).pba, (s.func fn).vecOpen.contains v = false)
          ∧ (∀ v ∈ (s.func fn).pba, (s.func fn).vecOpen.contains v = true → v ∈ (u.func fn).sent))

/-- Registers of a BAR (R8, R538 to R550): reading GLB_TIME's low half latches the high half; W1C registers clear the bits written 1;
GLB_BADACCESS keeps the first bad access until it is cleared; unmasking a vector sends its pending message; a write of SCRATCH reads back;
TST_CTL needs debug unlocked; the request page takes its bytes; an 8-byte write that covers two registers writes both.
The model's choices in it: log entries 61 and 76.
Completes: glbTimeRead, glbBadaccessClear, irqStatusClear, msixUnmask, tstCtlWrite, barBadAccess, registerWrite. -/
def Obligations.BarRegistersBehave : Prop :=
  ∀ (s : State) (fn : Nat), (s.func fn).reach = true →
    (exec (.glbTimeRead fn) s = .next (s.modFunc fn (fun f => { f with timeHi := BitVec.ofNat 32 (s.time / 2 ^ 32) })))
    ∧ (∃ u : State, exec (.glbBadaccessClear fn) s = .next u ∧ (u.func fn).badAccess = none ∧ (u.func fn).scratch = (s.func fn).scratch)
    ∧ (∀ v : BitVec 32, ∃ u : State, exec (.irqStatusClear fn v) s = .next u
        ∧ (u.func fn).irqStatus = (s.func fn).irqStatus &&& ~~~ v.setWidth 3 ∧ (u.func fn).irqEnable = (s.func fn).irqEnable)
    ∧ (∀ vec, vec < vectorsOf fn → ∃ u : State, exec (.msixUnmask fn vec) s = .next u ∧ vec ∈ (u.func fn).vecOpen
        ∧ ((s.func fn).bme = true → vec ∈ (s.func fn).pba → vec ∈ (u.func fn).sent ∧ vec ∉ (u.func fn).pba))
    ∧ (∀ v : BitVec 32, fn = 0 →
      (s.sec.unlocked = true → ∃ u : State, exec (.tstCtlWrite fn v) s = .next u ∧ u.tele.tstOn = v.getLsbD 0)
      ∧ (s.sec.unlocked = false → (s.func fn).badAccess = none → ∃ u : State, exec (.tstCtlWrite fn v) s = .next u
          ∧ u.tele.tstOn = s.tele.tstOn ∧ (u.func fn).badAccess = some (0x03_0000, 3)))
    ∧ (∀ offset size write k, s.badKind fn offset size write = some k →
      ∃ u : State, exec (.barBadAccess fn offset size write) s = .next u ∧ (u.func fn).scratch = (s.func fn).scratch
        ∧ (u.func fn).badAccess = (match (s.func fn).badAccess with
            | some b => some b
            | none => some (BitVec.ofNat 24 offset, BitVec.ofNat 2 k)))
    ∧ (∀ bs : List Byte, bs.length = 8 → ∃ u : State, exec (.registerWrite fn 0x28 bs) s = .next u
        ∧ (u.func fn).scratch = BitVec.ofNat 64 (leNat bs) ∧ (u.func fn).irqEnable = (s.func fn).irqEnable)
    ∧ (∀ st en : BitVec 32, ∃ u : State, exec (.registerWrite fn 0x1000 (leBytes 4 st.toNat ++ leBytes 4 en.toNat)) s = .next u
        ∧ (u.func fn).irqStatus = (s.func fn).irqStatus &&& ~~~ st.setWidth 3
        ∧ (u.func fn).irqEnable = en.setWidth 3 &&& (if fn = 0 then 6 else 2))
    ∧ (∀ (i : Nat) (bs : List Byte), bs ≠ [] → i + bs.length ≤ 4096 → s.badKind fn (0x1_0000 + i) bs.length true = none →
      ∃ u : State, exec (.registerWrite fn (0x1_0000 + i) bs) s = .next u
        ∧ (u.func fn).mbx.req = (s.func fn).mbx.req.setBytes i bs ∧ (u.func fn).mbx.resp = (s.func fn).mbx.resp)

/-! ### Management, test access, sampling -/

/-- The management ports (R551 to R555): a request that a port takes is answered there with what the manual gives it and changes nothing
else, save Set Endpoint ID, SetTID and the power cap.
The model's choices in it: log entries 8, 16 and 60.
Completes: getVersion, getCapabilities, negotiateAlgorithms, getDigests, getCertificate, challenge, getMeasurements, setEndpointId,
getEndpointId, getMctpVersionSupport, getMessageTypeSupport, gettid, settid, getpldmversion, getpldmtypes, getpldmcommands,
getpdrrepositoryinfo, getpdr, getsensorreading, getstatesensorreadings, setnumericeffectervalue, getnumericeffectervalue. -/
def Obligations.ManagementRequestsAnswer : Prop :=
  ∀ (s : State) (port : Nat),
    (∀ (c : Instr) (r : Reply), (c, r) ∈ [(Instr.getVersion port, Reply.versions [0x12, 0x13]),
        (.getCapabilities port, .capabilities true true true false), (.negotiateAlgorithms port true true, .algorithms),
        (.negotiateAlgorithms port false true, .unsupported), (.getDigests port, .digests (sha384 Config.certChain)),
        (.getCertificate port 0 0 64, .certificate 0 (Config.certChain.take 64)), (.getCertificate port 1 0 64, .unsupported),
        (.getMeasurements port 1 false [], .measurements [(1, s.boot.fwdig)] []),
        (.getMeasurements port 2 false [], .measurements [(2, s.boot.jetdig)] [])] →
      s.portUp port = true → exec c s = .next (s.reply port r))
    ∧ (∀ nonce : List Byte, s.portUp port = true → nonce.length = 32 →
      exec (.challenge port 0 nonce) s = .next (s.draw.2.reply port (.challengeAuth (sha384 Config.certChain) (freeBytes 32 s.draw.1)
        (freeBytes 96 (s.draw.1 / 2 ^ 256)))))
    ∧ (s.smbUp port = true →
      (∀ (c : Instr) (r : Reply), (c, r) ∈ [(Instr.getEndpointId port, Reply.endpoint (SMap.get ({} : Port) s.mgmt.ports port).eid),
          (.getMessageTypeSupport port, .msgTypes [0, 1, 5]), (.gettid port, .tid s.mgmt.tid), (.getpldmtypes port, .msgTypes [0, 2]),
          (.getpdrrepositoryinfo port, .repository 20), (.getpdr port 20, .pdr 20 "numeric effecter" "power cap"),
          (.getpdr port 21, .invalidData), (.getstatesensorreadings port 19, .state 19 s.stateSensor),
          (.getnumericeffectervalue port 20, .effecter 20 s.weir.cap),
          (.getpldmcommands port 0, .commands ["GetTID", "SetTID", "GetPLDMVersion", "GetPLDMTypes", "GetPLDMCommands"]),
          (.getpldmcommands port 5, .invalidData)] →
        exec c s = .next (s.reply port r))
      ∧ exec (.getMctpVersionSupport port) s = .next (s.draw.2.reply port (.versions [s.draw.1]))
      ∧ exec (.getpldmversion port 2) s = .next (s.draw.2.reply port (.pldmVersion s.draw.1))
      ∧ (∀ id, 1 ≤ id → id ≤ 18 →
        exec (.getsensorreading port id) s = .next (s.draw.2.reply port (.reading id (s.draw.2.sensor id s.draw.1))))
      ∧ (∀ eid, 1 ≤ eid → eid ≤ 254 → exec (.setEndpointId port eid) s =
          .next (({ s with mgmt := { s.mgmt with ports := SMap.set {} s.mgmt.ports port { eid := eid } } } : State).reply port (.endpoint eid)))
      ∧ (∀ tid, 1 ≤ tid → tid ≤ 254 → exec (.settid port tid) s =
          .next (({ s with mgmt := { s.mgmt with tid := tid } } : State).reply port .success))
      ∧ (∀ watts, 600 ≤ watts → watts ≤ 1400 → ∃ u : State, exec (.setnumericeffectervalue port 20 watts) s = .next u ∧ u.weir.cap = watts
          ∧ u.weir.opp = s.weir.opp))

/-- Boundary scan, precise sampling and refresh (R293, R566, R593): with PORST# asserted a TAP takes its instruction, and IDCODE shifts
out the die's code; otherwise every TAP is in BYPASS; the sampler takes a record of eight words, which lands in its buffer, or counts one
lost where its four places are taken or the buffer has none free; a refresh of HBM changes no bit.
The model's choices in it: log entries 9, 26 and 63.
Completes: tapInstruction, preciseSample, hbmRefresh. -/
def Obligations.TestAndSamplingAct : Prop :=
  ∀ (s : State),
    (∀ codes balls data, codes.length = 6 → s.tap.ir.length = 6 → s.tap.dr.length = 6 →
      ∃ u : State, exec (.tapInstruction codes balls data) s = .next u ∧ { u with tap := s.tap } = s
        ∧ (s.boot.porst = true → u.tap.ir = codes
            ∧ ∀ i, i < 6 → (codes.getD i 0).toNat = 1 → u.tap.dr.getD i [] = (List.range 32).map (idcode s.fuses.stepping i).getLsbD)
        ∧ (s.boot.porst = false → u.tap.ir = List.replicate 6 0xFF ∧ u.tap.dr = List.replicate 6 [false]))
    ∧ (∀ tile instr row passes replayed l, s.live = true → s.runningOf (s.tile tile).part = some l → (s.tile tile).running = true →
      (s.tile tile).stopped = false → (s.tile tile).sampler.period ≠ 0 → instr < (s.tile tile).ninstr →
      ∃ u : State, exec (.preciseSample tile instr row passes replayed) s = .next u ∧ { u with tiles := s.tiles } = s
        ∧ (∀ o, o ≠ tile → u.tile o = s.tile o)
        ∧ (u.tile tile).sampler.buffer = (s.tile tile).sampler.buffer
        ∧ ((s.tile tile).sampler.staged.length < 4 →
          (s.tile tile).sampler.buffer.length + (s.tile tile).sampler.staged.length < (s.tile tile).sampler.samplen / 32 →
            (u.tile tile).sampler.lost = (s.tile tile).sampler.lost ∧ ∃ r : List (BitVec 32), r.length = 8
              ∧ (u.tile tile).sampler.staged = (s.tile tile).sampler.staged ++ [r])
        ∧ (4 ≤ (s.tile tile).sampler.staged.length
            ∨ (s.tile tile).sampler.samplen / 32 ≤ (s.tile tile).sampler.buffer.length + (s.tile tile).sampler.staged.length →
            (u.tile tile).sampler.staged = (s.tile tile).sampler.staged
              ∧ (u.tile tile).sampler.lost = Nat.min ((s.tile tile).sampler.lost + 1) 0xFFFF))
    ∧ (∀ (sm : Sampler) (r : List (BitVec 32)), sm.staged = [r] → r.length = 8 →
      sm.land.staged = [] ∧ sm.land.lost = 0 ∧ sm.land.buffer = sm.buffer ++ [r.set 7 (r.getD 7 0 + BitVec.ofNat 32 sm.lost)])
    ∧ (∀ stack bank, exec (.hbmRefresh stack bank) s = .next s)

/-! ### Storage, time, and the machine as a whole -/

/-- A numbered store gives back what was put at a place, and every other place as before; a write keeps the canonical form, and two
canonical stores that read alike everywhere are the same. Bytes of a memory are little-endian and land where they are put (R7): what was
written reads back, every byte outside stays, and the canonical form with it. -/
def Obligations.StoresAndMemoriesReadBack : Prop :=
  (∀ (m : SMap (BitVec 64)) (d : BitVec 64), SMap.wf d m = true →
    (∀ i v, SMap.get d (SMap.set d m i v) i = v)
    ∧ (∀ i j v, j ≠ i → SMap.get d (SMap.set d m i v) j = SMap.get d m j)
    ∧ (∀ i v, SMap.wf d (SMap.set d m i v) = true)
    ∧ (∀ n : SMap (BitVec 64), SMap.wf d n = true → (∀ i, SMap.get d m i = SMap.get d n i) → m = n))
  ∧ (∀ (m : Mem) (a : Nat) (bs : List Byte), m.wf = true →
    (m.setBytes a bs).bytes a bs.length = bs
    ∧ (∀ b, b < a ∨ a + bs.length ≤ b → (m.setBytes a bs).byte b = m.byte b)
    ∧ (m.setBytes a bs).wf = true
    ∧ (∀ v, v < 256 ^ bs.length → leNat (leBytes bs.length v) = v) ∧ leBytes bs.length (leNat bs) = bs)

/-- A store through a device address that stays in one mapped 64 KiB block of HBM writes those bytes and no other byte of the device
(R276), and only where the page is writable. -/
def Obligations.StoresToHbmLand : Prop :=
  ∀ (s : State) (a : Agent) (va pa : Nat) (bs : List Byte), s.hbm.wf = true → bs ≠ [] → va % 65536 + bs.length ≤ 65536 → va < 2 ^ 38 →
    (s.translate a.part va true = some (.hbm pa) → (∀ l ∈ State.linesOf pa bs.length, l ∉ s.rel.badHbm) →
      ∃ u : State, s.store a va bs = .ok u ∧ u.hbm.bytes pa bs.length = bs
        ∧ (∀ b, b < pa ∨ pa + bs.length ≤ b → u.hbm.byte b = s.hbm.byte b)
        ∧ u.tiles = s.tiles ∧ u.hostMem = s.hostMem ∧ u.queues = s.queues ∧ u.sync = s.sync)
    ∧ (s.translate a.part va true = none → s.store a va bs = .error (.status stNotPermitted))

/-- An idle step (the model's choice: log entry 2) lets one TCLK cycle pass, or none while PORST# is asserted; no command comes or goes. -/
def Obligations.IdleStepPassesTime : Prop :=
  ∀ (s : State), s.pending = [] →
    step s = .next s.tick ∧ s.tick.pending = []
      ∧ (s.boot.porst = true → s.tick = s)
      ∧ (s.boot.porst = false → s.live = false → s.tick.time = s.time + 1)

/-- A command leaves the queue of waiting commands as it is. Only the Weir's own commands, what sets the cap or the pin, and resets change
the Weir: for every other command, throttle, account, points and voltages are as before. -/
def Obligations.CommandsLeaveTheQueueAndOthersTheWeir : Prop :=
  (∀ (c : Instr) (s t : State), exec c s = .next t → t.pending = s.pending)
  ∧ (∀ (c : Instr) (s t : State), movesWeir c = false → exec c s = .next t → t.weir = s.weir)

/-- The bounds of the Weir hold after reset.
The model's choices in it: log entry 53. -/
def Obligations.WeirBoundsAtReset : Prop := State.reset.weir.bounded = true

/-- Every step keeps the bounds of the Weir (R514, R516, R520, R521, R523): the point is one of eight, throttle levels are at most 8, the
account is at most 2 J, the cap lies between 600 W and 1,400 W.
The model's choices in it: log entries 52, 53 and 54. -/
def Obligations.StepsKeepTheWeirBounds : Prop :=
  ∀ (s t : State), s.weir.bounded = true → step s = .next t → t.weir.bounded = true
end

