-- ==== Sys2Proof/Laws/Frame.lean ====
section
/-! SUPPORT. What each shared operation leaves alone: the Weir and the queue of commands. -/

namespace Sys2Proof.Machine

/-- What most commands leave alone: the Weir and the queue of commands. -/
def State.frame (s : State) : Weir × List Instr := (s.weir, s.pending)

@[simp] theorem State.frame_eta (s : State) : (s.weir, s.pending) = s.frame := rfl

@[simp ↓] theorem State.frame_mk {x0 x1 x2 x3 x4 x5 x6 x7 x8 x9 x10 x11 x12 x13 x14 x15 x16 x17 x18 x19 x20 x21 x22 x23 x24 x25 x26 x27 x28 x29 x30 x31 x32 x33 x34 x35 x36 x37 x38 x39 x40 x41 x42 x43 x44 x45 x46} :
    (State.mk x0 x1 x2 x3 x4 x5 x6 x7 x8 x9 x10 x11 x12 x13 x14 x15 x16 x17 x18 x19 x20 x21 x22 x23 x24 x25 x26 x27 x28 x29 x30 x31 x32 x33 x34 x35 x36 x37 x38 x39 x40 x41 x42 x43 x44 x45 x46).frame = (x40, x46) := rfl

@[simp ↓] theorem foldl_frame {α : Type} (f : State → α → State) (h : ∀ s a, (f s a).frame = s.frame) (l : List α) (s : State) :
    (l.foldl f s).frame = s.frame := by
  induction l generalizing s with
  | nil => rfl
  | cons a l ih => simp [ih, h]



@[simp ↓] theorem State.when_frame (s : State) (c : Bool) (f : State → State) (h : (f s).frame = s.frame) : (s.when c f).frame = s.frame := by
  unfold State.when; split <;> simp [h]

@[simp ↓] theorem ite_frame (p : Prop) [Decidable p] (a b : State) : (if p then a else b).frame = if p then a.frame else b.frame := by
  split <;> rfl

@[simp ↓] theorem State.setTile_frame (s : State) (i : Nat) (t : Tile) :
    (s.setTile i t).frame = s.frame := by simp [State.setTile]

@[simp ↓] theorem State.modTile_frame (s : State) (i : Nat) (f : Tile → Tile) :
    (s.modTile i f).frame = s.frame := by simp [State.modTile]

@[simp ↓] theorem State.setPart_frame (s : State) (i : Nat) (p : Part) :
    (s.setPart i p).frame = s.frame := by simp [State.setPart]

@[simp ↓] theorem State.setFunc_frame (s : State) (i : Nat) (f : Func) :
    (s.setFunc i f).frame = s.frame := by simp [State.setFunc]

@[simp ↓] theorem State.modFunc_frame (s : State) (i : Nat) (f : Func → Func) :
    (s.modFunc i f).frame = s.frame := by simp [State.modFunc]

@[simp ↓] theorem State.setQueue_frame (s : State) (i : Nat) (q : Queue) :
    (s.setQueue i q).frame = s.frame := by simp [State.setQueue]

@[simp ↓] theorem State.modQueue_frame (s : State) (i : Nat) (f : Queue → Queue) :
    (s.modQueue i f).frame = s.frame := by simp [State.modQueue]

@[simp ↓] theorem State.setCounter_frame (s : State) (i : Nat) (v : BitVec 64) :
    (s.setCounter i v).frame = s.frame := by simp [State.setCounter]

@[simp ↓] theorem State.setSlot_frame (s : State) (i : Nat) (v : Slot) :
    (s.setSlot i v).frame = s.frame := by simp [State.setSlot]

@[simp ↓] theorem State.setChan_frame (s : State) (i : Nat) (c : Chan) :
    (s.setChan i c).frame = s.frame := by simp [State.setChan]

@[simp ↓] theorem State.modChan_frame (s : State) (i : Nat) (f : Chan → Chan) :
    (s.modChan i f).frame = s.frame := by simp [State.modChan]

@[simp ↓] theorem State.setLink_frame (s : State) (i : Nat) (l : Link) :
    (s.setLink i l).frame = s.frame := by simp [State.setLink]

@[simp ↓] theorem State.modLink_frame (s : State) (i : Nat) (f : Link → Link) :
    (s.modLink i f).frame = s.frame := by simp [State.modLink]

@[simp ↓] theorem State.setComm_frame (s : State) (i : Nat) (c : Option Comm) :
    (s.setComm i c).frame = s.frame := by simp [State.setComm]

@[simp ↓] theorem State.setCstEntry_frame (s : State) (die i : Nat) (v : BitVec 64) :
    (s.setCstEntry die i v).frame = s.frame := by simp [State.setCstEntry]

@[simp ↓] theorem State.modPacket_frame (s : State) (q : Nat) (seq : BitVec 32) (f : Packet → Packet) :
    (s.modPacket q seq f).frame = s.frame := by simp [State.modPacket]

@[simp ↓] theorem State.modLaunch_frame (s : State) (q : Nat) (seq : BitVec 32) (f : Launch → Launch) :
    (s.modLaunch q seq f).frame = s.frame := by simp [State.modLaunch]

@[simp ↓] theorem State.raise_frame (s : State) (fn v : Nat) :
    (s.raise fn v).frame = s.frame := by simp [State.raise]

@[simp ↓] theorem State.count_frame (s : State) (unit event cycles v sub : Nat) :
    (s.count unit event cycles v sub).frame = s.frame := by simp [State.count]

@[simp ↓] theorem State.countHbm_frame (s : State) (event pa n : Nat) :
    (s.countHbm event pa n).frame = s.frame := by simp [State.countHbm]

@[simp ↓] theorem State.interval_frame (s : State) (part kind qual len : Nat) :
    (s.interval part kind qual len).frame = s.frame := by simp [State.interval]

@[simp ↓] theorem State.draw_frame (s : State) : s.draw.2.frame = s.frame := rfl

@[simp ↓] theorem State.fetch_frame (s : State) (p : Place) (n : Nat) : (s.fetch p n).1.frame = s.frame := by
  cases p <;> simp only [State.fetch]
  · simp
  · repeat' split
    all_goals simp

@[simp ↓] theorem State.fetchAll_frame (s : State) (ps : List (Place × Nat)) : (s.fetchAll ps).1.frame = s.frame := by
  induction ps generalizing s with
  | nil => rfl
  | cons p ps ih => simp [State.fetchAll, ih]

theorem State.load_frame {s : State} {a : Agent} {da n : Nat} {r : State × List Byte} (h : s.load a da n = .ok r) :
    r.1.frame = s.frame := by
  simp only [State.load] at h
  (repeat' split at h) <;> simp at h
  subst h; simp

@[simp ↓] theorem State.put_frame (s : State) (p : Place) (bs : List Byte) :
    (s.put p bs).frame = s.frame := by
  cases p <;> simp only [State.put]
  · simp
  · split <;> rfl
  · simp

@[simp ↓] theorem State.putAll_frame (s : State) (a : List (Place × Nat)) (a_1 : List Byte) :
    (s.putAll a a_1).frame = s.frame := by
  induction a generalizing s a_1 with
  | nil => rfl
  | cons p ps ih => simp [State.putAll, ih]

theorem State.store_frame {s s' : State} {a : Agent} {da : Nat} {bs : List Byte} (h : s.store a da bs = .ok s') :
    s'.frame = s.frame := by
  simp only [State.store] at h
  (repeat' split at h) <;> simp at h
  subst h; simp

@[simp ↓] theorem State.storeOrLose_frame (s : State) (a : Agent) (da : Nat) (bs : List Byte) :
    (s.storeOrLose a da bs).frame = s.frame := by
  simp only [State.storeOrLose]
  split
  · exact State.store_frame ‹_›
  · rfl

@[simp ↓] theorem State.hbmLatency_frame (s : State) (a : Agent) (da n : Nat) :
    (s.hbmLatency a da n).frame = s.frame := by
  simp only [State.hbmLatency]
  split
  · rfl
  · exact foldl_frame _ (fun s p => by
      split
      · exact foldl_frame _ (fun s a => by simp) _ _
      · rfl) _ _

@[simp ↓] theorem State.hostStores_frame (s : State) (cs : List Host.Cell) :
    (s.hostStores cs).frame = s.frame := by simp [State.hostStores]

@[simp ↓] theorem State.writeRecord_frame (s : State) (qi : Nat) (bs : List Byte) :
    (s.writeRecord qi bs).frame = s.frame := by simp [State.writeRecord]

@[simp ↓] theorem State.pushRecord_frame (s : State) (qi : Nat) (bs : List Byte) :
    (s.pushRecord qi bs).frame = s.frame := by simp [State.pushRecord]

@[simp ↓] theorem State.eventTo_frame (s : State) (fn code source : Nat) (status : Word16) (d0 d1 : Nat) :
    (s.eventTo fn code source status d0 d1).frame = s.frame := by
  simp only [State.eventTo]
  split <;> simp

@[simp ↓] theorem State.eventPart_frame (s : State) (part code source : Nat) (status : Word16) (d0 d1 : Nat) :
    (s.eventPart part code source status d0 d1).frame = s.frame := by simp [State.eventPart]

@[simp ↓] theorem State.eventBoth_frame (s : State) (part code source : Nat) (status : Word16) (d0 d1 : Nat) :
    (s.eventBoth part code source status d0 d1).frame = s.frame := by simp [State.eventBoth]

@[simp ↓] theorem State.eventPF_frame (s : State) (code source : Nat) (status : Word16) (d0 d1 : Nat) :
    (s.eventPF code source status d0 d1).frame = s.frame := by simp [State.eventPF]

@[simp ↓] theorem State.drainRing_frame (s : State) (qi a : Nat) :
    (s.drainRing qi a).frame = s.frame := by
  induction a generalizing s with
  | zero => rfl
  | succ n ih =>
    simp only [State.drainRing]
    split
    · rfl
    · split <;> simp [ih]

@[simp ↓] theorem State.ringFreed_frame (s : State) (qi : Nat) :
    (s.ringFreed qi).frame = s.frame := by simp [State.ringFreed]

@[simp ↓] theorem State.stopTiles_frame (s : State) (part : Nat) :
    (s.stopTiles part).frame = s.frame := by
  simp only [State.stopTiles]
  exact foldl_frame _ (fun s a => by simp) _ _

@[simp ↓] theorem State.endLaunch_frame (s : State) (l : Launch) (status : Word16) (reason ltile instr : Nat) :
    (s.endLaunch l status reason ltile instr).frame = s.frame := by simp [State.endLaunch]

@[simp ↓] theorem State.failTile_frame (s : State) (ph : Nat) (status : Word16) (reason instr : Nat) :
    (s.failTile ph status reason instr).frame = s.frame := by
  simp only [State.failTile]
  split <;> simp

@[simp ↓] theorem State.settle_frame (s : State) (ph : Nat) :
    (s.settle ph).frame = s.frame := by simp [State.settle]

@[simp ↓] theorem State.wake_frame (s : State) (obj : Nat) :
    (s.wake obj).frame = s.frame := by simp [State.wake]

@[simp ↓] theorem State.fireArms_frame (s : State) (part obj : Nat) :
    (s.fireArms part obj).frame = s.frame := by
  simp only [State.fireArms]
  exact foldl_frame _ (fun s a => by simp) _ _

@[simp ↓] theorem State.resumed_frame (s : State) (part a : Nat) :
    (s.resumed part a).frame = s.frame := by
  induction a generalizing s with
  | zero => rfl
  | succ n ih => simp [State.resumed, ih]

@[simp ↓] theorem State.syncAdd_frame (s : State) (obj amount : Nat) :
    (s.syncAdd obj amount).frame = s.frame := by simp [State.syncAdd]

@[simp ↓] theorem State.report_frame (s : State) (i : FaultInfo) :
    (s.report i).frame = s.frame := by simp [State.report]

@[simp ↓] theorem State.tally_frame (s : State) (kind index : Nat) (f : ErrCount → ErrCount) :
    (s.tally kind index f).frame = s.frame := by simp [State.tally]

@[simp ↓] theorem State.reportRead_frame (s : State) (a : Agent) (da n : Nat) (pkt : Option (Nat × BitVec 32)) (ltile : Nat) :
    (s.reportRead a da n pkt ltile).frame = s.frame := by
  simp only [State.reportRead]
  split <;> simp

@[simp ↓] theorem State.setReady_frame (s : State) (on : Bool) :
    (s.setReady on).frame = s.frame := by simp [State.setReady]

@[simp ↓] theorem State.failDevice_frame (s : State) (i : FaultInfo) :
    (s.failDevice i).frame = s.frame := by simp [State.failDevice]

@[simp ↓] theorem State.replayTile_frame (s : State) (ph cls : Nat) (array : Bool) (groups : List Nat) (location : Nat) (mended : Tile → Tile) :
    (s.replayTile ph cls array groups location mended).frame = s.frame := by
  simp only [State.replayTile]
  (repeat' split) <;> simp

@[simp ↓] theorem State.loseTile_frame (s : State) (ph kind index location : Nat) :
    (s.loseTile ph kind index location).frame = s.frame := by simp [State.loseTile]

@[simp ↓] theorem State.accept_frame (s : State) (ph : Nat) (t' : Tile) (rd wr : List Range) :
    (s.accept ph t' rd wr).frame = s.frame := by
  simp only [State.accept]
  split <;> simp

@[simp ↓] theorem State.issueWith_frame (s : State) (ph : Nat) (w : Word128) (run : State → Tile → State × TRes) (h : ∀ s t, (run s t).1.frame = s.frame) :
    (s.issueWith ph w run).frame = s.frame := by
  simp only [State.issueWith]
  (repeat' split) <;> simp [h]

@[simp ↓] theorem State.issue_frame (s : State) (ph : Nat) (w : Word128) (mine : Bool) (f : Tile → TRes) :
    (s.issue ph w mine f).frame = s.frame := by
  simp only [State.issue]
  exact State.when_frame _ _ _ (State.issueWith_frame _ _ _ _ (fun _ _ => rfl))

@[simp ↓] theorem State.control_frame (s : State) (ph : Nat) (w : Word128) (op : Nat) (mine : Bool) (f : Tile → Tile ⊕ Word16 × Nat) :
    (s.control ph w op mine f).frame = s.frame := by
  simp only [State.control]
  (repeat' split) <;> simp

@[simp ↓] theorem State.finish_frame (s : State) (q : Nat) (seq : BitVec 32) (status : Word16) (detail : Nat) :
    (s.finish q seq status detail).frame = s.frame := by simp [State.finish]

@[simp ↓] theorem State.bell_frame (s : State) (q v : Nat) :
    (s.bell q v).frame = s.frame := by simp [State.bell]

@[simp ↓] theorem State.doorbell_frame (s : State) (q value : Nat) :
    (s.doorbell q value).frame = s.frame := by simp [State.doorbell]

@[simp ↓] theorem State.fetchFails_frame (s : State) (q : Nat) (st : Word16) :
    (s.fetchFails q st).frame = s.frame := by simp [State.fetchFails]

@[simp ↓] theorem State.fetchEntry_frame (s : State) (q : Nat) :
    (s.fetchEntry q).frame = s.frame := by
  simp only [State.fetchEntry]
  (repeat' split) <;> first | rfl | (simp; done) | exact State.load_frame ‹_›

@[simp ↓] theorem State.advanceSlot_frame (s : State) (adv i : Nat) :
    (s.advanceSlot adv i).frame = s.frame := by simp [State.advanceSlot]

@[simp ↓] theorem State.complete_frame (s : State) (p : Packet) :
    (s.complete p).frame = s.frame := by
  simp only [State.complete]
  cases s.launchEnded p with
  | none => simp
  | some l =>
    simp only []
    cases l.restore <;> cases goodStatus p.status <;> cases pSig l.words <;> simp

@[simp ↓] theorem State.addLaunch_frame (s : State) (p : Packet) (part fn : Nat) (h : KHdr) (slots : List Nat) :
    (s.addLaunch p part fn h slots).frame = s.frame := by simp [State.addLaunch]

@[simp ↓] theorem State.headerReadFails_frame (s : State) (p : Packet) (a : Agent) (da n tries : Nat) (w : Why) :
    (s.headerReadFails p a da n tries w).frame = s.frame := by
  simp only [State.headerReadFails]
  split <;> simp

@[simp ↓] theorem State.validateLaunch_frame (s : State) (p : Packet) (tries : Nat) :
    (s.validateLaunch p tries).frame = s.frame := by
  simp only [State.validateLaunch]
  (repeat' split) <;> first | (simp; done) | rfl | (simp <;> grind [→ State.load_frame, → State.store_frame])

@[simp ↓] theorem State.endUnstarted_frame (s : State) (l : Launch) (st : Word16) :
    (s.endUnstarted l st).frame = s.frame := by simp [State.endUnstarted]

@[simp ↓] theorem State.startTile_frame (s : State) (l : Launch) (a7 : Nat) (code : SMap Word128) (images : List (Nat × List Byte)) (e : Nat × Nat) :
    (s.startTile l a7 code images e).frame = s.frame := by simp [State.startTile]

@[simp ↓] theorem State.startReadFails_frame (s : State) (l : Launch) (a : Agent) (da n : Nat) (w : Why) :
    (s.startReadFails l a da n w).frame = s.frame := by
  simp only [State.startReadFails]
  split <;> simp

@[simp ↓] theorem State.firstInputs_frame (s : State) (part : Nat) :
    (s.firstInputs part).frame = s.frame := by simp [State.firstInputs]

@[simp ↓] theorem State.startLaunch_frame (s : State) (l : Launch) :
    (s.startLaunch l).frame = s.frame := by
  simp only [State.startLaunch]
  (repeat' split) <;> first | (simp; done) | rfl | (simp <;> grind [→ State.load_frame, → State.store_frame])

@[simp ↓] theorem State.saveDone_frame (s : State) (save launch : Nat × BitVec 32) (detail : Nat) :
    (s.saveDone save launch detail).frame = s.frame := by simp [State.saveDone]

@[simp ↓] theorem State.freeTile_frame (s : State) (ph : Nat) :
    (s.freeTile ph).frame = s.frame := by simp [State.freeTile]

@[simp ↓] theorem State.collect_frame (s : State) (l : Launch) :
    (s.collect l).frame = s.frame := by
  simp only [State.collect]
  (repeat' split) <;> simp

@[simp ↓] theorem State.closeLaunch_frame (s : State) (l : Launch) :
    (s.closeLaunch l).frame = s.frame := by simp [State.closeLaunch]

@[simp ↓] theorem State.noteRemote_frame (s : State) (queue : Nat) (st : Word16) :
    (s.noteRemote queue st).frame = s.frame := by simp [State.noteRemote]

@[simp ↓] theorem State.stopChan_frame (s : State) (k : Nat) (st : Word16) (fault : Nat) :
    (s.stopChan k st fault).frame = s.frame := by simp [State.stopChan]

@[simp ↓] theorem State.noteDrop_frame (s : State) (code data0 : Nat) :
    (s.noteDrop code data0).frame = s.frame := by simp [State.noteDrop]

@[simp ↓] theorem State.noteReject_frame (s : State) (p : List Byte) (st : Word16) :
    (s.noteReject p st).frame = s.frame := by simp [State.noteReject]

@[simp ↓] theorem State.arrive_frame (s : State) (link : Option Nat) (vc : Nat) (p : List Byte) :
    (s.arrive link vc p).frame = s.frame := by simp [State.arrive]

@[simp ↓] theorem State.putLink_frame (s : State) (n : Nat) (l : Link) :
    (s.putLink n l).frame = s.frame := by
  simp only [State.putLink]
  (repeat' split) <;> simp

theorem State.emit_frame {s s' : State} {p : List Byte} {level : Nat} (h : s.emit p level = .ok s') : s'.frame = s.frame := by
  simp only [State.emit] at h
  (repeat' split at h) <;> simp at h <;> subst h <;> simp

@[simp ↓] theorem State.forward_frame (s : State) (p : List Byte) (level : Nat) (mine : Bool) :
    (s.forward p level mine).frame = s.frame := by
  simp only [State.forward]
  split
  · exact State.emit_frame ‹_›
  · split
    · simp
    · split
      · simp
      · split
        · simp [State.emit_frame ‹_›]
        · simp

@[simp ↓] theorem State.originate_frame (s : State) (dst cls ptype param : Nat) (rest : List Byte) :
    (s.originate dst cls ptype param rest).frame = s.frame := by simp [State.originate]

@[simp ↓] theorem State.request_frame (s : State) (dst ptype field amount : Nat) (data : List Byte) (from_ : Origin) (queue : Nat) :
    (s.request dst ptype field amount data from_ queue).frame = s.frame := by simp [State.request]

@[simp ↓] theorem State.answered_frame (s : State) (r : RemReq) (st : Word16) :
    (s.answered r st).frame = s.frame := by
  simp only [State.answered]
  (repeat' split) <;> first | rfl | simp

@[simp ↓] theorem State.endRequest_frame (s : State) (r : RemReq) (st : Word16) :
    (s.endRequest r st).frame = s.frame := by simp [State.endRequest]

@[simp ↓] theorem State.acknowledge_frame (s : State) (p : List Byte) (st : Word16) :
    (s.acknowledge p st).frame = s.frame := by simp [State.acknowledge]

@[simp ↓] theorem State.applyRequest_frame (s : State) (p : List Byte) : (s.applyRequest p).1.frame = s.frame := by
  simp only [State.applyRequest]
  (repeat' split) <;> first | (simp; done) | exact State.store_frame ‹_›

@[simp ↓] theorem State.serveRequest_frame (s : State) (src : Nat) (d : DupRec) (p : List Byte) :
    (s.serveRequest src d p).1.frame = s.frame := by
  simp only [State.serveRequest]
  split <;> simp

@[simp ↓] theorem State.serveHeld_frame (a : Nat) (a_1 : State) (a_2 : Nat) (a_3 : DupRec) :
    (State.serveHeld a a_1 a_2 a_3).frame = a_1.frame := by
  induction a generalizing a_1 a_2 a_3 with
  | zero => rfl
  | succ n ih =>
    simp only [State.serveHeld]
    split
    · rfl
    · simp [ih]

@[simp ↓] theorem State.takeRequest_frame (s : State) (p : List Byte) :
    (s.takeRequest p).frame = s.frame := by
  simp only [State.takeRequest]
  (repeat' split) <;> simp

@[simp ↓] theorem State.modOldest_frame (s : State) (ph : Nat) (f : StepRec → StepRec) :
    (s.modOldest ph f).frame = s.frame := by simp [State.modOldest]

@[simp ↓] theorem State.commitFirst_frame (s : State) (ph : Nat) (st : StepRec) :
    (s.commitFirst ph st).frame = s.frame := by simp [State.commitFirst]

theorem State.landOne_frame {s s' : State} {ph num : Nat} {d : Deferred} {rest : Option Deferred} (h : s.landOne ph num d = .landed s' rest) :
    s'.frame = s.frame := by
  simp only [State.landOne] at h
  (repeat' split at h) <;> simp at h <;> grind [→ State.store_frame, State.modTile_frame, State.request_frame]

@[simp ↓] theorem State.landDeferred_frame (s : State) (ph a : Nat) :
    (s.landDeferred ph a).frame = s.frame := by
  induction a generalizing s with
  | zero => rfl
  | succ n ih =>
    simp only [State.landDeferred]
    (repeat' split) <;> simp [ih]
    exact State.landOne_frame ‹_›

@[simp ↓] theorem State.commitLast_frame (s : State) (ph : Nat) (st : StepRec) :
    (s.commitLast ph st).frame = s.frame := by simp [State.commitLast]

@[simp ↓] theorem State.commEnter_frame (s : State) (i : Nat) (c : Comm) (st : CommState) (dev rank : Nat) (mismatch : Bool) :
    (s.commEnter i c st dev rank mismatch).frame = s.frame := by simp [State.commEnter]

@[simp ↓] theorem State.modColl_frame (s : State) (i : Nat) (k : Coll) (f : Coll → Coll) :
    (s.modColl i k f).frame = s.frame := by
  simp only [State.modColl]
  split <;> simp

@[simp ↓] theorem State.endColl_frame (s : State) (i : Nat) (k : Coll) (st : Word16) :
    (s.endColl i k st).frame = s.frame := by
  simp only [State.endColl]
  split <;> simp

@[simp ↓] theorem State.endColls_frame (s : State) (i : Nat) (st : Word16) (which : Coll → Bool) :
    (s.endColls i st which).frame = s.frame := by
  simp only [State.endColls]
  split <;> simp

@[simp ↓] theorem State.sendColl_frame (s : State) (c : Comm) (k : Coll) (rank ptype first n : Nat) (st : Word16) (data : List Byte) :
    (s.sendColl c k rank ptype first n st data).frame = s.frame := by
  simp only [State.sendColl]
  split <;> simp

@[simp ↓] theorem State.sendJoin_frame (s : State) (c : Comm) (d digest : Nat) :
    (s.sendJoin c d digest).frame = s.frame := by simp [State.sendJoin]

@[simp ↓] theorem State.joinDown_frame (s : State) (c : Comm) :
    (s.joinDown c).frame = s.frame := by
  simp only [State.joinDown]
  split <;> simp

@[simp ↓] theorem State.joinStep_frame (s : State) (i : Nat) :
    (s.joinStep i).frame = s.frame := by
  simp only [State.joinStep]
  (repeat' split) <;> simp

@[simp ↓] theorem State.retain_frame (s : State) (i ph sl : Nat) (rs : List Quire) (mine : Option (List Quire)) :
    (s.retain i ph sl rs mine).frame = s.frame := by
  simp only [State.retain]
  split <;> simp

@[simp ↓] theorem State.upStep_frame (s : State) (i : Nat) (k : Coll) :
    (s.upStep i k).frame = s.frame := by
  simp only [State.upStep]
  split
  · rfl
  · split
    · split <;> simp
    · exact foldl_frame _ (fun s a => by (repeat' split) <;> simp) _ _

@[simp ↓] theorem State.dropResult_frame (s : State) (i : Nat) (k : Coll) :
    (s.dropResult i k).frame = s.frame := by
  simp only [State.dropResult]
  split <;> simp

@[simp ↓] theorem State.doneColl_frame (s : State) (i : Nat) (k : Coll) (st : Word16) :
    (s.doneColl i k st).frame = s.frame := by
  simp only [State.doneColl]
  (repeat' split) <;> simp

theorem State.readImages_frame {s : State} {a : Agent} {da n : Nat} {r : State × List Quire} (h : s.readImages a da n = .ok r) :
    r.1.frame = s.frame := by
  simp only [State.readImages] at h
  (repeat' split at h) <;> simp at h <;> subst h
  · rfl
  · exact State.load_frame ‹_›

theorem State.contribution_frame {s : State} {a : Agent} {c : Comm} {k : Coll} {ch : Nat × Nat} {r : State × Option (List Byte)}
    (h : s.contribution a c k ch = .ok r) : r.1.frame = s.frame := by
  simp only [State.contribution, Except.map] at h
  (repeat' split at h) <;> simp at h <;> subst h <;> first | rfl | exact State.readImages_frame ‹_› | exact State.load_frame ‹_›

theorem State.contributions_frame {s : State} {a : Agent} {c : Comm} {k : Coll} {l : List (Nat × Nat)}
    {r : State × List (Nat × List Byte)} (h : s.contributions a c k l = .ok r) : r.1.frame = s.frame := by
  induction l generalizing s r with
  | nil => simp [State.contributions] at h; subst h; rfl
  | cons ch l ih =>
    cases hc : s.contribution a c k ch with
    | error w => simp [State.contributions, hc] at h
    | ok x =>
      cases hd : x.1.contributions a c k l with
      | error w => simp [State.contributions, hc, hd] at h
      | ok y =>
        simp only [State.contributions, hc, hd, Except.ok.injEq] at h
        subst h
        exact (ih hd).trans (State.contribution_frame hc)

theorem State.deliverImages_frame {s s' : State} {i : Nat} {a : Agent} {da : Nat} {rs : List Quire} {m : Option (List Quire)}
    (h : s.deliverImages i a da rs m = .ok s') : s'.frame = s.frame := by
  simp only [State.deliverImages] at h
  (repeat' split at h) <;> first | exact State.store_frame h | (simp only [Except.ok.injEq] at h; subst h; simp; done) | (simp at h; done)

theorem State.deliverRow_frame {s s' : State} {a : Agent} {k : Coll} {ch : Nat × Nat} {d : List Byte}
    (h : s.deliverRow a k ch d = .ok s') : s'.frame = s.frame := by
  simp only [State.deliverRow] at h
  (repeat' split at h) <;> simp at h
  subst h; simp

theorem State.deliverChunk_frame {s s' : State} {i : Nat} {a : Agent} {c : Comm} {k : Coll} {ch : Nat × Nat} {d : List Byte}
    (h : s.deliverChunk i a c k ch d = .ok s') : s'.frame = s.frame := by
  simp only [State.deliverChunk] at h
  (repeat' split at h) <;>
    first | exact State.deliverRow_frame h | exact State.deliverImages_frame h | exact State.store_frame h | (simp at h; subst h; rfl)

@[simp ↓] theorem State.downChunk_frame (s : State) (i : Nat) (k : Coll) (ch : Nat × Nat) (data : List Byte) :
    (s.downChunk i k ch data).frame = s.frame := by
  simp only [State.downChunk]
  split <;> simp

theorem State.deliverChunks_frame {s s' : State} {i : Nat} {a : Agent} {c : Comm} {k : Coll} {l : List (Nat × Nat)}
    (h : s.deliverChunks i a c k l = .ok s') : s'.frame = s.frame := by
  induction l generalizing s with
  | nil => simp only [State.deliverChunks, Except.ok.injEq] at h; rw [h]
  | cons ch l ih =>
    simp only [State.deliverChunks] at h
    split at h
    · simp at h
    · exact (ih h).trans (State.deliverChunk_frame ‹_›)

@[simp ↓] theorem State.deliverColl_frame (s : State) (i : Nat) (k : Coll) :
    (s.deliverColl i k).frame = s.frame := by
  simp only [State.deliverColl]
  (repeat' split) <;> first | rfl | (simp; done) | (simp [State.deliverChunks_frame ‹_›]; done)

@[simp ↓] theorem State.rootDown_frame (s : State) (i : Nat) (k : Coll) :
    (s.rootDown i k).frame = s.frame := by
  simp only [State.rootDown]
  split
  · rfl
  · split
    · rfl
    · split
      · split <;> simp
      · split
        · exact foldl_frame _ (fun s a => by (repeat' split) <;> simp) _ _
        · rfl

@[simp ↓] theorem State.collStep_frame (s : State) (i : Nat) :
    (s.collStep i).frame = s.frame := by
  have again (s : State) (k : Coll) (f : State → Coll → State) (h : ∀ s x, (f s x).frame = s.frame) :
      (match (s.comm i).bind Comm.front with
        | some x => if x.queue = k.queue ∧ x.seq = k.seq then f s x else s
        | none => s).frame = s.frame := by
    (repeat' split) <;> simp [h]
  simp only [State.collStep]
  split
  · rfl
  · split
    · rfl
    · refine (again _ _ (fun s x => if x.ph = .down then s.deliverColl i x else s) (fun s x => by split <;> simp)).trans ?_
      refine (again _ _ (fun s x => if x.ph = .up ∨ x.ph = .down then s.rootDown i x else s) (fun s x => by split <;> simp)).trans ?_
      refine (again _ _ (fun s x => if x.ph = .up then s.upStep i x else s) (fun s x => by split <;> simp)).trans ?_
      (repeat' split) <;> first | rfl | (simp; done) | (simp [State.contributions_frame ‹_›]; done)

@[simp ↓] theorem State.collRun_frame (s : State) (i : Nat) :
    (s.collRun i).frame = s.frame := by
  simp only [State.collRun]
  split <;> simp

@[simp ↓] theorem State.resendUp_frame (s : State) (c : Comm) (k : Coll) :
    (s.resendUp c k).frame = s.frame := by
  simp only [State.resendUp]
  split
  · split <;> simp
  · exact foldl_frame _ (fun s a => by (repeat' split) <;> simp) _ _

@[simp ↓] theorem State.lossColls_frame (s : State) (i : Nat) (c : Comm) (rank : Nat) :
    (s.lossColls i c rank).frame = s.frame := by
  simp only [State.lossColls]
  split
  · simp
  · split
    · refine foldl_frame _ (fun s k => ?_) _ _
      split
      · rw [State.endColl_frame]
        exact foldl_frame _ (fun s a => by split <;> simp) _ _
      · split
        · rw [State.dropResult_frame]
          refine foldl_frame _ (fun s a => ?_) _ _
          exact foldl_frame _ (fun s a => by split <;> simp) _ _
        · rfl
    · (repeat' split) <;> simp

@[simp ↓] theorem State.commLoss_frame (s : State) (i dev rank : Nat) :
    (s.commLoss i dev rank).frame = s.frame := by
  simp only [State.commLoss]
  split <;> simp

@[simp ↓] theorem State.findLossIn_frame (s : State) (dev : Nat) (mine : Comm → Bool) :
    (s.findLossIn dev mine).frame = s.frame := by
  simp only [State.findLossIn]
  refine foldl_frame _ (fun s k => ?_) _ _
  (repeat' split) <;> simp

@[simp ↓] theorem State.findLoss_frame (s : State) (dev : Nat) :
    (s.findLoss dev).frame = s.frame := by simp [State.findLoss]

@[simp ↓] theorem State.setLock_frame (s : State) (res : Nat) (l : Lock) :
    (s.setLock res l).frame = s.frame := by simp [State.setLock]

@[simp ↓] theorem State.maintEvent_frame (s : State) (a : Act) (res : Nat) (st : Word16) (result : Nat) :
    (s.maintEvent a res st result).frame = s.frame := by simp [State.maintEvent]

@[simp ↓] theorem State.endMaint_frame (s : State) (res : Nat) (st : Word16) (result : Nat) :
    (s.endMaint res st result).frame = s.frame := by
  simp only [State.endMaint]
  (repeat' split) <;> simp

@[simp ↓] theorem State.beginMaint_frame (s : State) (res : Nat) :
    (s.beginMaint res).frame = s.frame := by
  simp only [State.beginMaint]
  split <;> simp

@[simp ↓] theorem State.grantLock_frame (s : State) (res : Nat) :
    (s.grantLock res).frame = s.frame := by
  simp only [State.grantLock]
  split <;> simp

@[simp ↓] theorem State.autoMaint_frame (s : State) (res act : Nat) :
    (s.autoMaint res act).frame = s.frame := by
  simp only [State.autoMaint]
  (repeat' split) <;> simp

@[simp ↓] theorem State.losePart_frame (s : State) (i : Nat) :
    (s.losePart i).frame = s.frame := by
  simp only [State.losePart]
  split <;> simp

@[simp ↓] theorem State.loseArray_frame (s : State) (ph : Nat) (retired : Bool) :
    (s.loseArray ph retired).frame = s.frame := by
  simp only [State.loseArray]
  (repeat' split) <;> simp

@[simp ↓] theorem State.dropArray_frame (s : State) (ph : Nat) (retired : Bool) :
    (s.dropArray ph retired).frame = s.frame := by simp [State.dropArray]

@[simp ↓] theorem State.dropDue_frame (s : State) (part : Nat) :
    (s.dropDue part).frame = s.frame := by simp [State.dropDue]

@[simp ↓] theorem State.pairFails_frame (s : State) (standby : Bool) (cls : Nat) :
    (s.pairFails standby cls).frame = s.frame := by simp [State.pairFails]

@[simp ↓] theorem State.see_frame (s : State) (key : Nat) :
    (s.see key).frame = s.frame := by simp [State.see]

@[simp ↓] theorem State.persistent_frame (s : State) (kind index : Nat) (part : Option Nat) (loc action : Nat) :
    (s.persistent kind index part loc action).frame = s.frame := by simp [State.persistent]

@[simp ↓] theorem State.reportBad_frame (s : State) (kind index : Nat) (part : Option Nat) (pkt : Option (Nat × BitVec 32)) (loc : Nat) (st : Word16) :
    (s.reportBad kind index part pkt loc st).frame = s.frame := by simp [State.reportBad]

@[simp ↓] theorem State.hitTile_frame (s : State) (ph sp off line unit da : Nat) (read : Bool) (mark clear : Tile → Tile) :
    (s.hitTile ph sp off line unit da read mark clear).frame = s.frame := by
  simp only [State.hitTile]
  (repeat' split) <;> simp

@[simp ↓] theorem State.badTile_frame (s : State) (ph loc : Nat) (read : Bool) :
    (s.badTile ph loc read).frame = s.frame := by simp [State.badTile]

@[simp ↓] theorem State.badHbmLine_frame (s : State) (pa : Nat) :
    (s.badHbmLine pa).frame = s.frame := by simp [State.badHbmLine]

@[simp ↓] theorem State.badEntry_frame (s : State) (die i : Nat) :
    (s.badEntry die i).frame = s.frame := by simp [State.badEntry]

@[simp ↓] theorem State.unload_frame (s : State) (ph : Nat) :
    (s.unload ph).frame = s.frame := by simp [State.unload]

@[simp ↓] theorem State.finishSave_frame (s : State) (l : Launch) (save : Nat × BitVec 32) :
    (s.finishSave l save).frame = s.frame := by simp [State.finishSave]

@[simp ↓] theorem State.reloadTile_frame (s : State) (l : Launch) (basin : Bool) (area : List Byte) (sec : Nat) (e : Nat × Nat) :
    (s.reloadTile l basin area sec e).frame = s.frame := by
  simp only [State.reloadTile]
  split <;> simp

theorem State.ctxArea_frame {s : State} {a : Agent} {addr room : Nat} {r : State × List Byte} (h : s.ctxArea a addr room = .ok r) :
    r.1.frame = s.frame := by
  cases hl : s.load a addr 4096 with
  | error w => simp [State.ctxArea, hl] at h
  | ok x =>
    simp only [State.ctxArea, hl] at h
    exact (State.load_frame h).trans (State.load_frame hl)

@[simp ↓] theorem State.resumeLaunch_frame (s : State) (l : Launch) (addr room : Nat) :
    (s.resumeLaunch l addr room).frame = s.frame := by
  simp only [State.resumeLaunch]
  split
  · simp
  · rfl
  · have h := State.ctxArea_frame ‹_›
    split <;> simp [h]

@[simp ↓] theorem State.serve_frame (s : State) (k : Nat) :
    (s.serve k).frame = s.frame := by
  simp only [State.serve]
  split <;> simp

@[simp ↓] theorem State.endChan_frame (s : State) (k : Nat) (st : Word16) :
    (s.endChan k st).frame = s.frame := by
  simp only [State.endChan]
  split <;> simp

@[simp ↓] theorem State.modRun_frame (s : State) (k j : Nat) (f : DescRun → DescRun) :
    (s.modRun k j f).frame = s.frame := by simp [State.modRun]

@[simp ↓] theorem State.haltChan_frame (s : State) (k : Nat) (st : Word16) (fault : Nat) :
    (s.haltChan k st fault).frame = s.frame := by simp [State.haltChan]

@[simp ↓] theorem State.chanError_frame (s : State) (k j da : Nat) :
    (s.chanError k j da).frame = s.frame := by
  simp only [State.chanError]
  (repeat' split) <;> simp

@[simp ↓] theorem State.startDesc_frame (s : State) (k : Nat) (p : ChanPkt) (d : DescRun) (rest : List DescRun) :
    (s.startDesc k p d rest).frame = s.frame := by simp [State.startDesc]

@[simp ↓] theorem State.fetchDesc_frame (s : State) (k op : Nat) :
    (s.fetchDesc k op).frame = s.frame := by
  simp only [State.fetchDesc]
  (repeat' split) <;> first | rfl | (simp; done) | simp [State.load_frame ‹_›]

@[simp ↓] theorem State.fetchAhead_frame (s : State) (k n : Nat) :
    (s.fetchAhead k n).frame = s.frame := by
  induction n generalizing s with
  | zero => rfl
  | succ n ih =>
    simp only [State.fetchAhead]
    (repeat' split) <;> first | rfl | simp [ih, State.load_frame ‹_›]

@[simp ↓] theorem State.countBeat_frame (s : State) (k : Nat) (p : ChanPkt) (event : Nat) :
    (s.countBeat k p event).frame = s.frame := by simp [State.countBeat]

theorem State.beatOut_frame {s s' : State} {k : Nat} {p : ChanPkt} {dst : Nat} {bs : List Byte}
    (h : s.beatOut k p dst bs = .ok s') : s'.frame = s.frame := by
  simp only [State.beatOut] at h
  (repeat' split at h) <;> simp at h <;> subst h <;> simp

theorem State.readBeat_frame {s s' : State} {k : Nat} (h : s.readBeat k = some s') : s'.frame = s.frame := by
  simp only [State.readBeat] at h
  (repeat' split at h) <;> first
    | (cases h; done)
    | (obtain rfl := Option.some.inj h; have h1 := State.load_frame ‹_›; simp at h1; simp [h1]; done)
    | (obtain rfl := Option.some.inj h; simp; done)

theorem State.writeBeat_frame {s s' : State} {k : Nat} (h : s.writeBeat k = some s') : s'.frame = s.frame := by
  simp only [State.writeBeat] at h
  (repeat' split at h) <;> first
    | (cases h; done)
    | (obtain rfl := Option.some.inj h; have h1 := State.beatOut_frame ‹_›; simp [h1]; done)
    | (obtain rfl := Option.some.inj h; simp; done)

theorem State.beat_frame {s s' : State} {k : Nat} {write : Bool} (h : s.beat k write = some s') : s'.frame = s.frame := by
  simp only [State.beat] at h
  split at h
  · exact State.writeBeat_frame h
  · exact State.readBeat_frame h

@[simp ↓] theorem State.beats_frame (s : State) (k : Nat) (write : Bool) (a : Nat) :
    (s.beats k write a).frame = s.frame := by
  induction a generalizing s with
  | zero => rfl
  | succ n ih =>
    simp only [State.beats]
    (repeat' split) <;> first | rfl | (rw [ih]; simpa using State.beat_frame ‹_›)

@[simp ↓] theorem State.landFlight_frame (s : State) (f : Flight) :
    (s.landFlight f).frame = s.frame := by
  simp only [State.landFlight]
  (repeat' split) <;> simp

@[simp ↓] theorem State.land_frame (s : State) (mine : Flight → Bool) :
    (s.land mine).frame = s.frame := by simp [State.land]

@[simp ↓] theorem State.landChan_frame (s : State) (k n : Nat) :
    (s.landChan k n).frame = s.frame := by simp [State.landChan]

@[simp ↓] theorem State.afterRecord_frame (s : State) (k : Nat) (p : ChanPkt) (d : DescRun) :
    (s.afterRecord k p d).frame = s.frame := by
  simp only [State.afterRecord]
  split <;> simp

@[simp ↓] theorem State.recordOut_frame (s : State) (k : Nat) (p : ChanPkt) (d : DescRun) :
    (s.recordOut k p d).frame = s.frame := by
  simp only [State.recordOut]
  (repeat' split) <;> simp

@[simp ↓] theorem State.headFails_frame (s : State) (k : Nat) (st : Word16) :
    (s.headFails k st).frame = s.frame := by simp [State.headFails]

@[simp ↓] theorem State.headError_frame (s : State) (k tries : Nat) :
    (s.headError k tries).frame = s.frame := by simp [State.headError]

@[simp ↓] theorem State.completeDesc_frame (s : State) (k tries : Nat) :
    (s.completeDesc k tries).frame = s.frame := by
  simp only [State.completeDesc]
  (repeat' split) <;> first | (simp; done) | rfl | (simp <;> grind [→ State.load_frame, → State.store_frame])

@[simp ↓] theorem State.abortDma_frame (s : State) (q : Nat) (seq : BitVec 32) :
    (s.abortDma q seq).frame = s.frame := by
  simp only [State.abortDma]
  split
  · rw [State.finish_frame, State.frame_mk, State.frame_eta]
    exact foldl_frame _ (fun s a => by (repeat' split) <;> simp) _ _
  · exact foldl_frame _ (fun s a => by (repeat' split) <;> simp) _ _

@[simp ↓] theorem State.sluiceRow_frame (s : State) (engine chan op : Nat) (b : Beats) (land : Nat) :
    (s.sluiceRow engine chan op b land).frame = s.frame := by simp [State.sluiceRow]

@[simp ↓] theorem State.chanMeets_frame (s : State) (k : Nat) (write : Bool) :
    (s.chanMeets k write).frame = s.frame := by
  simp only [State.chanMeets]
  (repeat' split) <;> simp

@[simp ↓] theorem State.answer_frame (s : State) (fn op : Nat) (seq : BitVec 16) (ttake : Nat) (noirq : Bool) (a : Ans) :
    (s.answer fn op seq ttake noirq a).frame = s.frame := by simp [State.answer]

@[simp ↓] theorem State.conclude_frame (s : State) (t : Taken) (a : Ans) :
    (s.conclude t a).frame = s.frame := by
  simp only [State.conclude]
  (repeat' split) <;> simp

@[simp ↓] theorem State.respond_frame (s : State) (t : Taken) (a : Ans) :
    (s.respond t a).frame = s.frame := by simp [State.respond]

@[simp ↓] theorem State.command_frame (s : State) (fn : Nat) (c : Taken → Cmd) (mine : Taken → Bool) (checks : State → Taken → Nat → List Chk) (act : State → Taken → Nat → State × Ans) (qpos : State → Taken → Nat → Nat) (h : ∀ s t p, (act s t p).1.frame = s.frame) :
    (s.command fn c mine checks act qpos).frame = s.frame := by
  simp only [State.command]
  (repeat' split) <;> simp [h]

@[simp ↓] theorem State.pinsDone_frame (s : State) :
    s.pinsDone.frame = s.frame := by simp [State.pinsDone]

@[simp ↓] theorem State.query_frame (s : State) (fn : Nat) (c : Cmd) (checks : State → Taken → Nat → List Chk) (res : State → Taken → Nat → List Nat) :
    (s.query fn c checks res).frame = s.frame := by simp [State.query]

@[simp ↓] theorem State.addAct_frame (s : State) (t : Taken) (k : ActKind) :
    (s.addAct t k).frame = s.frame := by simp [State.addAct]

@[simp ↓] theorem State.deferredEvent_frame (s : State) (a : Act) (st : Word16) (data1 : Nat) :
    (s.deferredEvent a st data1).frame = s.frame := by
  simp only [State.deferredEvent]
  split <;> simp

@[simp ↓] theorem State.rebind_frame (s : State) (i : Nat) :
    (s.rebind i).frame = s.frame := by simp [State.rebind]

@[simp ↓] theorem State.zeroCtrs_frame (s : State) (m : Part) :
    (s.zeroCtrs m).frame = s.frame := by simp [State.zeroCtrs]

@[simp ↓] theorem State.clearGranules_frame (s : State) (m : Part) :
    (s.clearGranules m).frame = s.frame := by simp [State.clearGranules]

@[simp ↓] theorem State.moveGranules_frame (s : State) (target : Nat) (d : Part) :
    (s.moveGranules target d).frame = s.frame := by simp [State.moveGranules]

@[simp ↓] theorem State.assignPages_frame (s : State) (f mask : Nat) :
    (s.assignPages f mask).frame = s.frame := by simp [State.assignPages]

@[simp ↓] theorem State.zeroHbm_frame (s : State) (lo n : Nat) :
    (s.zeroHbm lo n).frame = s.frame := by simp [State.zeroHbm]

@[simp ↓] theorem State.mapIn_frame (s : State) (i va n : Nat) (big wr host : Bool) (fn : Nat) (addrs : List Nat) :
    (s.mapIn i va n big wr host fn addrs).frame = s.frame := by simp [State.mapIn]

@[simp ↓] theorem State.tileFault_frame (s : State) (ph : Nat) (f : HeldFault) :
    (s.tileFault ph f).frame = s.frame := by
  simp only [State.tileFault]
  (repeat' split) <;> simp

@[simp ↓] theorem State.uncorrectable_frame (s : State) (kind index loc : Nat) (read : Bool) :
    (s.uncorrectable kind index loc read).frame = s.frame := by
  simp only [State.uncorrectable]
  (repeat' split) <;> first | rfl | simp

@[simp ↓] theorem State.corrected_frame (s : State) (kind index n : Nat) :
    (s.corrected kind index n).frame = s.frame := by simp [State.corrected]

@[simp ↓] theorem State.failAnywhere_frame (s : State) (cls : Nat) :
    (s.failAnywhere cls).frame = s.frame := by simp [State.failAnywhere]

@[simp ↓] theorem State.repairStack_frame (s : State) (h : Nat) :
    (s.repairStack h).frame = s.frame := by simp [State.repairStack]

@[simp ↓] theorem State.setKey_frame (s : State) (slot : Nat) (k : Option (List Byte)) :
    (s.setKey slot k).frame = s.frame := by simp [State.setKey]

@[simp ↓] theorem State.restartTile_frame (s : State) (ph : Nat) :
    (s.restartTile ph).frame = s.frame := by simp [State.restartTile]

@[simp ↓] theorem State.badUnit_frame (s : State) (kind index : Nat) (part : Option Nat) :
    (s.badUnit kind index part).frame = s.frame := by simp [State.badUnit]

@[simp ↓] theorem State.stagePairs_frame (s : State) (north south : Bool) :
    (s.stagePairs north south).frame = s.frame := by simp [State.stagePairs]

@[simp ↓] theorem State.stageHbm_frame (s : State) (failed : BitVec 8) :
    (s.stageHbm failed).frame = s.frame := by simp [State.stageHbm]

@[simp ↓] theorem State.stageLinks_frame (s : State) :
    s.stageLinks.frame = s.frame := by simp [State.stageLinks]

@[simp ↓] theorem State.testTile_frame (s : State) (ph : Nat) :
    (s.testTile ph).frame = s.frame := by simp [State.testTile]

@[simp ↓] theorem State.stageTiles_frame (s : State) (arrays tiles : List Nat) (standbyPasses : Bool) :
    (s.stageTiles arrays tiles standbyPasses).frame = s.frame := by simp [State.stageTiles]

@[simp ↓] theorem State.collPacket_frame (s : State) (queue : Nat) (seq : BitVec 32) (op : Nat) :
    (s.collPacket queue seq op).frame = s.frame := by
  have hi {p : Prop} [Decidable p] {a b : State} (ha : a.frame = s.frame) (hb : b.frame = s.frame) :
      (if p then a else b).frame = s.frame := by split <;> assumption
  simp only [State.collPacket]
  split
  · rfl
  · refine hi rfl (hi (by simp) (hi rfl (hi (by simp) ?_)))
    split
    · simp
    · exact hi (by simp) (by simp)

@[simp ↓] theorem State.take_frame (s : State) (i : Nat) :
    (s.take i).frame = s.frame := by simp [State.take]

@[simp ↓] theorem State.onArrival_frame (s : State) (i ptype : Nat) (f : State → List Byte → State) (h : ∀ s p, (f s p).frame = s.frame) :
    (s.onArrival i ptype f).frame = s.frame := by
  simp only [State.onArrival]
  (repeat' split) <;> simp [h]

@[simp ↓] theorem State.onColl_frame (s : State) (arrival ptype : Nat) (f : State → List Byte → Nat → Comm → Coll → State) (h : ∀ s p i c k, (f s p i c k).frame = s.frame) :
    (s.onColl arrival ptype f).frame = s.frame := by
  simp only [State.onColl]
  (repeat' split) <;> simp [h]

@[simp ↓] theorem State.disagree_frame (s : State) (p : List Byte) (i : Nat) (c : Comm) (k : Coll) :
    (s.disagree p i c k).frame = s.frame := by
  simp only [State.disagree]
  (repeat' split) <;> simp

@[simp ↓] theorem State.downStatus_frame (s : State) (i : Nat) (c : Comm) (k : Coll) (ptype : Nat) (st : Word16) :
    (s.downStatus i c k ptype st).frame = s.frame := by simp [State.downStatus]

@[simp ↓] theorem State.joinMismatch_frame (s : State) (i : Nat) (c : Comm) (from_ digest : Nat) :
    (s.joinMismatch i c from_ digest).frame = s.frame := by simp [State.joinMismatch]

@[simp ↓] theorem State.takeJoin_frame (s : State) (p : List Byte) (i : Nat) (c : Comm) :
    (s.takeJoin p i c).frame = s.frame := by simp [State.takeJoin]

@[simp ↓] theorem State.dropQueue_frame (s : State) (q : Nat) :
    (s.dropQueue q).frame = s.frame := by simp [State.dropQueue]

@[simp ↓] theorem State.abortRecords_frame (s : State) (l : Launch) :
    (s.abortRecords l).frame = s.frame := by simp [State.abortRecords]

@[simp ↓] theorem State.abortLaunch_frame (s : State) (l : Launch) :
    (s.abortLaunch l).frame = s.frame := by
  simp only [State.abortLaunch]
  (repeat' split) <;> simp

@[simp ↓] theorem State.cancelSave_frame (s : State) (q : Nat) (seq : BitVec 32) :
    (s.cancelSave q seq).frame = s.frame := by
  simp only [State.cancelSave]
  split <;> simp

@[simp ↓] theorem State.abortPacket_frame (s : State) (p : Packet) :
    (s.abortPacket p).frame = s.frame := by
  simp only [State.abortPacket]
  (repeat' split) <;> simp

@[simp ↓] theorem State.abortQueue_frame (s : State) (q : Nat) :
    (s.abortQueue q).frame = s.frame := by simp [State.abortQueue]

@[simp ↓] theorem State.disarm_frame (s : State) (i : Nat) :
    (s.disarm i).frame = s.frame := by simp [State.disarm]

@[simp ↓] theorem State.reapLaunch_frame (s : State) (l : Launch) :
    (s.reapLaunch l).frame = s.frame := by simp [State.reapLaunch]

@[simp ↓] theorem State.flrQueues_frame (s : State) (fn : Nat) :
    (s.flrQueues fn).frame = s.frame := by simp [State.flrQueues]

@[simp ↓] theorem State.flr_frame (s : State) (fn : Nat) :
    (s.flr fn).frame = s.frame := by simp [State.flr]

@[simp ↓] theorem State.dropVf_frame (s : State) (fn : Nat) :
    (s.dropVf fn).frame = s.frame := by simp [State.dropVf]

@[simp ↓] theorem State.addVf_frame (s : State) (fn : Nat) :
    (s.addVf fn).frame = s.frame := by simp [State.addVf]

@[simp ↓] theorem State.barWrite_frame (s : State) :
    s.barWrite.frame = s.frame := by simp [State.barWrite]

@[simp ↓] theorem State.tableWrite_frame (s : State) (fn offset : Nat) (bs : List Byte) :
    (s.tableWrite fn offset bs).frame = s.frame := by simp [State.tableWrite]

@[simp ↓] theorem State.clearBad_frame (s : State) (fn v : Nat) :
    (s.clearBad fn v).frame = s.frame := by simp [State.clearBad]

@[simp ↓] theorem State.clearIrq_frame (s : State) (fn v : Nat) :
    (s.clearIrq fn v).frame = s.frame := by simp [State.clearIrq]

@[simp ↓] theorem State.writeTst_frame (s : State) (fn v : Nat) :
    (s.writeTst fn v).frame = s.frame := by
  simp only [State.writeTst]
  (repeat' split) <;> simp

@[simp ↓] theorem State.ringMbx_frame (s : State) (fn v : Nat) :
    (s.ringMbx fn v).frame = s.frame := by simp [State.ringMbx]

@[simp ↓] theorem State.clearMbx_frame (s : State) (fn v : Nat) :
    (s.clearMbx fn v).frame = s.frame := by simp [State.clearMbx]

@[simp ↓] theorem State.actWrite_frame (s : State) (fn offset : Nat) (bs : List Byte) :
    (s.actWrite fn offset bs).frame = s.frame := by simp [State.actWrite]

@[simp ↓] theorem State.slotWrite_frame (s : State) (fn queue : Nat) (value : BitVec 64) :
    (s.slotWrite fn queue value).frame = s.frame := by
  simp only [State.slotWrite]
  split <;> simp

@[simp ↓] theorem State.plainWrite_frame (s : State) (fn offset : Nat) (bs : List Byte) :
    (s.plainWrite fn offset bs).frame = s.frame := by simp [State.plainWrite]

@[simp ↓] theorem State.notDelivered_frame (s : State) (n : Nat) (heads : List (List Byte)) (exhausted : Bool) :
    (s.notDelivered n heads exhausted).frame = s.frame := by
  simp only [State.notDelivered]
  rw [foldl_frame _ (fun s a => by (repeat' split) <;> simp)]
  simp

@[simp ↓] theorem State.linkDown_frame (s : State) (n cause : Nat) :
    (s.linkDown n cause).frame = s.frame := by
  simp only [State.linkDown]
  (repeat' split) <;> simp

@[simp ↓] theorem State.linkOff_frame (s : State) (n : Nat) :
    (s.linkOff n).frame = s.frame := by simp [State.linkOff]

@[simp ↓] theorem State.linkQuiet_frame (s : State) (n : Nat) :
    (s.linkQuiet n).frame = s.frame := by
  simp only [State.linkQuiet]
  (repeat' split) <;> simp

@[simp ↓] theorem State.putOn_frame (s : State) (n : Nat) (l : Link) :
    (s.putOn n l).frame = s.frame := by
  simp only [State.putOn]
  (repeat' split) <;> simp

@[simp ↓] theorem State.tryActive_frame (s : State) (n : Nat) :
    (s.tryActive n).frame = s.frame := by
  simp only [State.tryActive]
  (repeat' split) <;> simp

@[simp ↓] theorem State.startConfig_frame (s : State) (n : Nat) :
    (s.startConfig n).frame = s.frame := by simp [State.startConfig]

@[simp ↓] theorem State.tryResume_frame (s : State) (n : Nat) :
    (s.tryResume n).frame = s.frame := by simp [State.tryResume]

@[simp ↓] theorem State.setLanes_frame (s : State) (n : Nat) (r : Lanes) :
    (s.setLanes n r).frame = s.frame := by simp [State.setLanes]

@[simp ↓] theorem State.flit_frame (s : State) (n : Nat) (flit : List Byte) (fec : Bool) (type : Nat) (body : State → State) (h : ∀ s, (body s).frame = s.frame) :
    (s.flit n flit fec type body).frame = s.frame := by
  simp only [State.flit]
  (repeat' split) <;> first | rfl | simp [h]

@[simp ↓] theorem State.reportLane_frame (s : State) (link lane : Nat) :
    (s.reportLane link lane).frame = s.frame := by simp [State.reportLane]

@[simp ↓] theorem State.reportNoSpare_frame (s : State) (link lane : Nat) :
    (s.reportNoSpare link lane).frame = s.frame := by simp [State.reportNoSpare]

@[simp ↓] theorem State.failLane_frame (s : State) (link lane : Nat) :
    (s.failLane link lane).frame = s.frame := by simp [State.failLane]

@[simp ↓] theorem State.spared_frame (s : State) (n f : Nat) (own : Bool) :
    (s.spared n f own).frame = s.frame := by
  simp only [State.spared]
  split <;> simp

@[simp ↓] theorem State.stopSweep_frame (s : State) (n : Nat) :
    (s.stopSweep n).frame = s.frame := by
  simp only [State.stopSweep]
  split <;> simp

@[simp ↓] theorem State.alignAgain_frame (s : State) (n : Nat) (healthy : List Nat) :
    (s.alignAgain n healthy).frame = s.frame := by
  simp only [State.alignAgain]
  (repeat' split) <;> simp

theorem State.lastPeriod_frame (s : State) (n : Nat) (reset : State → BitVec 4 → State) (h : s.boot.resetDue = none) :
    (s.lastPeriod n reset).frame = s.frame := by
  simp only [State.lastPeriod]
  have hb (l : Link) : (s.setLink n l).boot = s.boot := rfl
  (repeat' split) <;> simp_all

@[simp ↓] theorem State.requestMaint_frame (s : State) (a : Act) (res : Nat) (enq : Bool) :
    (s.requestMaint a res enq).1.frame = s.frame := by
  simp only [State.requestMaint]
  (repeat' split) <;> simp

@[simp ↓] theorem State.maintRequest_frame (s : State) (fn act : Nat) :
    (s.maintRequest fn act).frame = s.frame := by
  exact State.command_frame _ _ _ _ _ _ _ (fun s t p => State.requestMaint_frame ..)


@[simp ↓] theorem State.reply_frame (s : State) (port : Nat) (r : Reply) :
    (s.reply port r).frame = s.frame := by simp [State.reply]

@[simp ↓] theorem State.clockTick_frame (s : State) :
    s.clockTick.frame = s.frame := by simp [State.clockTick]

@[simp ↓] theorem State.flushDrop_frame (s : State) (code : Nat) :
    (s.flushDrop code).frame = s.frame := by simp [State.flushDrop]

@[simp ↓] theorem State.takeFlits_frame (k : Nat) (s : State) (n : Nat) :
    (State.takeFlits k s n).frame = s.frame := by
  induction k generalizing s with
  | zero => rfl
  | succ k ih =>
    simp only [State.takeFlits]
    (repeat' split) <;> simp [ih]

@[simp ↓] theorem State.linksTick_frame (s : State) :
    s.linksTick.frame = s.frame := by simp [State.linksTick]

@[simp ↓] theorem State.landSamples_frame (s : State) :
    s.landSamples.frame = s.frame := by simp [State.landSamples]

@[simp ↓] theorem State.tick_frame (s : State) :
    s.tick.frame = s.frame := by simp [State.tick]

@[simp ↓] theorem tileCOPY_frame (w : Word128) (s : State) (ph : Nat) (t : Tile) : (tileCOPY w s ph t).1.frame = s.frame := by
  simp only [tileCOPY]
  (repeat' split) <;> first | rfl | (simp; done) | simp [State.load_frame ‹_›]

@[simp ↓] theorem State.repairTile_frame (s : State) (ph result : Nat) : (s.repairTile ph result).1.frame = s.frame := by
  simp only [State.repairTile]
  (repeat' split) <;> simp

@[simp ↓] theorem State.takeSamples_frame (s : State) (part n : Nat) : (s.takeSamples part n).1.frame = s.frame := by
  have h (l : List Nat) (a : State × List (List (BitVec 32))) : (l.foldl (fun a ph =>
      let b := (a.1.tile ph).sampler.buffer
      let k := Nat.min b.length (n - a.2.length)
      if k = 0 then a
      else (a.1.modTile ph (fun t => { t with sampler := { t.sampler with buffer := b.drop k } }), a.2 ++ b.take k)) a).1.frame =
        a.1.frame := by
    induction l generalizing a with
    | nil => rfl
    | cons x l ih =>
      rw [List.foldl_cons, ih]
      dsimp only
      split <;> simp
  exact h _ _

@[simp ↓] theorem State.linkNoop_frame (s : State) (t : Taken) : (s.linkNoop t).1.frame = s.frame := by simp [State.linkNoop]

@[simp ↓] theorem State.linkNeedsLock_frame (s : State) (t : Taken) (act : State → State × Ans) (h : ∀ s, (act s).1.frame = s.frame) :
    (s.linkNeedsLock t act).1.frame = s.frame := by
  simp only [State.linkNeedsLock]
  split <;> simp [h]

@[simp ↓] theorem State.linkTakesLock_frame (s : State) (t : Taken) (act : State → State) (h : ∀ s, (act s).frame = s.frame) :
    (s.linkTakesLock t act).1.frame = s.frame := by
  simp only [State.linkTakesLock]
  split <;> simp [h]

@[simp ↓] theorem pairIte_frame {α : Type} (p : Prop) [Decidable p] (a b : State × α) :
    (if p then a else b).1.frame = if p then a.1.frame else b.1.frame := by split <;> rfl

theorem State.run_frame {s t : State} {f : State → State} (h : s.run f = .next t) (hf : ∀ s, (f s).frame = s.frame) :
    t.frame = s.frame := by
  simp only [State.run, Host.Outcome.next.injEq] at h
  subst h
  split
  · exact hf s
  · rfl

end Sys2Proof.Machine
end

