-- ==== Sys2Proof/Laws/Map.lean ====
section
/-! SUPPORT. The canonical form of the sparse stores: every operation on a store or a memory keeps it, and reads find what was written. -/

namespace Sys2Proof.Machine

variable {α : Type}

/-- The canonical form as two facts: keys strictly rising, no entry the default. -/
theorem SMap.wf_iff [DecidableEq α] {d : α} {m : SMap α} :
    SMap.wf d m = true ↔ m.Pairwise (fun a b => a.1 < b.1) ∧ ∀ e ∈ m, e.2 ≠ d := by
  induction m with
  | nil => simp [SMap.wf]
  | cons x m ih =>
    obtain ⟨k, v⟩ := x
    cases m with
    | nil => simp [SMap.wf]
    | cons y m =>
      obtain ⟨k', v'⟩ := y
      simp only [SMap.wf, Bool.and_eq_true, decide_eq_true_eq, bne_iff_ne, ne_eq, ih]
      constructor
      · rintro ⟨⟨hk, hv⟩, hp, hd⟩
        refine ⟨List.pairwise_cons.2 ⟨?_, hp⟩, ?_⟩
        · intro e he
          rcases List.mem_cons.1 he with rfl | he'
          · exact hk
          · exact Nat.lt_trans hk ((List.pairwise_cons.1 hp).1 e he')
        · intro e he
          rcases List.mem_cons.1 he with rfl | he'
          · exact hv
          · exact hd e he'
      · rintro ⟨hp, hd⟩
        obtain ⟨h1, h2⟩ := List.pairwise_cons.1 hp
        exact ⟨⟨h1 (k', v') (by simp), hd (k, v) (by simp)⟩, h2, fun e he => hd e (List.mem_cons_of_mem _ he)⟩

theorem SMap.wf_nil [DecidableEq α] (d : α) : SMap.wf d ([] : SMap α) = true := rfl

/-- Entries after an insertion: the new one, or one that stood before. -/
theorem SMap.mem_insert {m : SMap α} {i : Nat} {v : α} {e : Nat × α} (h : e ∈ SMap.insert m i v) : e = (i, v) ∨ e ∈ m := by
  induction m with
  | nil => simpa [SMap.insert] using h
  | cons x m ih =>
    obtain ⟨k, w⟩ := x
    simp only [SMap.insert] at h
    split at h
    · rcases List.mem_cons.1 h with h | h <;> simp [h]
    · split at h
      · rcases List.mem_cons.1 h with h | h
        · exact .inl h
        · exact .inr h
      · rcases List.mem_cons.1 h with h | h
        · simp [h]
        · rcases ih h with h | h <;> simp [h]

theorem SMap.insert_rises {m : SMap α} {i : Nat} {v : α} (h : m.Pairwise (fun a b => a.1 < b.1)) :
    (SMap.insert m i v).Pairwise (fun a b => a.1 < b.1) := by
  induction m with
  | nil => simp [SMap.insert]
  | cons x m ih =>
    obtain ⟨k, w⟩ := x
    obtain ⟨h1, h2⟩ := List.pairwise_cons.1 h
    simp only [SMap.insert]
    split
    · subst i
      exact List.pairwise_cons.2 ⟨h1, h2⟩
    · split
      · refine List.pairwise_cons.2 ⟨?_, h⟩
        intro e he
        rcases List.mem_cons.1 he with rfl | he
        · assumption
        · exact Nat.lt_trans ‹i < k› (h1 e he)
      · refine List.pairwise_cons.2 ⟨?_, ih h2⟩
        intro e he
        rcases SMap.mem_insert he with rfl | he
        · dsimp only; omega
        · exact h1 e he

/-- Removing an entry leaves a sublist. -/
theorem SMap.erase_sublist (m : SMap α) (i : Nat) : (SMap.erase m i).Sublist m := by
  induction m with
  | nil => exact List.Sublist.refl _
  | cons x m ih =>
    obtain ⟨k, w⟩ := x
    simp only [SMap.erase]
    split
    · exact List.sublist_cons_self _ _
    · split
      · exact List.Sublist.refl _
      · exact ih.cons_cons _

/-- Part of a canonical store is canonical. -/
theorem SMap.wf_of_sublist [DecidableEq α] {d : α} {m n : SMap α} (hn : n.Sublist m) (h : SMap.wf d m = true) : SMap.wf d n = true := by
  rw [SMap.wf_iff] at h ⊢
  exact ⟨h.1.sublist hn, fun e he => h.2 e (hn.subset he)⟩

/-- A write keeps the canonical form. -/
theorem SMap.set_wf [DecidableEq α] {d : α} {m : SMap α} (h : SMap.wf d m = true) (i : Nat) (v : α) : SMap.wf d (SMap.set d m i v) = true := by
  unfold SMap.set
  split
  · exact SMap.wf_of_sublist (SMap.erase_sublist m i) h
  · rw [SMap.wf_iff] at h ⊢
    refine ⟨SMap.insert_rises h.1, fun e he => ?_⟩
    rcases SMap.mem_insert he with rfl | he
    · assumption
    · exact h.2 e he

/-- Dropping entries keeps the canonical form (freed pages, a partition's HBM). -/
theorem SMap.filter_wf [DecidableEq α] {d : α} {m : SMap α} (h : SMap.wf d m = true) (p : Nat × α → Bool) : SMap.wf d (m.filter p) = true :=
  SMap.wf_of_sublist List.filter_sublist h

/-- A function over every entry keeps the canonical form. -/
theorem SMap.mapVals_wf [DecidableEq α] {d : α} {m : SMap α} (h : SMap.wf d m = true) (f : Nat → α → α) : SMap.wf d (SMap.mapVals d f m) = true := by
  rw [SMap.wf_iff] at h ⊢
  refine ⟨(h.1.map (fun (e : Nat × α) => (e.1, f e.1 e.2)) (fun _ _ hab => hab)).sublist List.filter_sublist, fun e he => ?_⟩
  simpa using (List.mem_filter.1 he).2

/-- Below every listed key a store reads its default. -/
theorem SMap.get_below {d : α} {m : SMap α} {i : Nat} (h : ∀ e ∈ m, i < e.1) : SMap.get d m i = d := by
  cases m with
  | nil => rfl
  | cons x m =>
    obtain ⟨k, w⟩ := x
    have hk : i < k := h (k, w) (by simp)
    simp [SMap.get, hk, Nat.ne_of_lt hk]

theorem SMap.get_insert {d : α} (m : SMap α) (i j : Nat) (v : α) :
    SMap.get d (SMap.insert m i v) j = if j = i then v else SMap.get d m j := by
  induction m with
  | nil => simp [SMap.insert, SMap.get]
  | cons x m ih =>
    obtain ⟨k, w⟩ := x
    simp only [SMap.insert]
    split
    · subst i
      simp only [SMap.get]
      split <;> rfl
    · split
      · simp only [SMap.get]
        by_cases hji : j = i
        · simp [hji]
        · simp only [if_neg hji]
          by_cases hlt : j < i
          · have : j ≠ k := by omega
            have : j < k := by omega
            simp [*]
          · simp [hlt]
      · simp only [SMap.get, ih]
        by_cases hjk : j = k
        · have hji : j ≠ i := by omega
          simp only [if_pos hjk, if_neg hji]
        · simp only [if_neg hjk]
          by_cases hlt : j < k
          · have : j ≠ i := by omega
            simp [*]
          · simp [hlt]

theorem SMap.get_erase {d : α} {m : SMap α} (h : m.Pairwise (fun a b => a.1 < b.1)) (i j : Nat) :
    SMap.get d (SMap.erase m i) j = if j = i then d else SMap.get d m j := by
  induction m with
  | nil => simp [SMap.erase, SMap.get]
  | cons x m ih =>
    obtain ⟨k, w⟩ := x
    obtain ⟨h1, h2⟩ := List.pairwise_cons.1 h
    simp only [SMap.erase]
    split
    · subst i
      by_cases hjk : j = k
      · subst hjk
        rw [if_pos rfl]
        exact SMap.get_below h1
      · simp only [SMap.get, if_neg hjk]
        by_cases hlt : j < k
        · rw [if_pos hlt]
          exact SMap.get_below (fun e he => Nat.lt_trans hlt (h1 e he))
        · rw [if_neg hlt]
    · split
      · simp only [SMap.get]
        by_cases hji : j = i
        · subst hji
          simp [*]
        · simp [hji]
      · simp only [SMap.get, ih h2]
        by_cases hjk : j = k
        · have hji : j ≠ i := by omega
          simp only [if_pos hjk, if_neg hji]
        · simp only [if_neg hjk]
          by_cases hlt : j < k
          · have : j ≠ i := by omega
            simp [*]
          · simp [hlt]

/-- A read after a write: the value written at its place, what stood before elsewhere. -/
theorem SMap.get_set [DecidableEq α] {d : α} {m : SMap α} (h : SMap.wf d m = true) (i j : Nat) (v : α) :
    SMap.get d (SMap.set d m i v) j = if j = i then v else SMap.get d m j := by
  have hp := (SMap.wf_iff.1 h).1
  unfold SMap.set
  split
  · subst v
    exact SMap.get_erase hp i j
  · exact SMap.get_insert m i j v

/-- The same for any store, where the value written is not the default. -/
theorem SMap.get_set_ne [DecidableEq α] {d v : α} (m : SMap α) (hv : v ≠ d) (i j : Nat) :
    SMap.get d (SMap.set d m i v) j = if j = i then v else SMap.get d m j := by
  simp [SMap.set, hv, SMap.get_insert]

/-! ### Memories: every operation on one keeps its canonical form -/

theorem Mem.setByte_wf {m : Mem} (h : m.wf = true) (a : Nat) (b : Byte) : (m.setByte a b).wf = true := SMap.set_wf h a b

theorem Mem.byte_setByte {m : Mem} (h : m.wf = true) (a i : Nat) (b : Byte) :
    (m.setByte a b).byte i = if i = a then b else m.byte i := SMap.get_set h a i b

theorem Mem.setBytes_wf {m : Mem} (h : m.wf = true) (a : Nat) (bs : List Byte) : Mem.wf (m.setBytes a bs) = true := by
  induction bs generalizing m a with
  | nil => exact h
  | cons b bs ih => exact ih (Mem.setByte_wf h a b) (a + 1)

theorem Mem.setLe_wf {m : Mem} (h : m.wf = true) (a n v : Nat) : Mem.wf (m.setLe a n v) = true := Mem.setBytes_wf h a _

theorem Mem.filter_wf {m : Mem} (h : m.wf = true) (p : Nat × Byte → Bool) : Mem.wf (m.filter p) = true := SMap.filter_wf h p

/-- Single-byte writes in a row keep the canonical form (the host's stores, the journal played back). -/
theorem Mem.foldl_setByte_wf {β : Type} {m : Mem} (h : m.wf = true) (l : List β) (a : β → Nat) (b : β → Byte) :
    Mem.wf (l.foldl (fun m x => m.setByte (a x) (b x)) m) = true := by
  induction l generalizing m with
  | nil => exact h
  | cons x l ih => exact ih (Mem.setByte_wf h (a x) (b x))

/-- The memories and stores after reset are canonical. -/
theorem State.reset_memories_wf : State.reset.hbm.wf = true ∧ State.reset.hostMem.wf = true
    ∧ SMap.wf 0 State.reset.sync = true ∧ (State.reset.tiles.all (fun e => e.2.basin.wf && e.2.aux.wf)) = true
    ∧ State.reset.flash.bank0.wf = true ∧ State.reset.flash.bank1.wf = true := by decide

end Sys2Proof.Machine
end

