-- ==== Sys2Proof/Laws/State.lean ====
section
/-! SUPPORT. What one update of State leaves alone, field by field, and what a numbered part reads after a write of one. -/

namespace Sys2Proof.Machine

/-- `setTile` changes `tiles` alone. -/
@[simp] theorem State.setTile_fields (s : State) (i : Nat) (t : Tile) :
    (s.setTile i t).time = s.time ∧ (s.setTile i t).fuses = s.fuses ∧ (s.setTile i t).flash = s.flash
    ∧ (s.setTile i t).boot = s.boot ∧ (s.setTile i t).sec = s.sec ∧ (s.setTile i t).vfEnable = s.vfEnable
    ∧ (s.setTile i t).numVfs = s.numVfs ∧ (s.setTile i t).funcs = s.funcs ∧ (s.setTile i t).gos = s.gos
    ∧ (s.setTile i t).taken = s.taken ∧ (s.setTile i t).acts = s.acts ∧ (s.setTile i t).pinWait = s.pinWait ∧ (s.setTile i t).queues = s.queues
    ∧ (s.setTile i t).served = s.served ∧ (s.setTile i t).packets = s.packets ∧ (s.setTile i t).launches = s.launches
    ∧ (s.setTile i t).sync = s.sync ∧ (s.setTile i t).arms = s.arms ∧ (s.setTile i t).slots = s.slots
    ∧ (s.setTile i t).parts = s.parts ∧ (s.setTile i t).dbOwner = s.dbOwner ∧ (s.setTile i t).saved = s.saved
    ∧ (s.setTile i t).hbm = s.hbm ∧ (s.setTile i t).hostMem = s.hostMem ∧ (s.setTile i t).cst = s.cst
    ∧ (s.setTile i t).chans = s.chans ∧ (s.setTile i t).flights = s.flights ∧ (s.setTile i t).granted = s.granted
    ∧ (s.setTile i t).links = s.links
    ∧ (s.setTile i t).devid = s.devid ∧ (s.setTile i t).routes = s.routes ∧ (s.setTile i t).window = s.window
    ∧ (s.setTile i t).arrivals = s.arrivals ∧ (s.setTile i t).reqs = s.reqs ∧ (s.setTile i t).nextSeq = s.nextSeq
    ∧ (s.setTile i t).dups = s.dups ∧ (s.setTile i t).comms = s.comms ∧ (s.setTile i t).dropped = s.dropped
    ∧ (s.setTile i t).rel = s.rel ∧ (s.setTile i t).weir = s.weir ∧ (s.setTile i t).tele = s.tele
    ∧ (s.setTile i t).jet = s.jet ∧ (s.setTile i t).mgmt = s.mgmt ∧ (s.setTile i t).tap = s.tap
    ∧ (s.setTile i t).draws = s.draws ∧ (s.setTile i t).pending = s.pending := by
  and_intros <;> rfl

/-- `modTile` changes `tiles` alone. -/
@[simp] theorem State.modTile_fields (s : State) (i : Nat) (f : Tile → Tile) :
    (s.modTile i f).time = s.time ∧ (s.modTile i f).fuses = s.fuses ∧ (s.modTile i f).flash = s.flash
    ∧ (s.modTile i f).boot = s.boot ∧ (s.modTile i f).sec = s.sec ∧ (s.modTile i f).vfEnable = s.vfEnable
    ∧ (s.modTile i f).numVfs = s.numVfs ∧ (s.modTile i f).funcs = s.funcs ∧ (s.modTile i f).gos = s.gos
    ∧ (s.modTile i f).taken = s.taken ∧ (s.modTile i f).acts = s.acts ∧ (s.modTile i f).pinWait = s.pinWait ∧ (s.modTile i f).queues = s.queues
    ∧ (s.modTile i f).served = s.served ∧ (s.modTile i f).packets = s.packets ∧ (s.modTile i f).launches = s.launches
    ∧ (s.modTile i f).sync = s.sync ∧ (s.modTile i f).arms = s.arms ∧ (s.modTile i f).slots = s.slots
    ∧ (s.modTile i f).parts = s.parts ∧ (s.modTile i f).dbOwner = s.dbOwner ∧ (s.modTile i f).saved = s.saved
    ∧ (s.modTile i f).hbm = s.hbm ∧ (s.modTile i f).hostMem = s.hostMem ∧ (s.modTile i f).cst = s.cst
    ∧ (s.modTile i f).chans = s.chans ∧ (s.modTile i f).flights = s.flights ∧ (s.modTile i f).granted = s.granted
    ∧ (s.modTile i f).links = s.links
    ∧ (s.modTile i f).devid = s.devid ∧ (s.modTile i f).routes = s.routes ∧ (s.modTile i f).window = s.window
    ∧ (s.modTile i f).arrivals = s.arrivals ∧ (s.modTile i f).reqs = s.reqs ∧ (s.modTile i f).nextSeq = s.nextSeq
    ∧ (s.modTile i f).dups = s.dups ∧ (s.modTile i f).comms = s.comms ∧ (s.modTile i f).dropped = s.dropped
    ∧ (s.modTile i f).rel = s.rel ∧ (s.modTile i f).weir = s.weir ∧ (s.modTile i f).tele = s.tele
    ∧ (s.modTile i f).jet = s.jet ∧ (s.modTile i f).mgmt = s.mgmt ∧ (s.modTile i f).tap = s.tap
    ∧ (s.modTile i f).draws = s.draws ∧ (s.modTile i f).pending = s.pending := by
  and_intros <;> rfl

/-- `setPart` changes `parts` alone. -/
@[simp] theorem State.setPart_fields (s : State) (i : Nat) (p : Part) :
    (s.setPart i p).time = s.time ∧ (s.setPart i p).fuses = s.fuses ∧ (s.setPart i p).flash = s.flash
    ∧ (s.setPart i p).boot = s.boot ∧ (s.setPart i p).sec = s.sec ∧ (s.setPart i p).vfEnable = s.vfEnable
    ∧ (s.setPart i p).numVfs = s.numVfs ∧ (s.setPart i p).funcs = s.funcs ∧ (s.setPart i p).gos = s.gos
    ∧ (s.setPart i p).taken = s.taken ∧ (s.setPart i p).acts = s.acts ∧ (s.setPart i p).pinWait = s.pinWait ∧ (s.setPart i p).queues = s.queues
    ∧ (s.setPart i p).served = s.served ∧ (s.setPart i p).packets = s.packets ∧ (s.setPart i p).launches = s.launches
    ∧ (s.setPart i p).sync = s.sync ∧ (s.setPart i p).arms = s.arms ∧ (s.setPart i p).slots = s.slots
    ∧ (s.setPart i p).dbOwner = s.dbOwner ∧ (s.setPart i p).tiles = s.tiles ∧ (s.setPart i p).saved = s.saved
    ∧ (s.setPart i p).hbm = s.hbm ∧ (s.setPart i p).hostMem = s.hostMem ∧ (s.setPart i p).cst = s.cst
    ∧ (s.setPart i p).chans = s.chans ∧ (s.setPart i p).flights = s.flights ∧ (s.setPart i p).granted = s.granted
    ∧ (s.setPart i p).links = s.links
    ∧ (s.setPart i p).devid = s.devid ∧ (s.setPart i p).routes = s.routes ∧ (s.setPart i p).window = s.window
    ∧ (s.setPart i p).arrivals = s.arrivals ∧ (s.setPart i p).reqs = s.reqs ∧ (s.setPart i p).nextSeq = s.nextSeq
    ∧ (s.setPart i p).dups = s.dups ∧ (s.setPart i p).comms = s.comms ∧ (s.setPart i p).dropped = s.dropped
    ∧ (s.setPart i p).rel = s.rel ∧ (s.setPart i p).weir = s.weir ∧ (s.setPart i p).tele = s.tele
    ∧ (s.setPart i p).jet = s.jet ∧ (s.setPart i p).mgmt = s.mgmt ∧ (s.setPart i p).tap = s.tap
    ∧ (s.setPart i p).draws = s.draws ∧ (s.setPart i p).pending = s.pending := by
  and_intros <;> rfl

/-- `setFunc` changes `funcs` alone. -/
@[simp] theorem State.setFunc_fields (s : State) (i : Nat) (f : Func) :
    (s.setFunc i f).time = s.time ∧ (s.setFunc i f).fuses = s.fuses ∧ (s.setFunc i f).flash = s.flash
    ∧ (s.setFunc i f).boot = s.boot ∧ (s.setFunc i f).sec = s.sec ∧ (s.setFunc i f).vfEnable = s.vfEnable
    ∧ (s.setFunc i f).numVfs = s.numVfs ∧ (s.setFunc i f).gos = s.gos ∧ (s.setFunc i f).taken = s.taken
    ∧ (s.setFunc i f).acts = s.acts ∧ (s.setFunc i f).pinWait = s.pinWait ∧ (s.setFunc i f).queues = s.queues ∧ (s.setFunc i f).served = s.served
    ∧ (s.setFunc i f).packets = s.packets ∧ (s.setFunc i f).launches = s.launches ∧ (s.setFunc i f).sync = s.sync
    ∧ (s.setFunc i f).arms = s.arms ∧ (s.setFunc i f).slots = s.slots ∧ (s.setFunc i f).parts = s.parts
    ∧ (s.setFunc i f).dbOwner = s.dbOwner ∧ (s.setFunc i f).tiles = s.tiles ∧ (s.setFunc i f).saved = s.saved
    ∧ (s.setFunc i f).hbm = s.hbm ∧ (s.setFunc i f).hostMem = s.hostMem ∧ (s.setFunc i f).cst = s.cst
    ∧ (s.setFunc i f).chans = s.chans ∧ (s.setFunc i f).flights = s.flights ∧ (s.setFunc i f).granted = s.granted
    ∧ (s.setFunc i f).links = s.links
    ∧ (s.setFunc i f).devid = s.devid ∧ (s.setFunc i f).routes = s.routes ∧ (s.setFunc i f).window = s.window
    ∧ (s.setFunc i f).arrivals = s.arrivals ∧ (s.setFunc i f).reqs = s.reqs ∧ (s.setFunc i f).nextSeq = s.nextSeq
    ∧ (s.setFunc i f).dups = s.dups ∧ (s.setFunc i f).comms = s.comms ∧ (s.setFunc i f).dropped = s.dropped
    ∧ (s.setFunc i f).rel = s.rel ∧ (s.setFunc i f).weir = s.weir ∧ (s.setFunc i f).tele = s.tele
    ∧ (s.setFunc i f).jet = s.jet ∧ (s.setFunc i f).mgmt = s.mgmt ∧ (s.setFunc i f).tap = s.tap
    ∧ (s.setFunc i f).draws = s.draws ∧ (s.setFunc i f).pending = s.pending := by
  and_intros <;> rfl

/-- `modFunc` changes `funcs` alone. -/
@[simp] theorem State.modFunc_fields (s : State) (i : Nat) (f : Func → Func) :
    (s.modFunc i f).time = s.time ∧ (s.modFunc i f).fuses = s.fuses ∧ (s.modFunc i f).flash = s.flash
    ∧ (s.modFunc i f).boot = s.boot ∧ (s.modFunc i f).sec = s.sec ∧ (s.modFunc i f).vfEnable = s.vfEnable
    ∧ (s.modFunc i f).numVfs = s.numVfs ∧ (s.modFunc i f).gos = s.gos ∧ (s.modFunc i f).taken = s.taken
    ∧ (s.modFunc i f).acts = s.acts ∧ (s.modFunc i f).pinWait = s.pinWait ∧ (s.modFunc i f).queues = s.queues ∧ (s.modFunc i f).served = s.served
    ∧ (s.modFunc i f).packets = s.packets ∧ (s.modFunc i f).launches = s.launches ∧ (s.modFunc i f).sync = s.sync
    ∧ (s.modFunc i f).arms = s.arms ∧ (s.modFunc i f).slots = s.slots ∧ (s.modFunc i f).parts = s.parts
    ∧ (s.modFunc i f).dbOwner = s.dbOwner ∧ (s.modFunc i f).tiles = s.tiles ∧ (s.modFunc i f).saved = s.saved
    ∧ (s.modFunc i f).hbm = s.hbm ∧ (s.modFunc i f).hostMem = s.hostMem ∧ (s.modFunc i f).cst = s.cst
    ∧ (s.modFunc i f).chans = s.chans ∧ (s.modFunc i f).flights = s.flights ∧ (s.modFunc i f).granted = s.granted
    ∧ (s.modFunc i f).links = s.links
    ∧ (s.modFunc i f).devid = s.devid ∧ (s.modFunc i f).routes = s.routes ∧ (s.modFunc i f).window = s.window
    ∧ (s.modFunc i f).arrivals = s.arrivals ∧ (s.modFunc i f).reqs = s.reqs ∧ (s.modFunc i f).nextSeq = s.nextSeq
    ∧ (s.modFunc i f).dups = s.dups ∧ (s.modFunc i f).comms = s.comms ∧ (s.modFunc i f).dropped = s.dropped
    ∧ (s.modFunc i f).rel = s.rel ∧ (s.modFunc i f).weir = s.weir ∧ (s.modFunc i f).tele = s.tele
    ∧ (s.modFunc i f).jet = s.jet ∧ (s.modFunc i f).mgmt = s.mgmt ∧ (s.modFunc i f).tap = s.tap
    ∧ (s.modFunc i f).draws = s.draws ∧ (s.modFunc i f).pending = s.pending := by
  and_intros <;> rfl

/-- `setQueue` changes `queues` alone. -/
@[simp] theorem State.setQueue_fields (s : State) (i : Nat) (q : Queue) :
    (s.setQueue i q).time = s.time ∧ (s.setQueue i q).fuses = s.fuses ∧ (s.setQueue i q).flash = s.flash
    ∧ (s.setQueue i q).boot = s.boot ∧ (s.setQueue i q).sec = s.sec ∧ (s.setQueue i q).vfEnable = s.vfEnable
    ∧ (s.setQueue i q).numVfs = s.numVfs ∧ (s.setQueue i q).funcs = s.funcs ∧ (s.setQueue i q).gos = s.gos
    ∧ (s.setQueue i q).taken = s.taken ∧ (s.setQueue i q).acts = s.acts ∧ (s.setQueue i q).pinWait = s.pinWait
    ∧ (s.setQueue i q).served = s.served
    ∧ (s.setQueue i q).packets = s.packets ∧ (s.setQueue i q).launches = s.launches ∧ (s.setQueue i q).sync = s.sync
    ∧ (s.setQueue i q).arms = s.arms ∧ (s.setQueue i q).slots = s.slots ∧ (s.setQueue i q).parts = s.parts
    ∧ (s.setQueue i q).dbOwner = s.dbOwner ∧ (s.setQueue i q).tiles = s.tiles ∧ (s.setQueue i q).saved = s.saved
    ∧ (s.setQueue i q).hbm = s.hbm ∧ (s.setQueue i q).hostMem = s.hostMem ∧ (s.setQueue i q).cst = s.cst
    ∧ (s.setQueue i q).chans = s.chans ∧ (s.setQueue i q).flights = s.flights ∧ (s.setQueue i q).granted = s.granted
    ∧ (s.setQueue i q).links = s.links
    ∧ (s.setQueue i q).devid = s.devid ∧ (s.setQueue i q).routes = s.routes ∧ (s.setQueue i q).window = s.window
    ∧ (s.setQueue i q).arrivals = s.arrivals ∧ (s.setQueue i q).reqs = s.reqs ∧ (s.setQueue i q).nextSeq = s.nextSeq
    ∧ (s.setQueue i q).dups = s.dups ∧ (s.setQueue i q).comms = s.comms ∧ (s.setQueue i q).dropped = s.dropped
    ∧ (s.setQueue i q).rel = s.rel ∧ (s.setQueue i q).weir = s.weir ∧ (s.setQueue i q).tele = s.tele
    ∧ (s.setQueue i q).jet = s.jet ∧ (s.setQueue i q).mgmt = s.mgmt ∧ (s.setQueue i q).tap = s.tap
    ∧ (s.setQueue i q).draws = s.draws ∧ (s.setQueue i q).pending = s.pending := by
  and_intros <;> rfl

/-- `modQueue` changes `queues` alone. -/
@[simp] theorem State.modQueue_fields (s : State) (i : Nat) (f : Queue → Queue) :
    (s.modQueue i f).time = s.time ∧ (s.modQueue i f).fuses = s.fuses ∧ (s.modQueue i f).flash = s.flash
    ∧ (s.modQueue i f).boot = s.boot ∧ (s.modQueue i f).sec = s.sec ∧ (s.modQueue i f).vfEnable = s.vfEnable
    ∧ (s.modQueue i f).numVfs = s.numVfs ∧ (s.modQueue i f).funcs = s.funcs ∧ (s.modQueue i f).gos = s.gos
    ∧ (s.modQueue i f).taken = s.taken ∧ (s.modQueue i f).acts = s.acts ∧ (s.modQueue i f).pinWait = s.pinWait
    ∧ (s.modQueue i f).served = s.served
    ∧ (s.modQueue i f).packets = s.packets ∧ (s.modQueue i f).launches = s.launches ∧ (s.modQueue i f).sync = s.sync
    ∧ (s.modQueue i f).arms = s.arms ∧ (s.modQueue i f).slots = s.slots ∧ (s.modQueue i f).parts = s.parts
    ∧ (s.modQueue i f).dbOwner = s.dbOwner ∧ (s.modQueue i f).tiles = s.tiles ∧ (s.modQueue i f).saved = s.saved
    ∧ (s.modQueue i f).hbm = s.hbm ∧ (s.modQueue i f).hostMem = s.hostMem ∧ (s.modQueue i f).cst = s.cst
    ∧ (s.modQueue i f).chans = s.chans ∧ (s.modQueue i f).flights = s.flights ∧ (s.modQueue i f).granted = s.granted
    ∧ (s.modQueue i f).links = s.links
    ∧ (s.modQueue i f).devid = s.devid ∧ (s.modQueue i f).routes = s.routes ∧ (s.modQueue i f).window = s.window
    ∧ (s.modQueue i f).arrivals = s.arrivals ∧ (s.modQueue i f).reqs = s.reqs ∧ (s.modQueue i f).nextSeq = s.nextSeq
    ∧ (s.modQueue i f).dups = s.dups ∧ (s.modQueue i f).comms = s.comms ∧ (s.modQueue i f).dropped = s.dropped
    ∧ (s.modQueue i f).rel = s.rel ∧ (s.modQueue i f).weir = s.weir ∧ (s.modQueue i f).tele = s.tele
    ∧ (s.modQueue i f).jet = s.jet ∧ (s.modQueue i f).mgmt = s.mgmt ∧ (s.modQueue i f).tap = s.tap
    ∧ (s.modQueue i f).draws = s.draws ∧ (s.modQueue i f).pending = s.pending := by
  and_intros <;> rfl

/-- `setCounter` changes `sync` alone. -/
@[simp] theorem State.setCounter_fields (s : State) (i : Nat) (v : BitVec 64) :
    (s.setCounter i v).time = s.time ∧ (s.setCounter i v).fuses = s.fuses ∧ (s.setCounter i v).flash = s.flash
    ∧ (s.setCounter i v).boot = s.boot ∧ (s.setCounter i v).sec = s.sec ∧ (s.setCounter i v).vfEnable = s.vfEnable
    ∧ (s.setCounter i v).numVfs = s.numVfs ∧ (s.setCounter i v).funcs = s.funcs ∧ (s.setCounter i v).gos = s.gos
    ∧ (s.setCounter i v).taken = s.taken ∧ (s.setCounter i v).acts = s.acts ∧ (s.setCounter i v).pinWait = s.pinWait
    ∧ (s.setCounter i v).queues = s.queues
    ∧ (s.setCounter i v).served = s.served ∧ (s.setCounter i v).packets = s.packets
    ∧ (s.setCounter i v).launches = s.launches ∧ (s.setCounter i v).arms = s.arms ∧ (s.setCounter i v).slots = s.slots
    ∧ (s.setCounter i v).parts = s.parts ∧ (s.setCounter i v).dbOwner = s.dbOwner ∧ (s.setCounter i v).tiles = s.tiles
    ∧ (s.setCounter i v).saved = s.saved ∧ (s.setCounter i v).hbm = s.hbm ∧ (s.setCounter i v).hostMem = s.hostMem
    ∧ (s.setCounter i v).cst = s.cst ∧ (s.setCounter i v).chans = s.chans ∧ (s.setCounter i v).flights = s.flights
    ∧ (s.setCounter i v).granted = s.granted
    ∧ (s.setCounter i v).links = s.links ∧ (s.setCounter i v).devid = s.devid ∧ (s.setCounter i v).routes = s.routes
    ∧ (s.setCounter i v).window = s.window ∧ (s.setCounter i v).arrivals = s.arrivals ∧ (s.setCounter i v).reqs = s.reqs
    ∧ (s.setCounter i v).nextSeq = s.nextSeq ∧ (s.setCounter i v).dups = s.dups ∧ (s.setCounter i v).comms = s.comms
    ∧ (s.setCounter i v).dropped = s.dropped ∧ (s.setCounter i v).rel = s.rel ∧ (s.setCounter i v).weir = s.weir
    ∧ (s.setCounter i v).tele = s.tele ∧ (s.setCounter i v).jet = s.jet ∧ (s.setCounter i v).mgmt = s.mgmt
    ∧ (s.setCounter i v).tap = s.tap ∧ (s.setCounter i v).draws = s.draws ∧ (s.setCounter i v).pending = s.pending := by
  and_intros <;> rfl

/-- `setSlot` changes `slots` alone. -/
@[simp] theorem State.setSlot_fields (s : State) (i : Nat) (v : Slot) :
    (s.setSlot i v).time = s.time ∧ (s.setSlot i v).fuses = s.fuses ∧ (s.setSlot i v).flash = s.flash
    ∧ (s.setSlot i v).boot = s.boot ∧ (s.setSlot i v).sec = s.sec ∧ (s.setSlot i v).vfEnable = s.vfEnable
    ∧ (s.setSlot i v).numVfs = s.numVfs ∧ (s.setSlot i v).funcs = s.funcs ∧ (s.setSlot i v).gos = s.gos
    ∧ (s.setSlot i v).taken = s.taken ∧ (s.setSlot i v).acts = s.acts ∧ (s.setSlot i v).pinWait = s.pinWait ∧ (s.setSlot i v).queues = s.queues
    ∧ (s.setSlot i v).served = s.served ∧ (s.setSlot i v).packets = s.packets ∧ (s.setSlot i v).launches = s.launches
    ∧ (s.setSlot i v).sync = s.sync ∧ (s.setSlot i v).arms = s.arms ∧ (s.setSlot i v).parts = s.parts
    ∧ (s.setSlot i v).dbOwner = s.dbOwner ∧ (s.setSlot i v).tiles = s.tiles ∧ (s.setSlot i v).saved = s.saved
    ∧ (s.setSlot i v).hbm = s.hbm ∧ (s.setSlot i v).hostMem = s.hostMem ∧ (s.setSlot i v).cst = s.cst
    ∧ (s.setSlot i v).chans = s.chans ∧ (s.setSlot i v).flights = s.flights ∧ (s.setSlot i v).granted = s.granted
    ∧ (s.setSlot i v).links = s.links
    ∧ (s.setSlot i v).devid = s.devid ∧ (s.setSlot i v).routes = s.routes ∧ (s.setSlot i v).window = s.window
    ∧ (s.setSlot i v).arrivals = s.arrivals ∧ (s.setSlot i v).reqs = s.reqs ∧ (s.setSlot i v).nextSeq = s.nextSeq
    ∧ (s.setSlot i v).dups = s.dups ∧ (s.setSlot i v).comms = s.comms ∧ (s.setSlot i v).dropped = s.dropped
    ∧ (s.setSlot i v).rel = s.rel ∧ (s.setSlot i v).weir = s.weir ∧ (s.setSlot i v).tele = s.tele
    ∧ (s.setSlot i v).jet = s.jet ∧ (s.setSlot i v).mgmt = s.mgmt ∧ (s.setSlot i v).tap = s.tap
    ∧ (s.setSlot i v).draws = s.draws ∧ (s.setSlot i v).pending = s.pending := by
  and_intros <;> rfl

/-- `setChan` changes `chans` alone. -/
@[simp] theorem State.setChan_fields (s : State) (i : Nat) (c : Chan) :
    (s.setChan i c).time = s.time ∧ (s.setChan i c).fuses = s.fuses ∧ (s.setChan i c).flash = s.flash
    ∧ (s.setChan i c).boot = s.boot ∧ (s.setChan i c).sec = s.sec ∧ (s.setChan i c).vfEnable = s.vfEnable
    ∧ (s.setChan i c).numVfs = s.numVfs ∧ (s.setChan i c).funcs = s.funcs ∧ (s.setChan i c).gos = s.gos
    ∧ (s.setChan i c).taken = s.taken ∧ (s.setChan i c).acts = s.acts ∧ (s.setChan i c).pinWait = s.pinWait ∧ (s.setChan i c).queues = s.queues
    ∧ (s.setChan i c).served = s.served ∧ (s.setChan i c).packets = s.packets ∧ (s.setChan i c).launches = s.launches
    ∧ (s.setChan i c).sync = s.sync ∧ (s.setChan i c).arms = s.arms ∧ (s.setChan i c).slots = s.slots
    ∧ (s.setChan i c).parts = s.parts ∧ (s.setChan i c).dbOwner = s.dbOwner ∧ (s.setChan i c).tiles = s.tiles
    ∧ (s.setChan i c).saved = s.saved ∧ (s.setChan i c).hbm = s.hbm ∧ (s.setChan i c).hostMem = s.hostMem
    ∧ (s.setChan i c).cst = s.cst ∧ (s.setChan i c).flights = s.flights ∧ (s.setChan i c).granted = s.granted ∧ (s.setChan i c).links = s.links
    ∧ (s.setChan i c).devid = s.devid ∧ (s.setChan i c).routes = s.routes ∧ (s.setChan i c).window = s.window
    ∧ (s.setChan i c).arrivals = s.arrivals ∧ (s.setChan i c).reqs = s.reqs ∧ (s.setChan i c).nextSeq = s.nextSeq
    ∧ (s.setChan i c).dups = s.dups ∧ (s.setChan i c).comms = s.comms ∧ (s.setChan i c).dropped = s.dropped
    ∧ (s.setChan i c).rel = s.rel ∧ (s.setChan i c).weir = s.weir ∧ (s.setChan i c).tele = s.tele
    ∧ (s.setChan i c).jet = s.jet ∧ (s.setChan i c).mgmt = s.mgmt ∧ (s.setChan i c).tap = s.tap
    ∧ (s.setChan i c).draws = s.draws ∧ (s.setChan i c).pending = s.pending := by
  and_intros <;> rfl

/-- `modChan` changes `chans` alone. -/
@[simp] theorem State.modChan_fields (s : State) (i : Nat) (f : Chan → Chan) :
    (s.modChan i f).time = s.time ∧ (s.modChan i f).fuses = s.fuses ∧ (s.modChan i f).flash = s.flash
    ∧ (s.modChan i f).boot = s.boot ∧ (s.modChan i f).sec = s.sec ∧ (s.modChan i f).vfEnable = s.vfEnable
    ∧ (s.modChan i f).numVfs = s.numVfs ∧ (s.modChan i f).funcs = s.funcs ∧ (s.modChan i f).gos = s.gos
    ∧ (s.modChan i f).taken = s.taken ∧ (s.modChan i f).acts = s.acts ∧ (s.modChan i f).pinWait = s.pinWait ∧ (s.modChan i f).queues = s.queues
    ∧ (s.modChan i f).served = s.served ∧ (s.modChan i f).packets = s.packets ∧ (s.modChan i f).launches = s.launches
    ∧ (s.modChan i f).sync = s.sync ∧ (s.modChan i f).arms = s.arms ∧ (s.modChan i f).slots = s.slots
    ∧ (s.modChan i f).parts = s.parts ∧ (s.modChan i f).dbOwner = s.dbOwner ∧ (s.modChan i f).tiles = s.tiles
    ∧ (s.modChan i f).saved = s.saved ∧ (s.modChan i f).hbm = s.hbm ∧ (s.modChan i f).hostMem = s.hostMem
    ∧ (s.modChan i f).cst = s.cst ∧ (s.modChan i f).flights = s.flights ∧ (s.modChan i f).granted = s.granted ∧ (s.modChan i f).links = s.links
    ∧ (s.modChan i f).devid = s.devid ∧ (s.modChan i f).routes = s.routes ∧ (s.modChan i f).window = s.window
    ∧ (s.modChan i f).arrivals = s.arrivals ∧ (s.modChan i f).reqs = s.reqs ∧ (s.modChan i f).nextSeq = s.nextSeq
    ∧ (s.modChan i f).dups = s.dups ∧ (s.modChan i f).comms = s.comms ∧ (s.modChan i f).dropped = s.dropped
    ∧ (s.modChan i f).rel = s.rel ∧ (s.modChan i f).weir = s.weir ∧ (s.modChan i f).tele = s.tele
    ∧ (s.modChan i f).jet = s.jet ∧ (s.modChan i f).mgmt = s.mgmt ∧ (s.modChan i f).tap = s.tap
    ∧ (s.modChan i f).draws = s.draws ∧ (s.modChan i f).pending = s.pending := by
  and_intros <;> rfl

/-- `setLink` changes `links` alone. -/
@[simp] theorem State.setLink_fields (s : State) (i : Nat) (l : Link) :
    (s.setLink i l).time = s.time ∧ (s.setLink i l).fuses = s.fuses ∧ (s.setLink i l).flash = s.flash
    ∧ (s.setLink i l).boot = s.boot ∧ (s.setLink i l).sec = s.sec ∧ (s.setLink i l).vfEnable = s.vfEnable
    ∧ (s.setLink i l).numVfs = s.numVfs ∧ (s.setLink i l).funcs = s.funcs ∧ (s.setLink i l).gos = s.gos
    ∧ (s.setLink i l).taken = s.taken ∧ (s.setLink i l).acts = s.acts ∧ (s.setLink i l).pinWait = s.pinWait ∧ (s.setLink i l).queues = s.queues
    ∧ (s.setLink i l).served = s.served ∧ (s.setLink i l).packets = s.packets ∧ (s.setLink i l).launches = s.launches
    ∧ (s.setLink i l).sync = s.sync ∧ (s.setLink i l).arms = s.arms ∧ (s.setLink i l).slots = s.slots
    ∧ (s.setLink i l).parts = s.parts ∧ (s.setLink i l).dbOwner = s.dbOwner ∧ (s.setLink i l).tiles = s.tiles
    ∧ (s.setLink i l).saved = s.saved ∧ (s.setLink i l).hbm = s.hbm ∧ (s.setLink i l).hostMem = s.hostMem
    ∧ (s.setLink i l).cst = s.cst ∧ (s.setLink i l).chans = s.chans ∧ (s.setLink i l).flights = s.flights ∧ (s.setLink i l).granted = s.granted
    ∧ (s.setLink i l).devid = s.devid ∧ (s.setLink i l).routes = s.routes ∧ (s.setLink i l).window = s.window
    ∧ (s.setLink i l).arrivals = s.arrivals ∧ (s.setLink i l).reqs = s.reqs ∧ (s.setLink i l).nextSeq = s.nextSeq
    ∧ (s.setLink i l).dups = s.dups ∧ (s.setLink i l).comms = s.comms ∧ (s.setLink i l).dropped = s.dropped
    ∧ (s.setLink i l).rel = s.rel ∧ (s.setLink i l).weir = s.weir ∧ (s.setLink i l).tele = s.tele
    ∧ (s.setLink i l).jet = s.jet ∧ (s.setLink i l).mgmt = s.mgmt ∧ (s.setLink i l).tap = s.tap
    ∧ (s.setLink i l).draws = s.draws ∧ (s.setLink i l).pending = s.pending := by
  and_intros <;> rfl

/-- `modLink` changes `links` alone. -/
@[simp] theorem State.modLink_fields (s : State) (i : Nat) (f : Link → Link) :
    (s.modLink i f).time = s.time ∧ (s.modLink i f).fuses = s.fuses ∧ (s.modLink i f).flash = s.flash
    ∧ (s.modLink i f).boot = s.boot ∧ (s.modLink i f).sec = s.sec ∧ (s.modLink i f).vfEnable = s.vfEnable
    ∧ (s.modLink i f).numVfs = s.numVfs ∧ (s.modLink i f).funcs = s.funcs ∧ (s.modLink i f).gos = s.gos
    ∧ (s.modLink i f).taken = s.taken ∧ (s.modLink i f).acts = s.acts ∧ (s.modLink i f).pinWait = s.pinWait ∧ (s.modLink i f).queues = s.queues
    ∧ (s.modLink i f).served = s.served ∧ (s.modLink i f).packets = s.packets ∧ (s.modLink i f).launches = s.launches
    ∧ (s.modLink i f).sync = s.sync ∧ (s.modLink i f).arms = s.arms ∧ (s.modLink i f).slots = s.slots
    ∧ (s.modLink i f).parts = s.parts ∧ (s.modLink i f).dbOwner = s.dbOwner ∧ (s.modLink i f).tiles = s.tiles
    ∧ (s.modLink i f).saved = s.saved ∧ (s.modLink i f).hbm = s.hbm ∧ (s.modLink i f).hostMem = s.hostMem
    ∧ (s.modLink i f).cst = s.cst ∧ (s.modLink i f).chans = s.chans ∧ (s.modLink i f).flights = s.flights ∧ (s.modLink i f).granted = s.granted
    ∧ (s.modLink i f).devid = s.devid ∧ (s.modLink i f).routes = s.routes ∧ (s.modLink i f).window = s.window
    ∧ (s.modLink i f).arrivals = s.arrivals ∧ (s.modLink i f).reqs = s.reqs ∧ (s.modLink i f).nextSeq = s.nextSeq
    ∧ (s.modLink i f).dups = s.dups ∧ (s.modLink i f).comms = s.comms ∧ (s.modLink i f).dropped = s.dropped
    ∧ (s.modLink i f).rel = s.rel ∧ (s.modLink i f).weir = s.weir ∧ (s.modLink i f).tele = s.tele
    ∧ (s.modLink i f).jet = s.jet ∧ (s.modLink i f).mgmt = s.mgmt ∧ (s.modLink i f).tap = s.tap
    ∧ (s.modLink i f).draws = s.draws ∧ (s.modLink i f).pending = s.pending := by
  and_intros <;> rfl

/-- `setComm` changes `comms` alone. -/
@[simp] theorem State.setComm_fields (s : State) (i : Nat) (c : Option Comm) :
    (s.setComm i c).time = s.time ∧ (s.setComm i c).fuses = s.fuses ∧ (s.setComm i c).flash = s.flash
    ∧ (s.setComm i c).boot = s.boot ∧ (s.setComm i c).sec = s.sec ∧ (s.setComm i c).vfEnable = s.vfEnable
    ∧ (s.setComm i c).numVfs = s.numVfs ∧ (s.setComm i c).funcs = s.funcs ∧ (s.setComm i c).gos = s.gos
    ∧ (s.setComm i c).taken = s.taken ∧ (s.setComm i c).acts = s.acts ∧ (s.setComm i c).pinWait = s.pinWait ∧ (s.setComm i c).queues = s.queues
    ∧ (s.setComm i c).served = s.served ∧ (s.setComm i c).packets = s.packets ∧ (s.setComm i c).launches = s.launches
    ∧ (s.setComm i c).sync = s.sync ∧ (s.setComm i c).arms = s.arms ∧ (s.setComm i c).slots = s.slots
    ∧ (s.setComm i c).parts = s.parts ∧ (s.setComm i c).dbOwner = s.dbOwner ∧ (s.setComm i c).tiles = s.tiles
    ∧ (s.setComm i c).saved = s.saved ∧ (s.setComm i c).hbm = s.hbm ∧ (s.setComm i c).hostMem = s.hostMem
    ∧ (s.setComm i c).cst = s.cst ∧ (s.setComm i c).chans = s.chans ∧ (s.setComm i c).flights = s.flights ∧ (s.setComm i c).granted = s.granted
    ∧ (s.setComm i c).links = s.links ∧ (s.setComm i c).devid = s.devid ∧ (s.setComm i c).routes = s.routes
    ∧ (s.setComm i c).window = s.window ∧ (s.setComm i c).arrivals = s.arrivals ∧ (s.setComm i c).reqs = s.reqs
    ∧ (s.setComm i c).nextSeq = s.nextSeq ∧ (s.setComm i c).dups = s.dups ∧ (s.setComm i c).dropped = s.dropped
    ∧ (s.setComm i c).rel = s.rel ∧ (s.setComm i c).weir = s.weir ∧ (s.setComm i c).tele = s.tele
    ∧ (s.setComm i c).jet = s.jet ∧ (s.setComm i c).mgmt = s.mgmt ∧ (s.setComm i c).tap = s.tap
    ∧ (s.setComm i c).draws = s.draws ∧ (s.setComm i c).pending = s.pending := by
  and_intros <;> rfl

/-- `setCstEntry` changes `cst` alone. -/
@[simp] theorem State.setCstEntry_fields (s : State) (d i : Nat) (v : BitVec 64) :
    (s.setCstEntry d i v).time = s.time ∧ (s.setCstEntry d i v).fuses = s.fuses ∧ (s.setCstEntry d i v).flash = s.flash
    ∧ (s.setCstEntry d i v).boot = s.boot ∧ (s.setCstEntry d i v).sec = s.sec ∧ (s.setCstEntry d i v).vfEnable = s.vfEnable
    ∧ (s.setCstEntry d i v).numVfs = s.numVfs ∧ (s.setCstEntry d i v).funcs = s.funcs ∧ (s.setCstEntry d i v).gos = s.gos
    ∧ (s.setCstEntry d i v).taken = s.taken ∧ (s.setCstEntry d i v).acts = s.acts ∧ (s.setCstEntry d i v).pinWait = s.pinWait
    ∧ (s.setCstEntry d i v).queues = s.queues
    ∧ (s.setCstEntry d i v).served = s.served ∧ (s.setCstEntry d i v).packets = s.packets
    ∧ (s.setCstEntry d i v).launches = s.launches ∧ (s.setCstEntry d i v).sync = s.sync ∧ (s.setCstEntry d i v).arms = s.arms
    ∧ (s.setCstEntry d i v).slots = s.slots ∧ (s.setCstEntry d i v).parts = s.parts
    ∧ (s.setCstEntry d i v).dbOwner = s.dbOwner ∧ (s.setCstEntry d i v).tiles = s.tiles
    ∧ (s.setCstEntry d i v).saved = s.saved ∧ (s.setCstEntry d i v).hbm = s.hbm ∧ (s.setCstEntry d i v).hostMem = s.hostMem
    ∧ (s.setCstEntry d i v).chans = s.chans ∧ (s.setCstEntry d i v).flights = s.flights ∧ (s.setCstEntry d i v).granted = s.granted
    ∧ (s.setCstEntry d i v).links = s.links ∧ (s.setCstEntry d i v).devid = s.devid ∧ (s.setCstEntry d i v).routes = s.routes
    ∧ (s.setCstEntry d i v).window = s.window ∧ (s.setCstEntry d i v).arrivals = s.arrivals
    ∧ (s.setCstEntry d i v).reqs = s.reqs ∧ (s.setCstEntry d i v).nextSeq = s.nextSeq ∧ (s.setCstEntry d i v).dups = s.dups
    ∧ (s.setCstEntry d i v).comms = s.comms ∧ (s.setCstEntry d i v).dropped = s.dropped ∧ (s.setCstEntry d i v).rel = s.rel
    ∧ (s.setCstEntry d i v).weir = s.weir ∧ (s.setCstEntry d i v).tele = s.tele ∧ (s.setCstEntry d i v).jet = s.jet
    ∧ (s.setCstEntry d i v).mgmt = s.mgmt ∧ (s.setCstEntry d i v).tap = s.tap ∧ (s.setCstEntry d i v).draws = s.draws
    ∧ (s.setCstEntry d i v).pending = s.pending := by
  and_intros <;> rfl

/-- `modPacket` changes `packets` alone. -/
@[simp] theorem State.modPacket_fields (s : State) (q : Nat) (seq : BitVec 32) (f : Packet → Packet) :
    (s.modPacket q seq f).time = s.time ∧ (s.modPacket q seq f).fuses = s.fuses ∧ (s.modPacket q seq f).flash = s.flash
    ∧ (s.modPacket q seq f).boot = s.boot ∧ (s.modPacket q seq f).sec = s.sec ∧ (s.modPacket q seq f).vfEnable = s.vfEnable
    ∧ (s.modPacket q seq f).numVfs = s.numVfs ∧ (s.modPacket q seq f).funcs = s.funcs ∧ (s.modPacket q seq f).gos = s.gos
    ∧ (s.modPacket q seq f).taken = s.taken ∧ (s.modPacket q seq f).acts = s.acts ∧ (s.modPacket q seq f).pinWait = s.pinWait
    ∧ (s.modPacket q seq f).queues = s.queues
    ∧ (s.modPacket q seq f).served = s.served ∧ (s.modPacket q seq f).launches = s.launches
    ∧ (s.modPacket q seq f).sync = s.sync ∧ (s.modPacket q seq f).arms = s.arms ∧ (s.modPacket q seq f).slots = s.slots
    ∧ (s.modPacket q seq f).parts = s.parts ∧ (s.modPacket q seq f).dbOwner = s.dbOwner
    ∧ (s.modPacket q seq f).tiles = s.tiles ∧ (s.modPacket q seq f).saved = s.saved ∧ (s.modPacket q seq f).hbm = s.hbm
    ∧ (s.modPacket q seq f).hostMem = s.hostMem ∧ (s.modPacket q seq f).cst = s.cst ∧ (s.modPacket q seq f).chans = s.chans
    ∧ (s.modPacket q seq f).flights = s.flights ∧ (s.modPacket q seq f).granted = s.granted ∧ (s.modPacket q seq f).links = s.links
    ∧ (s.modPacket q seq f).devid = s.devid ∧ (s.modPacket q seq f).routes = s.routes
    ∧ (s.modPacket q seq f).window = s.window ∧ (s.modPacket q seq f).arrivals = s.arrivals
    ∧ (s.modPacket q seq f).reqs = s.reqs ∧ (s.modPacket q seq f).nextSeq = s.nextSeq ∧ (s.modPacket q seq f).dups = s.dups
    ∧ (s.modPacket q seq f).comms = s.comms ∧ (s.modPacket q seq f).dropped = s.dropped ∧ (s.modPacket q seq f).rel = s.rel
    ∧ (s.modPacket q seq f).weir = s.weir ∧ (s.modPacket q seq f).tele = s.tele ∧ (s.modPacket q seq f).jet = s.jet
    ∧ (s.modPacket q seq f).mgmt = s.mgmt ∧ (s.modPacket q seq f).tap = s.tap ∧ (s.modPacket q seq f).draws = s.draws
    ∧ (s.modPacket q seq f).pending = s.pending := by
  and_intros <;> rfl

/-- `modLaunch` changes `launches` alone. -/
@[simp] theorem State.modLaunch_fields (s : State) (q : Nat) (seq : BitVec 32) (f : Launch → Launch) :
    (s.modLaunch q seq f).time = s.time ∧ (s.modLaunch q seq f).fuses = s.fuses ∧ (s.modLaunch q seq f).flash = s.flash
    ∧ (s.modLaunch q seq f).boot = s.boot ∧ (s.modLaunch q seq f).sec = s.sec ∧ (s.modLaunch q seq f).vfEnable = s.vfEnable
    ∧ (s.modLaunch q seq f).numVfs = s.numVfs ∧ (s.modLaunch q seq f).funcs = s.funcs ∧ (s.modLaunch q seq f).gos = s.gos
    ∧ (s.modLaunch q seq f).taken = s.taken ∧ (s.modLaunch q seq f).acts = s.acts ∧ (s.modLaunch q seq f).pinWait = s.pinWait
    ∧ (s.modLaunch q seq f).queues = s.queues
    ∧ (s.modLaunch q seq f).served = s.served ∧ (s.modLaunch q seq f).packets = s.packets
    ∧ (s.modLaunch q seq f).sync = s.sync ∧ (s.modLaunch q seq f).arms = s.arms ∧ (s.modLaunch q seq f).slots = s.slots
    ∧ (s.modLaunch q seq f).parts = s.parts ∧ (s.modLaunch q seq f).dbOwner = s.dbOwner
    ∧ (s.modLaunch q seq f).tiles = s.tiles ∧ (s.modLaunch q seq f).saved = s.saved ∧ (s.modLaunch q seq f).hbm = s.hbm
    ∧ (s.modLaunch q seq f).hostMem = s.hostMem ∧ (s.modLaunch q seq f).cst = s.cst ∧ (s.modLaunch q seq f).chans = s.chans
    ∧ (s.modLaunch q seq f).flights = s.flights ∧ (s.modLaunch q seq f).granted = s.granted ∧ (s.modLaunch q seq f).links = s.links
    ∧ (s.modLaunch q seq f).devid = s.devid ∧ (s.modLaunch q seq f).routes = s.routes
    ∧ (s.modLaunch q seq f).window = s.window ∧ (s.modLaunch q seq f).arrivals = s.arrivals
    ∧ (s.modLaunch q seq f).reqs = s.reqs ∧ (s.modLaunch q seq f).nextSeq = s.nextSeq ∧ (s.modLaunch q seq f).dups = s.dups
    ∧ (s.modLaunch q seq f).comms = s.comms ∧ (s.modLaunch q seq f).dropped = s.dropped ∧ (s.modLaunch q seq f).rel = s.rel
    ∧ (s.modLaunch q seq f).weir = s.weir ∧ (s.modLaunch q seq f).tele = s.tele ∧ (s.modLaunch q seq f).jet = s.jet
    ∧ (s.modLaunch q seq f).mgmt = s.mgmt ∧ (s.modLaunch q seq f).tap = s.tap ∧ (s.modLaunch q seq f).draws = s.draws
    ∧ (s.modLaunch q seq f).pending = s.pending := by
  and_intros <;> rfl

/-- `setWeir` changes `weir` alone. -/
@[simp] theorem State.setWeir_fields (s : State) (f : Weir → Weir) :
    (s.setWeir f).time = s.time ∧ (s.setWeir f).fuses = s.fuses ∧ (s.setWeir f).flash = s.flash ∧ (s.setWeir f).boot = s.boot
    ∧ (s.setWeir f).sec = s.sec ∧ (s.setWeir f).vfEnable = s.vfEnable ∧ (s.setWeir f).numVfs = s.numVfs
    ∧ (s.setWeir f).funcs = s.funcs ∧ (s.setWeir f).gos = s.gos ∧ (s.setWeir f).taken = s.taken ∧ (s.setWeir f).acts = s.acts
    ∧ (s.setWeir f).pinWait = s.pinWait
    ∧ (s.setWeir f).queues = s.queues ∧ (s.setWeir f).served = s.served ∧ (s.setWeir f).packets = s.packets
    ∧ (s.setWeir f).launches = s.launches ∧ (s.setWeir f).sync = s.sync ∧ (s.setWeir f).arms = s.arms
    ∧ (s.setWeir f).slots = s.slots ∧ (s.setWeir f).parts = s.parts ∧ (s.setWeir f).dbOwner = s.dbOwner
    ∧ (s.setWeir f).tiles = s.tiles ∧ (s.setWeir f).saved = s.saved ∧ (s.setWeir f).hbm = s.hbm
    ∧ (s.setWeir f).hostMem = s.hostMem ∧ (s.setWeir f).cst = s.cst ∧ (s.setWeir f).chans = s.chans
    ∧ (s.setWeir f).flights = s.flights ∧ (s.setWeir f).granted = s.granted ∧ (s.setWeir f).links = s.links ∧ (s.setWeir f).devid = s.devid
    ∧ (s.setWeir f).routes = s.routes ∧ (s.setWeir f).window = s.window ∧ (s.setWeir f).arrivals = s.arrivals
    ∧ (s.setWeir f).reqs = s.reqs ∧ (s.setWeir f).nextSeq = s.nextSeq ∧ (s.setWeir f).dups = s.dups
    ∧ (s.setWeir f).comms = s.comms ∧ (s.setWeir f).dropped = s.dropped ∧ (s.setWeir f).rel = s.rel
    ∧ (s.setWeir f).tele = s.tele ∧ (s.setWeir f).jet = s.jet ∧ (s.setWeir f).mgmt = s.mgmt ∧ (s.setWeir f).tap = s.tap
    ∧ (s.setWeir f).draws = s.draws ∧ (s.setWeir f).pending = s.pending := by
  and_intros <;> rfl

/-- `draw` advances the model's own counter alone. -/
@[simp] theorem State.draw_fields (s : State) :
    s.draw.2.time = s.time ∧ s.draw.2.fuses = s.fuses ∧ s.draw.2.flash = s.flash ∧ s.draw.2.boot = s.boot
    ∧ s.draw.2.sec = s.sec ∧ s.draw.2.vfEnable = s.vfEnable ∧ s.draw.2.numVfs = s.numVfs ∧ s.draw.2.funcs = s.funcs
    ∧ s.draw.2.gos = s.gos ∧ s.draw.2.taken = s.taken ∧ s.draw.2.acts = s.acts ∧ s.draw.2.queues = s.queues
    ∧ s.draw.2.served = s.served ∧ s.draw.2.packets = s.packets ∧ s.draw.2.launches = s.launches ∧ s.draw.2.sync = s.sync
    ∧ s.draw.2.arms = s.arms ∧ s.draw.2.slots = s.slots ∧ s.draw.2.parts = s.parts ∧ s.draw.2.dbOwner = s.dbOwner
    ∧ s.draw.2.tiles = s.tiles ∧ s.draw.2.saved = s.saved ∧ s.draw.2.hbm = s.hbm ∧ s.draw.2.hostMem = s.hostMem
    ∧ s.draw.2.cst = s.cst ∧ s.draw.2.chans = s.chans ∧ s.draw.2.flights = s.flights ∧ s.draw.2.links = s.links
    ∧ s.draw.2.devid = s.devid ∧ s.draw.2.routes = s.routes ∧ s.draw.2.window = s.window ∧ s.draw.2.arrivals = s.arrivals
    ∧ s.draw.2.reqs = s.reqs ∧ s.draw.2.nextSeq = s.nextSeq ∧ s.draw.2.dups = s.dups ∧ s.draw.2.comms = s.comms
    ∧ s.draw.2.dropped = s.dropped ∧ s.draw.2.rel = s.rel ∧ s.draw.2.weir = s.weir ∧ s.draw.2.tele = s.tele
    ∧ s.draw.2.jet = s.jet ∧ s.draw.2.mgmt = s.mgmt ∧ s.draw.2.tap = s.tap ∧ s.draw.2.pending = s.pending := by
  and_intros <;> rfl

theorem State.tile_setTile {s : State} (h : SMap.wf ({} : Tile) s.tiles = true) (i j : Nat) (v : Tile) :
    (s.setTile i v).tile j = if j = i then v else s.tile j := SMap.get_set h i j v

theorem State.tile_setTile_ne (s : State) {v : Tile} (h : v ≠ {}) (i j : Nat) :
    (s.setTile i v).tile j = if j = i then v else s.tile j := SMap.get_set_ne _ h i j

theorem State.part_setPart {s : State} (h : SMap.wf ({} : Part) s.parts = true) (i j : Nat) (v : Part) :
    (s.setPart i v).part j = if j = i then v else s.part j := SMap.get_set h i j v

theorem State.part_setPart_ne (s : State) {v : Part} (h : v ≠ {}) (i j : Nat) :
    (s.setPart i v).part j = if j = i then v else s.part j := SMap.get_set_ne _ h i j

theorem State.func_setFunc {s : State} (h : SMap.wf ({} : Func) s.funcs = true) (i j : Nat) (v : Func) :
    (s.setFunc i v).func j = if j = i then v else s.func j := SMap.get_set h i j v

theorem State.func_setFunc_ne (s : State) {v : Func} (h : v ≠ {}) (i j : Nat) :
    (s.setFunc i v).func j = if j = i then v else s.func j := SMap.get_set_ne _ h i j

theorem State.queue_setQueue {s : State} (h : SMap.wf ({} : Queue) s.queues = true) (i j : Nat) (v : Queue) :
    (s.setQueue i v).queue j = if j = i then v else s.queue j := SMap.get_set h i j v

theorem State.queue_setQueue_ne (s : State) {v : Queue} (h : v ≠ {}) (i j : Nat) :
    (s.setQueue i v).queue j = if j = i then v else s.queue j := SMap.get_set_ne _ h i j

theorem State.counter_setCounter {s : State} (h : SMap.wf 0 s.sync = true) (i j : Nat) (v : BitVec 64) :
    (s.setCounter i v).counter j = if j = i then v else s.counter j := SMap.get_set h i j v

theorem State.counter_setCounter_ne (s : State) {v : BitVec 64} (h : v ≠ 0) (i j : Nat) :
    (s.setCounter i v).counter j = if j = i then v else s.counter j := SMap.get_set_ne _ h i j

theorem State.slot_setSlot {s : State} (h : SMap.wf ({} : Slot) s.slots = true) (i j : Nat) (v : Slot) :
    (s.setSlot i v).slot j = if j = i then v else s.slot j := SMap.get_set h i j v

theorem State.slot_setSlot_ne (s : State) {v : Slot} (h : v ≠ {}) (i j : Nat) :
    (s.setSlot i v).slot j = if j = i then v else s.slot j := SMap.get_set_ne _ h i j

theorem State.chan_setChan {s : State} (h : SMap.wf ({} : Chan) s.chans = true) (i j : Nat) (v : Chan) :
    (s.setChan i v).chan j = if j = i then v else s.chan j := SMap.get_set h i j v

theorem State.chan_setChan_ne (s : State) {v : Chan} (h : v ≠ {}) (i j : Nat) :
    (s.setChan i v).chan j = if j = i then v else s.chan j := SMap.get_set_ne _ h i j

theorem State.link_setLink {s : State} (h : SMap.wf ({} : Link) s.links = true) (i j : Nat) (v : Link) :
    (s.setLink i v).link j = if j = i then v else s.link j := SMap.get_set h i j v

theorem State.link_setLink_ne (s : State) {v : Link} (h : v ≠ {}) (i j : Nat) :
    (s.setLink i v).link j = if j = i then v else s.link j := SMap.get_set_ne _ h i j

theorem State.comm_setComm {s : State} (h : SMap.wf none s.comms = true) (i j : Nat) (v : Option Comm) :
    (s.setComm i v).comm j = if j = i then v else s.comm j := SMap.get_set h i j v

theorem State.comm_setComm_ne (s : State) {v : Option Comm} (h : v ≠ none) (i j : Nat) :
    (s.setComm i v).comm j = if j = i then v else s.comm j := SMap.get_set_ne _ h i j

end Sys2Proof.Machine
end

