-- ==== Sys2Proof/Laws/Issue.lean ====
section
/-! SUPPORT. Laws of issue: an instruction that nothing hinders takes its effect on its own tile, and the sequencer goes on
(R215, R217, R251, R257, R263). -/

namespace Sys2Proof.Machine

/-- A counted event changes counters alone. -/
theorem State.count_eq (s : State) (unit event cycles v sub : Nat) : ∃ t, s.count unit event cycles v sub = { s with tele := t } :=
  ⟨_, rfl⟩

theorem State.foldl_count_eq {α : Type} (l : List α) (u e c v sub : α → Nat) (s : State) :
    ∃ t, l.foldl (fun s x => s.count (u x) (e x) (c x) (v x) (sub x)) s = { s with tele := t } := by
  induction l generalizing s with
  | nil => exact ⟨s.tele, rfl⟩
  | cons x l ih =>
    obtain ⟨t, ht⟩ := ih (s.count (u x) (e x) (c x) (v x) (sub x))
    exact ⟨t, by rw [List.foldl_cons, ht]; rfl⟩

/-- Where the sequencer has somewhere to go on, or the tile runs nothing, nothing ends. -/
theorem State.settle_settled {s : State} {ph : Nat} (h : (s.tile ph).settled = true) : s.settle ph = s := by
  simp only [Tile.settled, Bool.or_eq_true, Bool.and_eq_true, decide_eq_true_eq] at h
  simp only [State.settle]
  split
  · rfl
  · rename_i hn
    simp only [Bool.or_eq_true, not_or] at hn
    rcases h with (h | h) | h
    · exact absurd h hn.1.2
    · exact absurd h hn.2
    · have : ¬ (s.tile ph).ninstr ≤ (s.tile ph).pc := by omega
      simp [this, h.2]

/-- A running tile is none that the reset left. -/
theorem Tile.running_ne {t : Tile} (h : t.running = true) : t ≠ {} := by
  intro he
  rw [he] at h
  cases h

/-- After a write of a running tile, that tile is it and every other is as before. -/
theorem State.tile_setTile_running (s : State) {t : Tile} (h : t.running = true) (i j : Nat) :
    (s.setTile i t).tile j = if j = i then t else s.tile j := State.tile_setTile_ne s (Tile.running_ne h) i j

/-- Acceptance of an instruction that reads no damaged line, by a tile that goes on. -/
theorem State.accept_moved {s : State} {ph : Nat} {t' : Tile} {rd wr : List Range} (hd : (s.tile ph).damage rd = none)
    (hr : (t'.moved rd wr).running = true) (hs : (t'.moved rd wr).settled = true) :
    ∃ c, s.accept ph t' rd wr = { s.setTile ph (t'.moved rd wr) with tele := c } := by
  have ht (c : Tele) : State.tile { s.setTile ph (t'.moved rd wr) with tele := c } ph = t'.moved rd wr := by
    change (s.setTile ph (t'.moved rd wr)).tile ph = _
    rw [State.tile_setTile_running s hr, if_pos rfl]
  obtain ⟨c, hc⟩ := State.foldl_count_eq (opCounts (s.tile ph) t' ((s.tile ph).instrAt (s.tile ph).pc))
    (fun _ => State.unitTile ph) (·.1) (·.2.1) (·.2.2.1) (·.2.2.2) (s.setTile ph (t'.moved rd wr))
  obtain ⟨c2, hc2⟩ := State.count_eq { s.setTile ph (t'.moved rd wr) with tele := c } (State.unitTile ph) 0x001 1 1
    (2 ^ issueSlot ((s.tile ph).instrAt (s.tile ph).pc))
  refine ⟨c2, ?_⟩
  have e : s.accept ph t' rd wr =
      (((opCounts (s.tile ph) t' ((s.tile ph).instrAt (s.tile ph).pc)).foldl
        (fun s e => s.count (State.unitTile ph) e.1 e.2.1 e.2.2.1 e.2.2.2) (s.setTile ph (t'.moved rd wr))).count
          (State.unitTile ph) 0x001 1 1 (2 ^ issueSlot ((s.tile ph).instrAt (s.tile ph).pc))).settle ph := by
    simp only [State.accept, hd]
    rfl
  rw [e, hc, hc2, State.settle_settled (by rw [ht]; exact hs)]

/-- What no uncommitted step has yet to read, the current one has not. -/
theorem Tile.curStep_clear {t t' : Tile} {wr : List Range} (h : t.steps.any (fun x => hitsDeferred x t t' wr) = false) :
    hitsDeferred t.curStep t t' wr = false := by
  unfold Tile.curStep
  cases hl : t.steps.getLast? with
  | none => rfl
  | some x =>
    have hx : x ∈ t.steps := List.mem_of_getLast? hl
    simpa using List.any_eq_false.1 h x hx

/-- Issue of an instruction that nothing hinders is its acceptance. -/
theorem State.issueWith_ok {s s' : State} {ph : Nat} {w : Word128} {run : State → Tile → State × TRes} {t' : Tile} {rd wr : List Range}
    (hw : (s.tile ph).canIssue w = true) (hr : run s (s.tile ph) = (s', .ok t' rd wr)) (hu : (s.tile ph).unhindered t' rd wr = true) :
    s.issueWith ph w run = s'.accept ph t' rd wr := by
  simp only [Tile.unhindered, Bool.and_eq_true, Bool.not_eq_true', Option.isNone_iff_eq_none] at hu
  obtain ⟨⟨⟨_, hi⟩, hs⟩, hf⟩ := hu
  have hc := Tile.curStep_clear hs
  simp [State.issueWith, hw, hr, hi, hc, hs, hf]

/-- An instruction that its operands make illegal ends the launch (R258). -/
theorem State.issueWith_illegal {s s' : State} {ph : Nat} {w : Word128} {run : State → Tile → State × TRes} {r : Nat}
    (hw : (s.tile ph).canIssue w = true) (hr : run s (s.tile ph) = (s', .illegal r)) :
    s.issueWith ph w run = s.failTile ph stBadOpcode r (s.tile ph).pc := by
  simp [State.issueWith, hw, hr]

/-- An instruction whose access fails ends the launch with its status (R257). -/
theorem State.issueWith_fail {s s' : State} {ph : Nat} {w : Word128} {run : State → Tile → State × TRes} {st : Word16}
    (hw : (s.tile ph).canIssue w = true) (hr : run s (s.tile ph) = (s', .fail st)) :
    s.issueWith ph w run = s'.failTile ph st 0 (s.tile ph).pc := by
  simp [State.issueWith, hw, hr]

/-- The meaning of an instruction of a unit: what its row computes becomes the tile, no other tile and no other state but counters
changes. -/
theorem State.run_issue {s : State} {ph : Nat} {w : Word128} {f : Tile → TRes} {t' : Tile} {rd wr : List Range}
    (hs : s.standsAt ph w = true) (hf : f (s.tile ph) = .ok t' rd wr) (hu : (s.tile ph).unhindered t' rd wr = true)
    (hr : (t'.moved rd wr).running = true) (hg : (t'.moved rd wr).settled = true) :
    ∃ u : State, s.run (·.issue ph w true f) = .next u ∧ u.tile ph = t'.moved rd wr ∧ (∀ o, o ≠ ph → u.tile o = s.tile o)
      ∧ { u with tiles := s.tiles, tele := s.tele } = s := by
  simp only [State.standsAt, Bool.and_eq_true] at hs
  obtain ⟨hl, hc⟩ := hs
  have hd : (s.tile ph).damage rd = none := by
    simp only [Tile.unhindered, Bool.and_eq_true, Option.isNone_iff_eq_none] at hu
    exact hu.1.1.1
  obtain ⟨c, he⟩ := State.accept_moved hd hr hg
  have ht (o : Nat) : State.tile { s.setTile ph (t'.moved rd wr) with tele := c } o = if o = ph then t'.moved rd wr else s.tile o := by
    change (s.setTile ph (t'.moved rd wr)).tile o = _
    exact State.tile_setTile_running s hr ph o
  refine ⟨{ s.setTile ph (t'.moved rd wr) with tele := c }, ?_, by rw [ht, if_pos rfl], fun o ho => by rw [ht, if_neg ho], rfl⟩
  simp only [State.run, hl, State.issue, State.when, if_true]
  rw [State.issueWith_ok hc (by rw [hf]) hu, he]

/-- A control instruction that names no failure: the tile becomes what its row computes, and goes on. -/
theorem State.control_ok {s : State} {ph : Nat} {w : Word128} {op : Nat} {f : Tile → Tile ⊕ (Word16 × Nat)} {t' : Tile}
    (ho : opcode w = op) (hc : (s.tile ph).canIssue w = true) (hf : f (s.tile ph) = .inl t') (hr : t'.running = true)
    (hg : t'.settled = true) :
    ∃ c, s.control ph w op true f = { s.setTile ph t' with tele := c } := by
  obtain ⟨c, hcnt⟩ := State.count_eq (s.setTile ph t') (State.unitTile ph) 0x001 1 1 64
  refine ⟨c, ?_⟩
  have ht : State.tile { s.setTile ph t' with tele := c } ph = t' := by
    change (s.setTile ph t').tile ph = _
    rw [State.tile_setTile_running s hr, if_pos rfl]
  simp only [State.control, ho, hc, hf, bne_self_eq_false, Bool.not_true, Bool.or_self, Bool.false_eq_true, if_false]
  rw [hcnt, State.settle_settled (by rw [ht]; exact hg)]

end Sys2Proof.Machine
end

