-- ==== Sys2Proof/Laws/Mailbox.lean ====
section
/-! SUPPORT. Laws of the mailbox: checks that all hold choose nothing, and a request that stands to be executed is executed and
answered (R14, R347 to R350). -/

namespace Sys2Proof.Machine

theorem firstChk_fold_none (cs : List Chk) (best : Word16 × Nat) (h : ∀ c ∈ cs, c.1 = false) :
    cs.foldl (fun best c => if c.1 && (best.1 == stOk || Chk.before c.2 best) then c.2 else best) best = best := by
  induction cs generalizing best with
  | nil => rfl
  | cons c cs ih =>
    have hc : c.1 = false := h c (by simp)
    simp only [List.foldl_cons, hc, Bool.false_and]
    exact ih best (fun d hd => h d (by simp [hd]))

/-- Checks that all hold name no failure. -/
theorem firstChk_none {cs : List Chk} (h : ∀ c ∈ cs, c.1 = false) : firstChk cs = (stOk, 0x3FF) :=
  firstChk_fold_none cs _ h

/-- What `asks` says, part by part. -/
theorem asks_cases {s : State} {t : Taken} {p : Nat} {c : Cmd} (h : s.asks t p c = true) :
    s.live = true ∧ s.taken.head? = some t ∧ t.raw 0 = c.op ∧ t.raw 1 = c.plen ∧ t.raw 2 < 2 ∧ t.raw 3 ||| 0x1F01 = 0x1F01
      ∧ (t.enq = true → c.enq = true) ∧ t.raw 4 = 0 ∧ t.raw 5 = 0 ∧ t.raw 6 = 0 ∧ t.raw 7 = 0
      ∧ (∀ m ∈ c.masks.zipIdx, t.w (8 + m.2) ||| m.1 = m.1) ∧ s.permits t p c.who = true := by
  simp only [State.asks, Bool.and_eq_true, beq_iff_eq, decide_eq_true_eq, List.all_eq_true, Bool.or_eq_true,
    Bool.not_eq_true'] at h
  obtain ⟨⟨⟨⟨⟨⟨⟨⟨⟨⟨⟨⟨h1, h2⟩, h3⟩, h4⟩, h5⟩, h6⟩, h7⟩, h8⟩, h9⟩, h10⟩, h11⟩, h12⟩, h13⟩ := h
  refine ⟨h1, h2, h3, h4, h5, h6, ?_, h8, h9, h10, h11, h12, h13⟩
  intro he
  rcases h7 with h7 | h7
  · rw [he] at h7; cases h7
  · exact h7

/-- No check that every command shares fails for a request that stands to be executed. -/
theorem sharedChks_none {s : State} {t : Taken} {p : Nat} {c : Cmd} (h : s.asks t p c = true)
    (hop : c.op < 65536) (hlen : c.plen < 4096) : ∀ k ∈ s.sharedChks c t, k.1 = false := by
  obtain ⟨_, _, h0, h1, h2, h3, he, h4, h5, h6, h7, hm, hp⟩ := asks_cases h
  have hop' : ¬ 65536 ≤ c.op := by omega
  have hlen' : ¬ 4096 ≤ c.plen := by omega
  have h2' : ¬ 2 ≤ t.raw 2 := by omega
  have hpl : t.plen = c.plen := by unfold Taken.plen; rw [h1]; omega
  have hE : (t.enq && !c.enq) = false := by
    cases hq : t.enq
    · rfl
    · simp [he hq]
  intro k hk
  simp only [State.sharedChks, headerChks, List.cons_append, List.nil_append, List.mem_cons, List.mem_append, List.mem_map] at hk
  simp only [State.permits, Bool.and_eq_true, Bool.or_eq_true, Bool.not_eq_true', beq_iff_eq] at hp
  obtain ⟨hv, hw⟩ := hp
  rcases hk with rfl | rfl | rfl | rfl | rfl | rfl | rfl | rfl | hk
  · simpa [h0] using hop
  · simpa [h1] using hlen
  · simpa using h2
  · simp [h3, hE]
  · simp [h4]
  · simp [h5]
  · simp [h6]
  · simp [h7]
  rcases hk with rfl | hk
  · rcases hv with hv | hv
    · simp [hv]
    · simp [hv.2]
  rcases hk with ⟨m, hm', rfl⟩ | hk
  · simpa using hm m hm'
  rcases hk with rfl | hk
  · cases hc : c.who <;> simp only [hc] at hw ⊢
    · simp only [beq_iff_eq, State.actsOn] at hw
      rcases hv with hv | hv
      · simp only [hv, Bool.false_eq_true, if_false] at hw
        simp [hw]
      · simp [hv.1]
    · simp at hw; simp [hw]
    · simp at hw; simp [hw.1, hw.2]
  rcases hk with rfl | hk
  · rcases hv with hv | hv
    · simp [hv]
    · simp [hv.1]
  rcases hk with rfl | hk
  · cases hc : c.who <;> rw [hc] at hw <;> simp at hw ⊢
    simp [hw]
  · rcases hk with rfl | hk
    · simp [hpl]
    · cases hk

/-- A request that stands to be executed, whose own checks hold, is executed and answered, unless it waits for a tick. -/
theorem command_of_asks {s : State} {t : Taken} {p : Nat} {d : Cmd} (h : s.asks t p d = true) {c : Taken → Cmd} {mine : Taken → Bool}
    {checks : State → Taken → Nat → List Chk} {act : State → Taken → Nat → State × Ans}
    (hd : c t = d) (hop : d.op < 65536) (hlen : d.plen < 4096) (hm : mine t = true)
    (hc : ∀ k ∈ checks s t ((s.actsOn t).getD 255), k.1 = false) {qpos : State → Taken → Nat → Nat}
    (hn : (act s t ((s.actsOn t).getD 255)).2.later = false) :
    s.command t.fn c mine checks act qpos =
      (act s t ((s.actsOn t).getD 255)).1.respond t (act s t ((s.actsOn t).getD 255)).2 := by
  subst hd
  obtain ⟨_, hh, h0, _⟩ := asks_cases h
  have hopc : t.opcode = (c t).op := by unfold Taken.opcode; rw [h0]; omega
  have hall : ∀ k ∈ s.sharedChks (c t) t ++ checks s t ((s.actsOn t).getD 255), k.1 = false := by
    intro k hk
    rcases List.mem_append.mp hk with hk | hk
    · exact sharedChks_none h hop hlen k hk
    · exact hc k hk
  unfold State.command
  cases ht : s.taken with
  | nil => rw [ht] at hh; simp at hh
  | cons u us =>
    rw [ht] at hh
    simp only [List.head?_cons, Option.some.injEq] at hh
    subst hh
    have hp : s.partOf u = (s.actsOn u).getD 255 := rfl
    simp [hopc, hm, hp, firstChk_none hall, hn]

/-- The same through `run`: the meaning of a mailbox row. Its conclusion finds the command, so `rw` applies it to an unfolded meaning. -/
theorem run_command_of_asks {s : State} {t : Taken} {p : Nat} {d : Cmd} (h : s.asks t p d = true) {c : Taken → Cmd}
    {mine : Taken → Bool} {checks : State → Taken → Nat → List Chk} {act : State → Taken → Nat → State × Ans}
    (hd : c t = d) (hop : d.op < 65536) (hlen : d.plen < 4096) (hm : mine t = true)
    (hc : ∀ k ∈ checks s t ((s.actsOn t).getD 255), k.1 = false) {qpos : State → Taken → Nat → Nat}
    (hn : (act s t ((s.actsOn t).getD 255)).2.later = false) :
    s.run (·.command t.fn c mine checks act qpos) =
      .next ((act s t ((s.actsOn t).getD 255)).1.respond t (act s t ((s.actsOn t).getD 255)).2) := by
  have hl : s.live = true := (asks_cases h).1
  simp [State.run, hl, command_of_asks h hd hop hlen hm hc hn]

/-- The partition of a request that acts on one. -/
theorem actsOn_of_asks {s : State} {t : Taken} {p : Nat} {c : Cmd} (h : s.asks t p c = true) (hw : c.who = .part) :
    (s.actsOn t).getD 255 = p := by
  obtain ⟨_, _, _, _, _, _, _, _, _, _, _, _, hp⟩ := asks_cases h
  simp [State.permits, hw] at hp
  simp [hp.2]

end Sys2Proof.Machine
end

