-- ==== Sys2Proof/Laws/Residue.lean ====
section
/-! SUPPORT. Laws of the residue path (R492): its sum is the residue of the sum, and the check finds exactly the errors that are no multiple
of the modulus. -/

namespace Sys2Proof.Machine

theorem residue_add (a b : Int) : residue (a + b) = (residue a + residue b) % 65535 := by
  simp only [residue]; omega

theorem residuePath_fold (ps : List Int) (r : Int) :
    ps.foldl (fun r p => (r + residue p) % 65535) (residue r) = residue (r + ps.sum) := by
  induction ps generalizing r with
  | nil => simp
  | cons p ps ih => rw [List.foldl_cons, ← residue_add, ih, List.sum_cons, Int.add_assoc]

/-- The residue path's sum is the residue of the products' sum. -/
theorem residuePath_eq (ps : List Int) : residuePath ps = residue ps.sum := by
  have h := residuePath_fold ps 0
  simpa [residuePath, residue] using h

/-- The check passes exactly where the tree's sum differs from the products' by a multiple of 65,535. -/
theorem residueCheck_iff (ps : List Int) (g : Int) : residueCheck ps g = true ↔ (g - ps.sum) % 65535 = 0 := by
  simp only [residueCheck, residuePath_eq, beq_iff_eq, residue]
  omega

end Sys2Proof.Machine
end

