-- ==== Sys2Proof/Tests/Slice0.lean ====
section
/-! SUPPORT. Tests: terms that the check of well-formedness refuses; for every statement with hypotheses, states and operands that meet
them, clause by clause; worked values of the manual. -/

set_option Elab.async false

namespace Sys2Proof.Tests

open Sys2Proof Sys2Proof.Machine

/-! ### Ill-formed commands, one for each check -/

theorem test_wf_tile : Instr.wf (.stepCommit 255) = true ∧ Instr.wf (.stepCommit 256) = false := by decide +kernel
theorem test_wf_tile_word : Instr.wf (.loadw 255 0) = true ∧ Instr.wf (.loadw 256 0) = false := by decide +kernel
theorem test_wf_function : Instr.wf (.devIdentify 64) = true ∧ Instr.wf (.devIdentify 65) = false := by decide +kernel
theorem test_wf_queue : Instr.wf (.packetFetch 16383) = true ∧ Instr.wf (.packetFetch 16384) = false := by decide +kernel
theorem test_wf_doorbell : Instr.wf (.dblQueueWrite 64 16383 0 [(2 ^ 64 - 1, 1)]) = true
    ∧ Instr.wf (.dblQueueWrite 65 16383 0 []) = false ∧ Instr.wf (.dblQueueWrite 64 16384 0 []) = false
    ∧ Instr.wf (.dblQueueWrite 64 16383 0 [(2 ^ 64, 1)]) = false := by decide +kernel
theorem test_wf_channel : Instr.wf (.sluiceConfig 31 63) = true ∧ Instr.wf (.sluiceConfig 32 0) = false
    ∧ Instr.wf (.sluiceConfig 0 64) = false := by decide +kernel
theorem test_wf_stores : Instr.wf (.headaddrReread 0 0 [(2 ^ 64, 0)]) = false ∧ Instr.wf (.mbxGo 0 0 [(2 ^ 64, 0)]) = false := by decide +kernel
theorem test_wf_link : Instr.wf (.trainConverged 31) = true ∧ Instr.wf (.trainConverged 32) = false := by decide +kernel
theorem test_wf_lane : Instr.wf (.laneFailing 0 8) = true ∧ Instr.wf (.laneFailing 0 9) = false
    ∧ Instr.wf (.alignLocked 0 ⟨[8], [8]⟩) = true ∧ Instr.wf (.alignLocked 0 ⟨[9], []⟩) = false
    ∧ Instr.wf (.alignLocked 0 ⟨[], [9]⟩) = false := by decide +kernel
theorem test_wf_marker : Instr.wf (.markerBlock 0 8 (List.replicate 8 0)) = true
    ∧ Instr.wf (.markerBlock 0 9 (List.replicate 8 0)) = false ∧ Instr.wf (.markerBlock 0 8 (List.replicate 7 0)) = false := by decide +kernel
theorem test_wf_flit : Instr.wf (.idleFlit 0 (List.replicate 256 0) false) = true
    ∧ Instr.wf (.idleFlit 0 (List.replicate 255 0) false) = false := by decide +kernel
theorem test_wf_device : Instr.wf (.remoteResend 4095 0) = true ∧ Instr.wf (.remoteResend 4096 0) = false := by decide +kernel
theorem test_wf_communicator : Instr.wf (.joinResend 255) = true ∧ Instr.wf (.joinResend 256) = false := by decide +kernel
theorem test_wf_die : Instr.wf (.droopDetected 5) = true ∧ Instr.wf (.droopDetected 6) = false := by decide +kernel
theorem test_wf_partition : Instr.wf (.placementAdaptation 15 255) = true ∧ Instr.wf (.placementAdaptation 16 0) = false
    ∧ Instr.wf (.placementAdaptation 15 256) = false := by decide +kernel
theorem test_wf_port : Instr.wf (.getpdr 2 20) = true ∧ Instr.wf (.getpdr 3 20) = false := by decide +kernel
theorem test_wf_resource : Instr.wf (.autoRepair (5 * 256 + 1)) = true ∧ Instr.wf (.autoRepair (5 * 256 + 2)) = false
    ∧ Instr.wf (.autoRepair (4 * 256 + 4)) = false ∧ Instr.wf (.autoRepair (3 * 256 + 32)) = false
    ∧ Instr.wf (.autoRepair (1 * 256 + 8)) = false ∧ Instr.wf (.autoRepair (6 * 256)) = false
    ∧ Instr.wf (.uncorrectableError 5 1 0) = true ∧ Instr.wf (.uncorrectableError 4 256 0) = false := by decide +kernel
theorem test_wf_point : Instr.wf (.freqStep 7) = true ∧ Instr.wf (.freqStep 8) = false := by decide +kernel
theorem test_wf_sensor : Instr.wf (.thermalShutdown 15 0) = true ∧ Instr.wf (.thermalShutdown 16 0) = false := by decide +kernel
theorem test_wf_cause : Instr.wf (.deviceReset 5) = true ∧ Instr.wf (.deviceReset 2) = false ∧ Instr.wf (.deviceReset 6) = false := by decide +kernel
theorem test_wf_rail : Instr.wf (.railUndervoltage 14) = true ∧ Instr.wf (.railUndervoltage 15) = false := by decide +kernel
theorem test_wf_vfs : Instr.wf (.vfEnableChange true 64) = true ∧ Instr.wf (.vfEnableChange true 65) = false := by decide +kernel
theorem test_wf_vector : Instr.wf (.msixUnmask 0 127) = true ∧ Instr.wf (.msixUnmask 0 128) = false := by decide +kernel
theorem test_wf_stack : Instr.wf (.hbmRefresh 7 0) = true ∧ Instr.wf (.hbmRefresh 8 0) = false := by decide +kernel
theorem test_wf_taps : Instr.wf (.tapInstruction [0, 0, 0, 0, 0, 0] [] []) = true
    ∧ Instr.wf (.tapInstruction [0, 0, 0, 0, 0] [] []) = false := by decide +kernel
theorem test_wf_requester : Instr.wf (.busError (.channel 31 63 true)) = true ∧ Instr.wf (.busError (.channel 32 0 false)) = false
    ∧ Instr.wf (.busError (.fetch 16384)) = false ∧ Instr.wf (.busError (.launch 16384 0)) = false
    ∧ Instr.wf (.busError (.head 0 64)) = false := by decide +kernel

/-! ### States for the witnesses -/

/-- A device after bring-up: stage 6, the PF bound to partition 0 and ready, its doorbell pages assigned. -/
def up : State :=
  { State.reset with
    funcs := [(0, { present := true, bound := some 0, mse := true, bme := true, mbx := { ready := true } })],
    dbOwner := (List.range 32).map (fun p => (p, some 0)),
    boot := { porst := false, railsOk := true, stage := 6, standbyOk := true, pcieUp := true, epoch := 1 } }

/-- A request of the PF as taken, its header words and parameters. -/
def req (op plen : Nat) (ps : List Nat) (flags : Nat := 0) : Taken :=
  { fn := 0, seq := 1, words := [op, plen, 0, flags, 0, 0, 0, 0] ++ ps, time := 0 }

/-- A state whose oldest taken request is `t`. -/
def asked (s : State) (t : Taken) : State := { s with taken := [t] }

/-- It stands to be executed there, for partition 0. -/
def stands (s : State) (t : Taken) (c : Cmd) : Bool := (asked s t).asks t 0 c


/-! ### Witnesses: mailbox -/

theorem test_answer_hypotheses : (req 0x0100 0 []).lost = false ∧ up.boot.failed = false
    ∧ (∀ c ∈ ([(true, stBusy, 8), (true, stBadOpcode, 9)] : List Chk), c.2.1 ≠ stOk)
    ∧ firstChk [(true, stBusy, 8), (true, stBadOpcode, 9)] = (stBadOpcode, 9) := by decide +kernel

theorem test_device_queries_asked :
    stands up (req 0x0100 0 []) { op := 0x0100, who := .any, plen := 0 } = true
    ∧ stands up (req 0x0101 0 []) { op := 0x0101, who := .part, plen := 0 } = true
    ∧ stands up (req 0x0102 8 [7, 7])
        { op := 0x0102, who := .part, plen := 8, masks := [7, 7] } = true
    ∧ stands up (req 0x0104 0 []) { op := 0x0104, who := .pf, plen := 0 } = true
    ∧ stands up (req 0x0112 0 []) { op := 0x0112, who := .part, plen := 0 } = true := by decide +kernel

/-- A move of a tile block, an engine, a page and a group of sync objects to partition 15. -/
def moveReq : Taken := req 0x0110 68 [15, 0x8000, 0x8000_0000, 0x8000_0000, 0x8000_0000, 0, 0, 0, 0, 0, 0, 0, 0, 0, 0, 0, 0]

theorem test_partition_assign_hypotheses :
    stands up moveReq { op := 0x0110, who := .pf, plen := 68, masks :=
        [15, 0xFFFF_FFFF, 0xFFFF_FFFF, 0xFFFF_FFFF, 0xFFFF_FFFF, 0xFFFF_FFFF, 0xFFFF_FFFF, 0xFFFF_FFFF, 0xFFFF_FFFF, 0xFFFF_FFFF,
          0xFFFF_FFFF, 0xFFFF_FFFF, 0xFFFF_FFFF, 0xFFFF_FFFF, 0, 0, 0] } = true
    ∧ (∀ k ∈ (asked up moveReq).moveChks (moveReq.w 8) (moveReq.desc 9), k.1 = false) := by decide +kernel

/-- Partition 15 holds a block, an engine, a page and a group of sync objects. -/
def two : State := up.moveGranules 15 (moveReq.desc 9)

theorem test_partition_destroy_hypotheses :
    stands two (req 0x0111 4 [15]) { op := 0x0111, who := .pf, plen := 4, masks := [15] } = true
    ∧ (req 0x0111 4 [15]).w 8 ≠ 0 ∧ (asked two (req 0x0111 4 [15])).boundFuncs 15 = []
    ∧ (∀ k ∈ (asked two (req 0x0111 4 [15])).moveChks 0 ({ two.part 15 with spare := 0 } : Part), k.1 = false) := by decide +kernel

theorem test_function_bind_hypotheses :
    stands two (req 0x0113 8 [0xF40, 0x8000_0000])
      { op := 0x0113, who := .pf, plen := 8, masks := [0x1F7F, 0xFFFF_FFFF] } = true
    ∧ ((req 0x0113 8 [0xF40, 0x8000_0000]).w 8).testBit 12 = false ∧ (req 0x0113 8 [0xF40, 0x8000_0000]).w 8 % 128 = 64
    ∧ (two.part 15).held = true
    ∧ (∀ g, g < 32 → ((req 0x0113 8 [0xF40, 0x8000_0000]).w 9).testBit g = true → (two.part 15).hasPage g = true
        ∧ two.pageOwner g = none)
    ∧ (asked two (req 0x0113 8 [0xF40, 0x8000_0000])).funcBusy 64 0 = false
    ∧ stands two (req 0x0113 8 [0x1040, 0])
      { op := 0x0113, who := .pf, plen := 8, masks := [0x1F7F, 0xFFFF_FFFF] } = true
    ∧ ((req 0x0113 8 [0x1040, 0]).w 8).testBit 12 = true
    ∧ (asked two (req 0x0113 8 [0x1040, 0])).funcBusy 64 0 = false := by decide +kernel

/-- A Jet set image of one unused slot: 64 bytes of header, one directory entry, 96 bytes of signature. -/
def jetImage : List Byte :=
  wordsBytes ([0x4A53_4554, 1, 1, 0, 168, 64, 0, 0, 0, 0, 0, 0, 0, 0, 0, 0] ++ [0, 0]) ++ List.replicate 96 0

/-- Everything but the signature under Kelkuen's key, which the manual does not give: with it the image is accepted. -/
theorem test_jetset_load_hypotheses (h : State.signedBy jetImage Config.jetKey = true) : ∀ k ∈ up.jetChks jetImage, k.1 = false := by
  have h1 : JetImage.formOk jetImage = true := by decide +kernel
  have h2 : jetImage.length = 168 := by decide +kernel
  have h4 : up.tiles.any (fun t => t.2.running) = false := by decide +kernel
  intro k hk
  simp only [State.jetChks, h, h1, h4, h2, List.mem_cons, List.not_mem_nil, or_false] at hk
  rcases hk with rfl | rfl | rfl | rfl <;> rfl

theorem test_jetset_request_hypotheses :
    let t := req 0x0103 12 [0x40, 0x4000, 168]
    stands up t { op := 0x0103, who := .pf, plen := 12, masks := [0xFFFF_FFFF, 0xFFFF, 0x1_FFFF] } = true
    ∧ (asked up t).actsOn t = some 0 ∧ (asked up t).readable (cmdAgent t 0) (t.addr 8) (t.w 10) false = true
    ∧ t.addr 8 % 64 = 0 ∧ (asked up t).canRead (cmdAgent t 0) (t.addr 8) (t.w 10) = true := by decide +kernel

/-- Queue 1, a completion queue; queue 0, a submission queue that names it; queue 2, a digest log queue; all of the PF, in host memory. -/
def queued : State :=
  { up with queues := [(0, { st := .active, qtype := 0, log2 := 4, base := 2 ^ 46, cq := 1, dlq := 2, dlv := true }),
                       (1, { st := .active, qtype := 1, log2 := 4, base := 2 ^ 46 + 4096 }),
                       (2, { st := .active, qtype := 2, log2 := 4, base := 2 ^ 46 + 8192 })] }

/-- Q_CREATE of the last queue of the last page with the largest ring, and of a submission queue. -/
def qCreateReq : Taken := req 0x0200 36 [16383, 1 + 4 * 20, 0, 0x4000, 0, 0, 0, 0, 0]
def qSubmReq : Taken := req 0x0200 36 [3, 0 + 4 * 4 + 256 * 3, 0, 0x4000, 1 + 65536 * 2 + 2 ^ 30, 0, 0, 0, 0]

theorem test_queue_create_hypotheses : ∀ t ∈ [qCreateReq, qSubmReq],
    stands queued t { op := 0x0200, who := .part, plen := 36, masks := ctxMasks } = true
    ∧ (∀ k ∈ (asked queued t).ctxChks (ctxQueue t) t.fn 0, k.1 = false) ∧ (queued.part 0).hasPage (t.w 8 / 512) = true
    ∧ queued.pageOwner (t.w 8 / 512) = some t.fn ∧ (queued.queue (t.w 8)).created = false
    ∧ ((ctxQueue t).qtype = 3 → queued.eventQueue t.fn = none) := by decide +kernel

theorem test_queue_modify_hypotheses :
    let t := req 0x0201 36 [0, 0 + 4 * 4 + 256 * 3 + 1024, 0, 0x4000, 1, 0, 0, 0, 0]
    stands queued t { op := 0x0201, who := .part, plen := 36, masks := ctxMasks } = true
    ∧ (∀ k ∈ (asked queued t).ctxChks (ctxQueue t) (queued.queue (t.w 8)).owner 0, k.1 = false)
    ∧ (queued.part 0).hasPage (t.w 8 % 2 ^ 14 / 512) = true ∧ (queued.queue (t.w 8 % 2 ^ 14)).created = true
    ∧ (ctxQueue t).qtype = (queued.queue (t.w 8)).qtype ∧ (ctxQueue t).log2 = (queued.queue (t.w 8)).log2
    ∧ (ctxQueue t).base = (queued.queue (t.w 8)).base
    ∧ ((queued.queue (t.w 8)).qtype = 0 → (asked queued t).running (t.w 8) = false) := by decide +kernel

/-- The submission queue alone, halted. -/
def halted : State := queued.modQueue 0 (fun q => { q with st := .halted })

theorem test_queue_commands_hypotheses :
    (let t := req 0x0202 4 [0]
     stands queued t { op := 0x0202, who := .part, plen := 4, masks := [0x3FFF] } = true
     ∧ (queued.part 0).hasPage (t.w 8 % 2 ^ 14 / 512) = true ∧ (queued.queue (t.w 8 % 2 ^ 14)).created = true
     ∧ (asked queued t).named (t.w 8) = false ∧ (asked queued t).running (t.w 8) = false)
    ∧ (let t := req 0x0203 4 [2]
     stands queued t { op := 0x0203, who := .part, plen := 4, masks := [0x3FFF] } = true
     ∧ (queued.part 0).hasPage (t.w 8 % 2 ^ 14 / 512) = true ∧ (queued.queue (t.w 8 % 2 ^ 14)).created = true)
    ∧ (let t := req 0x0204 4 [0]
     stands halted t { op := 0x0204, who := .part, plen := 4, masks := [0x3FFF] } = true
     ∧ (halted.part 0).hasPage 0 = true ∧ (halted.queue 0).created = true ∧ (halted.queue 0).qtype = 0
     ∧ (halted.queue (t.w 8)).st = .halted)
    ∧ (let t := req 0x0205 4 [0]
     stands queued t { op := 0x0205, who := .part, plen := 4, masks := [0x3FFF] } = true ∧ (queued.queue (t.w 8)).qtype = 0)
    ∧ (let t := req 0x0206 4 [0x4000]
     stands queued t { op := 0x0206, who := .part, plen := 4, masks := [0x7FFF] } = true
     ∧ (queued.part 0).hasPage (t.w 8 % 2 ^ 14 / 512) = true ∧ (queued.queue (t.w 8 % 2 ^ 14)).created = true
     ∧ (queued.queue (t.w 8 % 2 ^ 14)).qtype = 0) := by decide +kernel

theorem test_sync_commands_hypotheses :
    (let t := req 0x0210 12 [0x7FFF, 0xFFFF_FFFF, 0xFFFF_FFFF]
     stands up t { op := 0x0210, who := .part, plen := 12, masks := [0x7FFF, m32, m32] } = true
     ∧ (up.part 0).hasSync (t.w 8 % 2 ^ 15) = true ∧ (asked up t).syncHeld (t.w 8) = false)
    ∧ (let t := req 0x0211 4 [0x7FFF]
     stands up t { op := 0x0211, who := .part, plen := 4, masks := [0x7FFF] } = true ∧ (up.part 0).hasSync (t.w 8 % 2 ^ 15) = true)
    ∧ (let t := req 0x0212 12 [0x7FFF, 1, 0]
     stands up t { op := 0x0212, who := .part, plen := 12, masks := [0x7FFF, m32, m32] } = true
     ∧ (up.part 0).hasSync (t.w 8 % 2 ^ 15) = true)
    ∧ (let t := req 0x0213 12 [0x7FFF, 1, 0]
     stands up t { op := 0x0213, who := .part, plen := 12, masks := [0xFFFF, m32, m32] } = true ∧ (t.w 8).testBit 15 = false
     ∧ (up.part 0).hasSync (t.w 8 % 2 ^ 15) = true)
    ∧ (let t := req 0x0213 12 [0xFFFF, 0, 0]
     stands up t { op := 0x0213, who := .part, plen := 12, masks := [0xFFFF, m32, m32] } = true ∧ (t.w 8).testBit 15 = true
     ∧ (up.part 0).hasSync (t.w 8 % 2 ^ 15) = true ∧ t.w 9 = 0 ∧ t.w 10 = 0) := by decide +kernel

theorem test_slot_commands_hypotheses :
    (let t := req 0x0220 68 [0xFF, 1, 1, 0, 5, 9, 0, 0, 0xFFFF, 0, 0, 0, 0, 0, 0, 0, 0]
     stands up t { op := 0x0220, who := .part, plen := 68, masks :=
        [0xFF, 1, m32, m32, m32, m32, m32, 0xFFFF, 0xFFFF, m32, m32, m32, m32, m32, m32, m32, m32] } = true
     ∧ (up.part 0).hasSlot (t.w 8) = true ∧ ((t.w 16).testBit 15 = true → (up.part 0).hasSync (t.w 16 % 2 ^ 15) = true)
     ∧ (∀ l ∈ up.launches, t.w 8 ∉ l.slots))
    ∧ (let t := req 0x0221 4 [0xFF]
     stands up t { op := 0x0221, who := .part, plen := 4, masks := [0xFF] } = true ∧ (up.part 0).hasSlot (t.w 8) = true) := by
  decide +kernel

/-- MAP of no page, of one page of host memory at the top of the range, and of HBM; the largest number of pages. -/
theorem test_map_hypotheses : ∀ e ∈ [((req 0x0300 20 [0, 0, 0, 0, 0]), 0), ((req 0x0300 20 [0xFFFF_0000, 0x3F, 0x6_0001, 0xFFFF_0000, 0xFFF]), 1),
      ((req 0x0300 20 [0, 0, 0x2_0001, 0, 0]), 1), ((req 0x0300 20 [0, 0, 0x4_1000, 0, 0]), 4096)],
    stands up e.1 { op := 0x0300, who := .part, plen := 20, masks := [m32, 0xFFFF, 0x7_1FFF, m32, 0xFFFF] } = true
    ∧ e.1.w 9 % 65536 < 4096 ∧ ((e.1.w 10).testBit 18 = false → e.1.w 11 = 0 ∧ e.1.w 12 = 0) ∧ mapPages e.1 = e.2
    ∧ mapVa e.1 % mapUnit e.1 = 0 ∧ mapVa e.1 + mapBytes e.1 ≤ 2 ^ 38 ∧ (asked up e.1).rangeMapped 0 (mapVa e.1) (mapBytes e.1) = false
    ∧ ((e.1.w 10).testBit 18 = true → e.1.addr 11 % mapUnit e.1 = 0 ∧ e.1.addr 11 + mapBytes e.1 ≤ 2 ^ 44)
    ∧ ((e.1.w 10).testBit 18 = false →
        ((asked up e.1).framesFor 0 (mapPages e.1) (mapUnit e.1) (mapBig e.1) (mapVa e.1) []).isSome = true) := by decide +kernel

/-- One page of 64 KiB at the top of the range, mapped to host memory. -/
def mapped : State :=
  up.setPart 0 { up.part 0 with pages := [(0x3F_FFFF, some { big := false, wr := true, host := true, addr := 0, fn := 0 })] }

theorem test_unmap_hypotheses :
    (let t := req 0x0301 12 [0, 0, 0]
     stands up t { op := 0x0301, who := .part, plen := 12, masks := [m32, 0xFFFF, 0x1_1FFF] } = true ∧ mapPages t = 0)
    ∧ (let t := req 0x0301 12 [0xFFFF_0000, 0x3F, 1]
     stands mapped t { op := 0x0301, who := .part, plen := 12, masks := [m32, 0xFFFF, 0x1_1FFF] } = true
     ∧ t.w 9 % 65536 < 4096 ∧ mapPages t = 1 ∧ mapVa t % mapUnit t = 0 ∧ mapVa t + mapBytes t = 2 ^ 38
     ∧ (mapped.pageAt 0 (mapVa t)).any (fun g => g.big == mapBig t) = true ∧ (asked mapped t).mapHeld 0 (mapVa t) (mapBytes t) = false)
    ∧ (let t := req 0x0302 8 [0xFFFF_FFFF, 0x3F]
     stands mapped t { op := 0x0302, who := .part, plen := 8, masks := [m32, 0xFFFF] } = true ∧ t.w 9 % 65536 < 4096
     ∧ mapVa t = 2 ^ 38 - 1) := by decide +kernel

theorem test_cst_hypotheses :
    (let t := req 0x0310 24 [3, 131071, 1, 0, 7, 0]
     stands up t { op := 0x0310, who := .part, plen := 16 + 8 * t.w 10, masks := [3, 0x1_FFFF, 0x3FF, 0] } = true
     ∧ t.w 10 ≤ 506 ∧ t.w 9 + t.w 10 = 131072
     ∧ (∀ i, i < t.w 10 → t.w (13 + 2 * i) % 65536 = 0 ∧ (up.part 0).hasCst (t.w 8 % 4) (t.w 9 + i) = true)
     ∧ (up.lock (4 * 256 + t.w 8 % 4)).holder = none
     ∧ (t.w 10 ≠ 0 → up.tiles.any (fun e => e.2.running && e.2.part == 0 && dieOf e.1 == t.w 8 % 4) = false))
    ∧ (let t := req 0x0311 12 [3, 130566, 506]
     stands up t { op := 0x0311, who := .part, plen := 12, masks := [3, 0x1_FFFF, 0x3FF] } = true
     ∧ t.w 10 = 506 ∧ t.w 9 + t.w 10 = 131072 ∧ (∀ i, i < t.w 10 → (up.part 0).hasCst (t.w 8 % 4) (t.w 9 + i) = true)) := by
  decide +kernel

theorem test_link_commands_hypotheses :
    (let t := req 0x0400 4 [0x1F]
     stands up t { op := 0x0400, who := .part, plen := 4, masks := [0x1F] } = true)
    ∧ (∀ a ∈ [0x001F, 0x011F, 0x021F, 0x431F, 0x031F],
      let t := req 0x0401 4 [a]
      stands up t { op := 0x0401, who := .pf, plen := 4, masks := [0x7F1F] } = true
      ∧ (asked up t).lockBusy (2 * 256 + t.w 8 % 32) = false ∧ t.w 8 % 32 = 31) := by decide +kernel

/-- Link 31 ACTIVE, its fifth lane to be spared; the spare of R411 itself; DISABLE, ENABLE and RETRAIN name lane 0. -/
theorem test_link_control_actions :
    (∀ e ∈ [(0x001F, 0, 0), (0x011F, 1, 0), (0x021F, 2, 0), (0x431F, 3, 8), (0x2B1F, 3, 5)],
      bits ((req 0x0401 4 [e.1]).w 8) 8 3 = e.2.1 ∧ bits ((req 0x0401 4 [e.1]).w 8) 11 4 = e.2.2)
    ∧ ({ st := .active } : Link).rx.spare = some 8 ∧ ({ st := .active } : Link).rx.half = false := by decide +kernel

/-- A device with an ID, and a COMM_CREATE descriptor of two members in device memory at address 0. -/
def joined : State :=
  { up with devid := some 5,
            parts := [(0, { up.part 0 with pages := (List.range 18).map (fun i =>
              (i, some { big := false, wr := true, host := false, addr := 65536 * i, fn := 0 })) })],
            hbm := Mem.setBytes [] 0 (wordsBytes [0x434F_4D4D, 7, 2, 0, 65536, 0, 16, 0, 0, 0, 0, 0, 0, 0, 0, 0] ) }

theorem test_fabric_commands_hypotheses :
    (let t := req 0x0410 24 [4095, 1, 0, 0, 1, 3]
     stands up t { op := 0x0410, who := .pf, plen := 16 + 8 * t.w 9, masks := [0xFFF, 0x3FF, 0, 0] } = true
     ∧ t.w 9 ≤ 506 ∧ t.w 8 + t.w 9 = 4096
     ∧ (∀ i, i < t.w 9 → t.w (13 + 2 * i) < 4 ∧ ((t.w (13 + 2 * i)).testBit 0 = true → t.w (12 + 2 * i) ≠ 0)))
    ∧ (let t := req 0x0411 8 [3590, 506]
     stands up t { op := 0x0411, who := .part, plen := 8, masks := [0xFFF, 0x3FF] } = true ∧ t.w 9 = 506 ∧ t.w 8 + t.w 9 = 4096)
    ∧ (let t := req 0x0412 4 [0xFFF]
     stands up t { op := 0x0412, who := .pf, plen := 4, masks := [0xFFF] } = true ∧ up.comms.any (fun c => c.2.isSome) = false)
    ∧ (let t := req 0x0430 16 [0, 0, 16, 0x8000_0000]
     stands joined t { op := 0x0430, who := .pf, plen := 16, masks := [m32, 0xFFFF, 0xFFFF, m32] } = true
     ∧ (asked joined t).actsOn t = some 0 ∧ t.w 9 % 65536 < 4096
     ∧ (asked joined t).allowed (cmdAgent t 0) (t.addr 8) (65536 * t.w 10) true = true
     ∧ t.w 11 ||| (joined.part 0).syncgrp.toNat = (joined.part 0).syncgrp.toNat ∧ t.addr 8 % 65536 = 0) := by decide +kernel

/-- Communicator 255 of two members, forming. -/
def comm2 : Comm :=
  { part := 0, cid := 7, ctimeout := 0, stage := 0, stageLen := 16, members := [(5, 0, 0), (6, 0, 0)], standbys := [], digest := 9,
    own := some 0 }
def withComm : State := { joined with comms := [(255, some comm2)] }

theorem test_communicator_commands_hypotheses :
    (let t := req 0x0421 4 [255]
     stands withComm t { op := 0x0421, who := .part, plen := 4, masks := [0xFF] } = true ∧ (withComm.part 0).hasComm (t.w 8) = true
     ∧ (withComm.comm (t.w 8)).isSome = true ∧ (∀ k ∈ withComm.packets, pType k.words = 6 → False))
    ∧ (let t := req 0x0422 4 [255]
     stands withComm t { op := 0x0422, who := .part, plen := 4, masks := [0xFF] } = true ∧ (withComm.part 0).hasComm (t.w 8) = true
     ∧ withComm.comm (t.w 8) = some comm2) := by decide +kernel

/-- A held lock of tile 255, with a scrub in its queue. -/
def lockedUp : State :=
  up.setLock 255 { holder := some { fn := none, opcode := 0, seq := 0, kind := .maint 255 0 },
                   queue := [{ fn := none, opcode := 0, seq := 0, kind := .maint 255 3 }] }

theorem test_reliability_commands_hypotheses :
    (let t := req 0x0500 8 [0xFFFF, 63]
     stands up t { op := 0x0500, who := .part, plen := 8, masks := [0xFFFF, 0x3F] } = true)
    ∧ (let t := req 0x0502 4 [0x501]
     stands up t { op := 0x0502, who := .part, plen := 4, masks := [0xFFF] } = true
     ∧ resourceOk (t.w 8 / 256 % 16) (t.w 8 % 256) = true)
    ∧ (let t := req 0x0503 8 [255, 3]
     stands lockedUp t { op := 0x0503, who := .pf, plen := 8, masks := [0xFFF, 7] } = true
     ∧ resourceOk (t.w 8 / 256 % 16) (t.w 8 % 256) = true ∧ (offers (t.w 8 / 256 % 16)).contains (t.w 9 % 8) = true
     ∧ (lockedUp.lock (t.w 8)).queue.any (fun a => a.rank == t.w 9 % 8) = true)
    ∧ (let t := req 0x0504 4 [0x88]
     stands up t { op := 0x0504, who := .pf, plen := 4, masks := [0xFF] } = true ∧ t.w 8 % 16 = 8 ∧ t.w 8 / 16 = 8)
    ∧ (let t := req 0x0505 4 [0x21F]
     stands up t { op := 0x0505, who := .part, plen := 4, masks := [0xFFF] } = true
     ∧ resourceOk (t.w 8 / 256 % 16) (t.w 8 % 256) = true) := by decide +kernel

/-- Each activity on a resource that offers it, on a free lock; on a held one with and without ENQ. -/
theorem test_maintenance_commands_hypotheses :
    (∀ e ∈ [(0, 0x107), (1, 0x21F), (2, 0x200), (3, 0x403), (4, 0x501), (4, 0x31F)],
      let t := req 0x0501 8 [e.2, e.1]
      stands up t { op := 0x0501, who := .pf, enq := true, plen := 8, masks := [0xFFF, 7] } = true ∧ t.w 9 % 8 = e.1
      ∧ resourceOk (t.w 8 / 256 % 16) (t.w 8 % 256) = true ∧ (offers (t.w 8 / 256 % 16)).contains e.1 = true
      ∧ ¬ (t.w 8 / 256 % 16 = 5 ∧ t.w 8 % 256 = up.activeIdx) ∧ (asked up t).lockBusy (t.w 8) = false)
    ∧ (∀ f ∈ [0, 1],
      let t := req 0x0501 8 [255, 4] f
      stands lockedUp t { op := 0x0501, who := .pf, enq := true, plen := 8, masks := [0xFFF, 7] } = true
      ∧ (asked lockedUp t).lockBusy (t.w 8) = true ∧ t.enq = (f == 1)
      ∧ (lockedUp.lock (t.w 8)).queue.any (fun x => x.rank == 4) = false) := by decide +kernel

theorem test_telemetry_commands_hypotheses :
    (let t := req 0x0600 12 [255 + 65536 * 8, 1 + 65536 * 2, 0x1_007F]
     stands up t { op := 0x0600, who := .part, plen := 12, masks := [0xFF_FFFF, 0x3_FFFF, 0x1_FFFF] } = true
     ∧ unitOk (t.w 8 % 65536) = true ∧ 1 ≤ bits (t.w 8) 16 8 ∧ bits (t.w 8) 16 8 = unitCtrs (t.w 8 % 65536 / 4096)
     ∧ bits (t.w 9) 16 2 < 3 ∧ eventMask (t.w 9 % 65536) = some 0x7F ∧ t.w 9 % 65536 / 4096 = t.w 8 % 65536 / 4096
     ∧ t.w 10 % 256 ||| 0x7F = 0x7F ∧ ((t.w 10).testBit 16 = true → t.w 8 % 65536 / 4096 = 0)
     ∧ up.mayRead 0 0 (t.w 8 % 65536) = true)
    ∧ (let t := req 0x0601 12 [0, 0, 0]
     stands up t { op := 0x0601, who := .part, plen := 12, masks := [m32, 0xFFFF, m32] } = true ∧ t.w 10 = 0)
    ∧ (let t := req 0x0601 12 [0, 0, 0x10_0000]
     stands joined t { op := 0x0601, who := .part, plen := 12, masks := [m32, 0xFFFF, m32] } = true
     ∧ daSpace (t.addr 8) = 0 ∧ t.addr 8 % 64 = 0
     ∧ 64 + 16 * ((joined.readUnits 0 0).map (fun u => unitCtrs (u / 4096) + 1)).sum ≤ t.w 10
     ∧ (asked joined t).readable (cmdAgent t 0) (t.addr 8)
         (64 + 16 * ((joined.readUnits 0 0).map (fun u => unitCtrs (u / 4096) + 1)).sum) true = true)
    ∧ (∀ lt ∈ [0x1FF, 255],
      let t := req 0x0602 16 [lt, 224, 1, 16]
      stands up t { op := 0x0602, who := .part, plen := 16, masks := [0x1FF, 0xFF, 0xFFFF, m32] } = true
      ∧ t.w 10 / 4096 = 0 ∧ (eventMask (t.w 10)).isSome = true ∧ (t.w 8 = 0x1FF ∨ t.w 8 < (up.part 0).count) ∧ t.w 9 = 224
      ∧ t.w 11 = 16 ∧ (up.sampled 0 (t.w 8)).all (fun ph => !(asked up t).launchOn ph) = true)
    ∧ (let t := req 0x0603 12 [31, 7 + 256 * 7, 40]
     stands up t { op := 0x0603, who := .part, plen := 12, masks := [0x1F, 0xFFFF, 0x3F] } = true
     ∧ histQual (t.w 9 % 256) = some 7 ∧ t.w 9 / 256 ≤ 7 ∧ t.w 10 = 40)
    ∧ (let t := req 0x0604 4 [63]
     stands up t { op := 0x0604, who := .part, plen := 4, masks := [0x3F] } = true) := by decide +kernel

theorem test_snapshot_in_host_memory :
    let t := req 0x0601 12 [0, 0x4000, 0xFFFF_FFFF]
    stands up t { op := 0x0601, who := .part, plen := 12, masks := [m32, 0xFFFF, m32] } = true ∧ daSpace (t.addr 8) = 4
    ∧ (asked up t).readable (cmdAgent t 0) (t.addr 8)
        (64 + 16 * ((up.readUnits 0 0).map (fun u => unitCtrs (u / 4096) + 1)).sum) true = true := by decide +kernel

/-! Signatures: with r, s and the hash equal to the abscissa of G + Q, both scalars of the verification are 1. -/

def beBytes (n : Nat) : List Byte := (leBytes 48 n).reverse
def sigE : Nat := 0x141be8f77c2fbe1beea252e8f4a94d83a760d67d39ce0a894e574400a9016c8e07f79a584a1edbdf079d8ca503b392a0
def sigKey : List Byte :=
  beBytes 0x5e362c5e60d816eb37799a4aecb974970cbff32d24c969932a8754635ea5320b8d5f262a785f8707f701157f673cdad
  ++ beBytes 0x2e50e55a978e14b430af5f54b3f1dd78bee92768d7d30b49e49e0872922049b756cdabe9c9d9522ba5e9a38d61896423
def sig : List Byte := beBytes sigE ++ beBytes sigE
def revokeReq : Taken := req 0x0711 100 (3 :: bytesWords 24 sig)
def owned : State := { up with flash := { up.flash with keys := [some sigKey, none, none, none] } }

theorem test_owner_key_revoke_hypotheses :
    stands owned revokeReq { op := 0x0711, who := .pf, plen := 100, masks := 15 :: List.replicate 24 m32 } = true
    ∧ owned.boot.secDamaged = false ∧ owned.authOk revokeReq 1 9 = true := by decide +kernel

def nonceE : Nat := 0x563d8b79225194d63c90b4837eb9fdfde037fb36fa9c2a5859d4624897653fe270f9c258d42e2e375ea6ae76004a6395
def nonceKey : List Byte :=
  beBytes 0x823278d08b255e819e4e971890ddbc66e4f07a432a3537f8a5938b436898566094c9b8c31c9d135e57ccdd8b093cc1f5
  ++ beBytes 0x1cd81eaed045a50071aaacf1d52dc320ffeabb45b3b29ad8c9cbbd58ed0e7764a204d6bd2e2d681f1257bbff07b05c3
def unlockReq : Taken := req 0x0901 100 (3 :: bytesWords 24 (beBytes nonceE ++ beBytes nonceE))
def challenged : State :=
  { up with flash := { up.flash with keys := [none, none, none, some nonceKey] }, sec := { nonce := some (List.replicate 32 0) } }

theorem test_debug_unlock_hypotheses :
    stands challenged unlockReq { op := 0x0901, who := .pf, plen := 100, masks := 3 :: List.replicate 24 m32 } = true
    ∧ challenged.ownerKey (unlockReq.w 8) = some nonceKey ∧ challenged.sec.nonce = some (List.replicate 32 0)
    ∧ ecdsaVerify nonceKey (wordsBytes (unlockReq.ws 9 24)) (List.replicate 32 0 ++ leBytes 8 challenged.fuses.serial.toNat) = true := by
  decide +kernel

theorem test_security_commands_hypotheses :
    (let t := req 0x0700 32 [1, 2, 3, 4, 5, 6, 7, 0xFFFF_FFFF]
     stands up t { op := 0x0700, who := .part, plen := 32, masks := List.replicate 8 m32 } = true)
    ∧ (let t := req 0x0701 8 [0xFFFF, 4060]
     stands up t { op := 0x0701, who := .part, plen := 8, masks := [0xFFFF, 0xFFF] } = true ∧ t.w 9 = 4060)
    ∧ (let t := req 0x0710 196 (3 :: List.replicate 24 9 ++ List.replicate 24 0)
     stands up t { op := 0x0710, who := .pf, plen := 196, masks := 15 :: List.replicate 48 m32 } = true
     ∧ up.boot.secDamaged = false ∧ up.flash.keys.getD (t.w 8 % 4) none = none ∧ up.noOwner = true ∧ ∀ v ∈ t.ws 33 24, v = 0)
    ∧ (let t := req 0x0720 12 [0, 0x4000, 1]
     stands up t { op := 0x0720, who := .pf, plen := 12, masks := [m32, 0xFFFF, m32] } = true ∧ (asked up t).actsOn t = some 0
     ∧ t.w 10 = 1 ∧ (asked up t).canRead (cmdAgent t 0) (t.addr 8) (t.w 10) = true)
    ∧ (let t := req 0x0720 12 [0, 0x4000, 0]
     stands up t { op := 0x0720, who := .pf, plen := 12, masks := [m32, 0xFFFF, m32] } = true ∧ t.w 10 = 0)
    ∧ (let t := req 0x0720 12 [0, 0x4000, 12 * 2 ^ 20]
     stands up t { op := 0x0720, who := .pf, plen := 12, masks := [m32, 0xFFFF, m32] } = true ∧ t.w 10 = 12 * 2 ^ 20
     ∧ (asked up t).canRead (cmdAgent t 0) (t.addr 8) (t.w 10) = true)
    ∧ (let t := req 0x0721 4 [1]
     stands up t { op := 0x0721, who := .pf, plen := 4, masks := [1] } = true) := by decide +kernel

/-- Debug unlocked, trace strap set, tile 255 running. -/
def debugging : State :=
  { up.setTile 255 { running := true } with
    sec := { unlocked := true }, boot := { up.boot with straps := { up.boot.straps with tracesel := true } } }

theorem test_debug_commands_hypotheses :
    (stands up (req 0x0900 0 []) { op := 0x0900, who := .pf, plen := 0 } = true)
    ∧ (∀ e ∈ [(0, 0x0FF), (0, 0x31F), (0, 0x403), (0, 0x501), (3, 0x21F), (1, 0x0FF), (2, 0x0FF), (4, 0x501), (5, 0x107)],
      let t := req 0x0902 16 [e.2, e.1, 0, 0]
      stands debugging t { op := 0x0902, who := .pfDebug, plen := 16, masks := [0xFFF, 15, m32, 0xFFFF] } = true
      ∧ resourceOk (t.w 8 / 256 % 16) (t.w 8 % 256) = true ∧ t.w 9 = e.1)
    ∧ (debugging.tile 255).running = true ∧ (debugging.tile 255).stopped = false
    ∧ (∀ tile ∈ [({ } : Tile), { stopped := true }],
      stands (debugging.setTile 254 tile) (req 0x0902 16 [254, 2, 0, 0]) { op := 0x0902, who := .pfDebug, plen := 16, masks := [0xFFF, 15, m32, 0xFFFF] }
        = true ∧ ((debugging.setTile 254 tile).tile 254).running = false ∧ ((debugging.setTile 254 tile).tile 254).stopped = tile.stopped)
    ∧ (let t := req 0x0903 8 [1, 0xFFFF_FFFF]
     stands debugging t { op := 0x0903, who := .pfDebug, plen := 8, masks := [1, m32] } = true
     ∧ debugging.boot.straps.tracesel = true)
    ∧ (stands up (req 0x0904 0 []) { op := 0x0904, who := .pf, plen := 0 } = true) := by decide +kernel

/-- Pinned at point 7; a full second of samples. -/
def pinned : State := { up with weir := { up.weir with opp := 7, pinned := true, samples := List.replicate 1000 2000 } }

theorem test_power_commands_hypotheses :
    (stands up (req 0x0800 0 []) { op := 0x0800, who := .part, plen := 0 } = true)
    ∧ (∀ p ∈ [0, 7],
      stands up (req 0x0801 4 [p]) { op := 0x0801, who := .pf, plen := 4, masks := [0x1F] } = true ∧ (req 0x0801 4 [p]).w 8 = p
      ∧ (oppOf p).pmax ≤ up.weir.cap ∧ (∀ l ∈ up.weir.td, l = 0) ∧ (∀ e ∈ up.weir.emergency, e = false)
      ∧ (∀ m ∈ up.weir.mute, m = false) ∧ ¬ (up.weir.pinned = true ∧ up.weir.opp = p))
    ∧ (stands pinned (req 0x0801 4 [7]) { op := 0x0801, who := .pf, plen := 4, masks := [0x1F] } = true
      ∧ pinned.weir.pinned = true ∧ pinned.weir.opp = 7 ∧ (oppOf 7).pmax ≤ pinned.weir.cap)
    ∧ (stands pinned (req 0x0801 4 [16]) { op := 0x0801, who := .pf, plen := 4, masks := [0x1F] } = true)
    ∧ (∀ w ∈ [600, 1400], stands up (req 0x0802 4 [w]) { op := 0x0802, who := .pf, plen := 4, masks := [0x7FF] } = true
      ∧ (req 0x0802 4 [w]).w 8 = w)
    ∧ (oppOf up.weir.opp).pmax ≤ 1400 ∧ 600 < (oppOf up.weir.opp).pmax
    ∧ (stands pinned (req 0x0803 0 []) { op := 0x0803, who := .part, plen := 0 } = true
      ∧ 100 ≤ pinned.weir.samples.length ∧ pinned.weir.samples.max? = some 2000) := by decide +kernel

/-- A descriptor of two devices in the first bytes of the partition's memory. -/
def commDesc : List Byte := wordsBytes [0x434F_4D4D, 7, 2, 0, 65536, 0, 16, 0, 0, 0, 0, 0, 0, 0, 0, 0, 5 + 0xFFF * 4096 + 0x7F * 2 ^ 24, 6 + 0x7F * 2 ^ 24]
def described : State := { joined with hbm := Mem.setBytes [] 0 commDesc }

theorem test_comm_create_hypotheses :
    let t := req 0x0420 16 [255, 0, 0, 72]
    stands described t { op := 0x0420, who := .part, plen := 16, masks := [0xFF, m32, 0xFFFF, 0xFFFF] } = true
    ∧ (described.part 0).hasComm (t.w 8) = true ∧ (asked described t).readable (cmdAgent t 0) (t.addr 9) (t.w 11) false = true
    ∧ (asked described t).canRead (cmdAgent t 0) (t.addr 9) (t.w 11) = true
    ∧ (match (asked described t).load (cmdAgent t 0) (t.addr 9) (t.w 11) with
        | .ok (_, b) => b == commDesc && ((asked described t).commChks t 0 b).all (fun k => !k.1)
        | .error _ => false) = true := by decide +kernel

/-! ### Witnesses: the mailbox protocol, queues and packets -/

/-- The PF's mailbox with a request submitted, not taken; its page names DEV_IDENTIFY. -/
def submitted : State :=
  { up with gos := [0], funcs := [(0, { present := true, bound := some 0, mse := true, bme := true,
                                        mbx := { ready := true, busy := true, seq := 5, req := Mem.setBytes [] 0 [0x00, 0x01] } })] }

theorem test_mailbox_handshake_hypotheses :
    (up.func 0).present = true ∧ (up.func 0).mse = true ∧ (up.func 0).mbx.busy = false ∧ (up.func 0).mbx.ready = true
    ∧ (0x1_0005 : BitVec 32).toNat.testBit 16 = true ∧ (0x1_0005 : BitVec 32).toNat.testBit 17 = false
    ∧ (submitted.func 0).mbx.busy = true ∧ (submitted.func 0).mbx.taken = false
    ∧ (0x2_0005 : BitVec 32).toNat.testBit 17 = true ∧ (0x2_0005 : BitVec 32).toNat.testBit 16 = false
    ∧ submitted.live = true ∧ submitted.gos = [0]
    ∧ (0x3_0005 : BitVec 32).toNat.testBit 17 = true ∧ (0x3_0005 : BitVec 32).toNat.testBit 16 = true
    ∧ ((submitted.func 0).mbx.req.word 0 0, knownOpcode 0x0100, knownOpcode 0x0105) = (0x0100, true, false) := by decide +kernel

/-- A DISABLE of link 31 under way, whose link stands DISABLED; a staging of a bank. -/
def ending : State :=
  { up with acts := [{ fn := some 0, opcode := 0x0401, seq := 1, kind := .link 31 0 0 }, { fn := some 0, opcode := 0x0720, seq := 2, kind := .stage true [1] }] }

theorem test_deferred_end_hypotheses : ending.live = true
    ∧ ending.acts[0]? = some { fn := some 0, opcode := 0x0401, seq := 1, kind := .link 31 0 0 }
    ∧ linkActionEnd (ending.link 31) 0 0 = some stOk
    ∧ ending.acts[1]? = some { fn := some 0, opcode := 0x0720, seq := 2, kind := .stage true [1] } := by decide +kernel

/-- Entries of a SYNC_SIGNAL and a SYNC_WAIT, ready in the ring of queue 0; the second has been fetched. -/
def ringed : State :=
  queued.modQueue 0 (fun q => { q with hostIdx := 1, bells := [0], fetched := [(0, [4, 0, 0, 0, 1, 1, 0, 5] ++ List.replicate 8 0, 0)] })

theorem test_queue_manager_hypotheses :
    ringed.live = true ∧ ringed.pageOwner (0 / 512) = some 0 ∧ up.pageOwner (16383 / 512) = some 0 ∧ ringed.turnOf 0 = true
    ∧ ringed.canRead (State.ringAgent ringed (ringed.queue 0)) ((ringed.queue 0).entry (ringed.queue 0).devIdx) 64 = true
    ∧ (ringed.queue 0).fetched = [(0, [4, 0, 0, 0, 1, 1, 0, 5] ++ List.replicate 8 0, 0)] ∧ ringed.dispatchable 0 = true
    ∧ ringed.packets.length < 1024 ∧ (∀ e ∈ ringed.queues, e.2.prio ≤ (ringed.queue 0).prio ∨ ringed.dispatchable e.1 = false)
    ∧ definedPacket ([4, 0, 0, 0, 1, 1, 0, 5] ++ List.replicate 8 0) = true
    ∧ definedPacket [9] = true ∧ definedPacket [10] = false ∧ definedPacket [6, 0, 0, 0, 6 * 256] = true
    ∧ definedPacket [6, 0, 0, 0, 7 * 256] = false := by decide +kernel

/-- A doorbell value that R305 accepts: of the queue's index range, and within the ring of what the device has. -/
def soundBell (c : Queue) (v : Nat) : Bool :=
  let n := v % 2 ^ 21
  c.created && bits v 21 11 == 0 && bits v 53 11 == 0 && decide (n < 2 * c.size)
    && decide ((if c.qtype = 0 then c.dist n c.devIdx else c.dist c.devIdx n) ≤ c.size)

/-- New entries, as many as the ring holds; as many records; the index again; one too many; an index that the ring does not have. -/
theorem test_doorbell_hypotheses :
    soundBell (queued.queue 0) 16 = true ∧ (queued.queue 0).qtype = 0 ∧ (queued.queue 0).hostIdx = 0
    ∧ (let c := (queued.modQueue 1 (fun q => { q with devIdx := 16 })).queue 1
     soundBell c 16 = true ∧ c.qtype ≠ 0 ∧ c.hostIdx ≠ 16 ∧ c.waiting = [] ∧ c.lost = 0)
    ∧ soundBell (queued.queue 0) 0 = true ∧ soundBell (queued.queue 0) 17 = false ∧ soundBell (queued.queue 0) 32 = false
    ∧ queued.eventQueue 0 = none := by decide +kernel

/-- A packet of queue 0 that firmware works on next. -/
def pk (ws : List Nat) (w : PWork := .inbox) : Packet := { queue := 0, seq := 0, words := ws, tdisp := 0, work := w }
def front (s : State) (ws : List Nat) (w : PWork := .inbox) : State := { s with packets := [pk ws w] }
/-- A completion queue with unreported records and a vector. -/
def unreported : State := queued.modQueue 1 (fun q => { q with vecv := true, coaltime := 0xFFFF, unrep := 1 })

theorem test_packet_end_hypotheses :
    (front queued [5] .done).packet? 0 0 = some (pk [5] .done) ∧ pSig [5] = false ∧ (front queued [5] .done).launchEnded (pk [5] .done) = none
    ∧ (unreported.queue 1).created = true ∧ (unreported.queue 1).vecv = true ∧ (unreported.queue 1).qtype ≠ 0
    ∧ (unreported.queue 1).coaltime ≠ 0 ∧ (unreported.queue 1).unrep ≠ 0 := by decide +kernel

theorem test_simple_packets_hypotheses :
    (let p := pk [3, 0, 0, 0, 0x7FFF, 1, 0]
     (front queued p.words).presents p 3 = true ∧ withinMasks p.words [0x7FF, m32, 0x7FFF, m32, 0x0FFF_FFFF, m32, m32] = true
     ∧ (word p.words 4).testBit 15 = false ∧ bits (word p.words 4) 16 12 = 0 ∧ (queued.part 0).hasSync (word p.words 4 % 2 ^ 15) = true)
    ∧ (let p := pk [3, 0, 0, 0, 0x0FFF_FFFF, 1, 0]
     (front joined p.words).presents p 3 = true ∧ withinMasks p.words [0x7FF, m32, 0x7FFF, m32, 0x0FFF_FFFF, m32, m32] = true
     ∧ (word p.words 4).testBit 15 = true ∧ (front joined p.words).canRequest (bits (word p.words 4) 16 12) = true)
    ∧ (let p := pk [4, 0, 0, 0, 0x7FFF, 1, 0, 1]
     (front queued p.words).presents p 4 = true
     ∧ withinMasks p.words [0x7FF, m32, 0x7FFF, m32, 0x7FFF, m32, m32, m32] = true
     ∧ (queued.part 0).hasSync (word p.words 4 % 2 ^ 15) = true
     ∧ (front queued p.words (.wait 0x7FFF 1)).packet? 0 0 = some (pk p.words (.wait 0x7FFF 1)) ∧ word p.words 7 ≠ 0)
    ∧ (let p := pk [5, 0, 0, 0]
     (front queued p.words).presents p 5 = true ∧ withinMasks p.words [0x7FF, m32, 0x7FFF, m32] = true)
    ∧ (let p := pk [7, 0, 0, 0, 1, 2]
     (front queued p.words).presents p 7 = true ∧ withinMasks p.words [0x7FF, m32, 0x7FFF, m32, m32, m32] = true
     ∧ (queued.queue 0).dlv = true)
    ∧ (∀ n ∈ [0, 1, 0xFFFF],
     let p := pk [2, 0, 0, 0, 0x1FFF - 2 ^ 11, 0, 0x4000, n]
     (front queued p.words).presents p 2 = true
     ∧ withinMasks p.words [0x7FF, m32, 0x7FFF, m32, 0x1FFF, m32, 0xFFFF, 0xFFFF] = true
     ∧ (queued.part 0).hasEngine (word p.words 4 % 32) = true
     ∧ (front queued p.words).readable { part := 0, fn := 0 } (addr48 p.words 5) (64 * word p.words 7) false = true
     ∧ addr48 p.words 5 % 64 = 0 ∧ queued.rel.sluiceOut.contains (word p.words 4 % 32) = false) := by decide +kernel

/-- A kernel binary of one instruction for one tile, 256 arguments bytes, in the partition's memory. -/
def kernelHeader : List Nat := [0x4B4E_4C42, 1, 0, 1, 64, 1, 0, 0, 0, 0, 0, 0, 0, 0, 0, 0]
def withKernel : State := { joined with queues := queued.queues, hbm := Mem.setBytes [] 0 (wordsBytes kernelHeader) }
/-- A launch of it, without and with one slot of its list. -/
def launchWords : List Nat := [1, 0, 0, 0, 0, 0, 0, 0, 0, 0, 0, 0, 0, 0, 1, 0]
def batchWords : List Nat := [1, 0, 0, 0, 0, 0, 0, 0, 0, 0, 0, 1, 4096, 0, 1, 0]
def slotted : State := { withKernel with slots := [(0, { active := true })] }

theorem test_launch_packet_hypotheses :
    (let s := front withKernel launchWords
     s.presents (pk launchWords) 1 = true ∧ withinMasks launchWords State.launchMasks = true
     ∧ s.readable { part := 0, fn := 0 } (addr48 launchWords 4) 64 false = true
     ∧ (match s.load { part := 0, fn := 0 } 0 64 with
        | .ok (s1, hb) => bytesWords 16 hb == kernelHeader && s1.headerStatus 0 kernelHeader == stOk
            && s1.slotStatus 0 kernelHeader 0 [] == stOk && s1.addressStatus { part := 0, fn := 0 } launchWords kernelHeader == stOk
        | .error _ => false) = true)
    ∧ (let s := front slotted batchWords
     s.presents (pk batchWords) 1 = true ∧ withinMasks batchWords State.launchMasks = true ∧ word batchWords 11 % 512 = 1
     ∧ s.readable { part := 0, fn := 0 } (addr48 batchWords 12) 1 false = true
     ∧ (match s.load { part := 0, fn := 0 } 0 64 with
        | .ok (s1, _) => (match s1.load { part := 0, fn := 0 } 4096 1 with
            | .ok (s2, lb) => lb == [0] && s2.slotStatus 0 kernelHeader 0 [0] == stOk
                && s2.addressStatus { part := 0, fn := 0 } batchWords kernelHeader == stOk
            | .error _ => false)
        | .error _ => false) = true) := by decide +kernel

/-- The launch that validation makes of it, and one that runs on tile 0. -/
def launch0 : Launch :=
  { queue := 0, seq := 0, part := 0, fn := 0, nltile := 1, binaddr := 0, codeoff := 64, ninstr := 1, argdst := 0, arglen := 0,
    argaddr := 0, dataoff := 0, datalen := 0, datadst := 0, auxdem := 0, nsaddr := 0, mode := 0, slots := [], adv := 0, ltimeout := 1,
    usertag := 0, words := launchWords }
def launching : State := { front withKernel launchWords .launch with launches := [launch0] }
def running0 : Tile := { running := true, ninstr := 1, code := [(0, 0x26)], steps := [{ num := 0 }] }
def running : State := { (launching.setTile 0 running0) with launches := [{ launch0 with ph := .running, started := true }] }
def ended : State := { (launching.setTile 0 { running0 with steps := [], ended := true }) with launches := [{ launch0 with ph := .running, started := true }] }

theorem test_launch_hypotheses :
    launching.launch? 0 0 = some launch0 ∧ launching.tilesFree 0 = true ∧ (launching.dropDue 0).startable launch0 = true
    ∧ launch0.restore = none
    ∧ (running.launch? 0 0).any (fun l => l.ph == .running && l.ltimeout != 0 && !l.collected) = true
    ∧ (∀ l ∈ ended.launches, l.collected = false ∧ ended.launchDone l = true)
    ∧ (launching.live && withKernel.live) = true := by decide +kernel

/-- Its code is the END of the statement on starts; tile 0 is the one tile of it. -/
def coded : State := { launching with hbm := Mem.setBytes [] 0 (wordsBytes (kernelHeader ++ [0x26, 0, 0, 0])) }
theorem test_start_hypotheses :
    coded.live = true ∧ coded.launch? 0 0 = some launch0 ∧ coded.rel.dueTiles = [] ∧ coded.startable launch0 = true ∧ launch0.restore = none
    ∧ coded.tilesOf 0 1 = [0] ∧ coded.rel.cstOut = [] ∧ 0 < launch0.ninstr
    ∧ (match coded.load { part := 0, fn := 0 } 64 16 with
        | .ok (s1, b) => definedInstr (SMap.get 0 (codeOf b) 0) && (match s1.load { part := 0, fn := 0 } 0 0 with
            | .ok (s2, _) => (s2.load { part := 0, fn := 0 } 0 0).isOk
            | .error _ => false)
        | .error _ => false) = true
    ∧ ([] : List (List Byte)).any (fun r => (ended.queue 0).dlv && ended.held 0 r) = false := by decide +kernel

/-! ### Witnesses: context switch, collectives, quires, tiles -/

/-- A CONTEXT_SAVE of queue 0 with the room that its running launch needs. -/
def saveWords : List Nat := [8, 0, 0, 0, 0, 0, 0, 273]
def saving : State := { running with packets := [pk launchWords .launch, { pk saveWords with seq := 1 }] }

theorem test_context_save_hypotheses :
    saving.presents { pk saveWords with seq := 1 } 8 = true ∧ withinMasks saveWords [0x7FF, m32, 0x7FFF, m32, 0x7FFF, m32, 0xFFFF, m32] = true
    ∧ saving.launches.find? (fun l => l.queue == word saveWords 4 % 2 ^ 14 && (l.ph == .running || (l.ph == .ended && l.started))) = some { launch0 with ph := .running, started := true }
    ∧ daSpace (addr48 saveWords 5) = 0 ∧ addr48 saveWords 5 % 4096 = 0 ∧ ctxSize launch0 false ≤ 4096 * word saveWords 7
    ∧ saving.allowed { part := 0, fn := 0 } 0 (ctxSize launch0 false) true = true
    ∧ (saving.queue 0).created = true ∧ saving.queuePart 0 = 0 ∧ (saving.queue 0).qtype = 0 := by decide +kernel

/-- The tile asked to stop, its launch being saved. -/
def stopping : State :=
  { saving.setTile 0 { running0 with preempt := true } with
    launches := [{ launch0 with ph := .running, started := true, saving := some (0, 1) }] }

theorem test_preempt_boundary_hypotheses :
    stopping.live = true ∧ (stopping.tile 0).running = true ∧ (stopping.tile 0).preempt = true ∧ (stopping.tile 0).parked = false
    ∧ (stopping.tile 0).stopped = false ∧ (∀ x ∈ (stopping.tile 0).steps, x.sent = false)
    ∧ (stopping.setTile 0 { stopping.cutInside 0 0 with parked := true, wait := none }).runningOf (stopping.tile 0).part
        = some { launch0 with ph := .running, started := true, saving := some (0, 1) } := by decide +kernel

/-- A save area of one page that names its Basin, with its CRC, and the launch it belongs to. -/
def areaWords : List Nat := [0x4354_5853, 1, 2 ^ 18, 1, 0, 0, 1, 0x100, 0, 0, 0x4DE2_26A9, 0x3E37_B074]
def restoreWords : List Nat := [9, 0, 0, 0, 0, 0, 0, 1]
def suspended : State :=
  { joined with queues := SMap.set {} queued.queues 0 { queued.queue 0 with st := .suspended }, hbm := Mem.setBytes [] 0 (wordsBytes areaWords),
                launches := [{ launch0 with ph := .suspended }], packets := [{ pk restoreWords with seq := 1 }] }

/-- Bytes past every listed one are zero. -/
theorem bytes_past (m : Mem) (n k : Nat) (h : ∀ c ∈ m, c.1 < n) : m.bytes n k = List.replicate k 0 := by
  have hz : ∀ i, Mem.byte m (n + i) = 0 := by
    intro i
    induction m with
    | nil => rfl
    | cons c m ih =>
      have hc := h c (by simp)
      have hm := ih (fun x hx => h x (by simp [hx]))
      unfold Mem.byte SMap.get
      rw [if_neg (by omega), if_neg (by omega)]
      exact hm
  unfold Mem.bytes
  rw [show (fun i => Mem.byte m (n + i)) = fun _ => 0 from funext hz]
  simp [List.map_const']

theorem bytes_split (m : Mem) (a n k : Nat) : m.bytes a (n + k) = m.bytes a n ++ m.bytes (a + n) k := by
  unfold Mem.bytes
  rw [List.range_add, List.map_append, List.map_map]
  congr 1
  apply List.map_congr_left
  intro i _
  simp [Nat.add_assoc]

/-- The CRC again, evaluated byte by byte. -/
def forced (n : Nat) (k : Nat → Nat) : Nat := match n with | 0 => k 0 | m + 1 => k (m + 1)
def crcForced : List Byte → Nat → Nat
  | [], c => c
  | b :: bs, c => forced (crc64Shift 8 (c ^^^ (b.toNat * 2 ^ 56))) (crcForced bs)

theorem crcForced_eq (bs : List Byte) : ∀ c, crc64 c bs = crcForced bs c := by
  induction bs with
  | nil => intro c; rfl
  | cons b bs ih =>
    intro c
    have hf : ∀ n k, forced n k = k n := by intro n k; cases n <;> rfl
    rw [crcForced, hf, ← ih]; rfl

def area0 : List Byte := wordsBytes areaWords ++ List.replicate 4048 0

theorem test_area_crc : crc64 0 (area0.take 40 ++ List.replicate 8 0 ++ area0.drop 48) = leNat ((area0.drop 40).take 8) := by
  rw [crcForced_eq]
  decide +kernel

theorem test_area_read : suspended.ctxArea { part := 0, fn := 0 } 0 4096 = .ok (suspended, area0) := by
  have hp : suspended.places { part := 0, fn := 0 } 0 4096 false = some [(.hbm 0, 4096)] := by decide +kernel
  have hb : State.barOf suspended.readBar [(.hbm 0, 4096)] = none := by decide +kernel
  have hl : suspended.load { part := 0, fn := 0 } 0 4096 = .ok (suspended, area0) := by
    have hz : suspended.hbm.bytes 48 4048 = List.replicate 4048 0 := bytes_past _ _ _ (by decide +kernel)
    have hw : suspended.hbm.bytes 0 48 = wordsBytes areaWords := by decide +kernel
    have hs := bytes_split suspended.hbm 0 48 4048
    rw [hw, Nat.zero_add, hz] at hs
    have hf : suspended.fetchAll [(.hbm 0, 4096)] = (suspended, suspended.hbm.bytes 0 4096) := by
      have hc : suspended.countHbm 1 0 4096 = suspended := by decide +kernel
      simp [State.fetchAll, State.fetch, hc]
    unfold State.load
    simp only [hp, hb, hf]
    rw [hs]; rfl
  have hn : Nat.min 4096 (4096 + leNat ((area0.drop (4 * 3)).take 4) % 512 * leNat ((area0.drop (4 * 9)).take 4)) = 4096 := by decide +kernel
  unfold State.ctxArea
  simp only [hl, hn]

theorem test_area_valid : suspended.ctxValid 0 area0 = true := by
  unfold State.ctxValid
  rw [test_area_crc]
  decide +kernel

theorem test_context_restore_hypotheses :
    suspended.presents { pk restoreWords with seq := 1 } 9 = true
    ∧ withinMasks restoreWords [0x7FF, m32, 0x7FFF, m32, 0, m32, 0xFFFF, m32] = true
    ∧ daSpace (addr48 restoreWords 5) = 0 ∧ addr48 restoreWords 5 % 4096 = 0 ∧ 4096 * word restoreWords 7 ≠ 0
    ∧ suspended.allowed { part := 0, fn := 0 } 0 4096 false = true
    ∧ suspended.suspendedOf (2 ^ 18 % 2 ^ 14) = some { launch0 with ph := .suspended }
    ∧ leNat ((area0.drop 8).take 4) = 2 ^ 18 := by decide +kernel

/-- The PF's device as rank 0 of a READY communicator whose staging holds a chunk; row state 0 of tile 0 bound, a descriptor of it in its Basin. -/
def ready : State :=
  { joined with comms := [(255, some { comm2 with stageLen := 17, st := .ready })], queues := queued.queues,
                tiles := [(0, { rows := [(0, { bound := true })], basin := Mem.setBytes [] 0 (wordsBytes [512, 1, 0, 0]),
                                groups := [(0, { base := 0, rows := 2, cols := 1, st := .openG })] })] }
/-- A COLLECTIVE by operation, root, addresses and count. -/
def collWords (op root src dst count : Nat) : List Nat :=
  [6, 0, 0, 0, 255 + 256 * op + 4096 * root, src % 2 ^ 32, src / 2 ^ 32, dst % 2 ^ 32, dst / 2 ^ 32, count]

/-- Each operation: operation, root, addresses and count; sums into HBM, and of rank 0 into two slots of an OPEN group. -/
def collCases : List (Nat × Nat × Nat × Nat × Nat) :=
  [(0, 0, 0, 0, 1), (0, 0, 0, 2 ^ 45 + 2 ^ 43, 2), (1, 0, 0, 0x8000, 1), (1, 1, 0, 0, 1), (2, 0, 0, 0x8000, 3), (3, 0, 0, 0x8000, 1), (4, 0, 0, 0x8000, 2),
   (5, 0, 0, 0, 0), (6, 0, 2 ^ 44 + 2 ^ 43, 2 ^ 44 + 2 ^ 43, 2)]

/-- What the statement asks of a COLLECTIVE, for one of these. -/
def collMet (e : Nat × Nat × Nat × Nat × Nat) : Bool :=
    let s := front ready (collWords e.1 e.2.1 e.2.2.1 e.2.2.2.1 e.2.2.2.2)
    let p := pk (collWords e.1 e.2.1 e.2.2.1 e.2.2.2.1 e.2.2.2.2)
    let op := e.1
    let a : Agent := { part := 0, fn := 0 }
    let src := addr48 p.words 5
    let dst := addr48 p.words 7
    let ext := State.collExtents op e.2.2.2.2 2 0 e.2.1
    let useDst : Bool := ext.2 != 0 && !(op == 2 && dst == 0)
    s.presents p 6 && bits (word p.words 4) 8 4 == op
    && withinMasks p.words [0x7FF, m32, 0x7FFF, m32, 0x00FF_FFFF, m32, 0xFFFF, m32, 0xFFFF, m32]
    && (s.part 0).hasComm 255 && (s.comm 255).any (fun c => c.own == some 0 && c.nmem == 2 && c.st == .ready && c.stageLen == 17)
    && (word p.words 9 != 0 || op == 5) && bits (word p.words 4) 12 12 == e.2.1
    && (op == 5 || ext.1 == 0 || (s.collRange a src ext.1 false).all (!·.1))
    && (op == 5 || !useDst || (s.collRange a dst ext.2 true).all (!·.1))
    && (opReduces op || op == 5 || !useDst || daSpace dst != 2)
    && (!opReduces op || (src % 128 == 0 && (!useDst || dst % 128 == 0) && decide (96 * word p.words 9 ≤ 17 * 65536 - 2 ^ 20)))
    && (!useDst || ext.1 == 0 || !crosses src ext.1 dst ext.2)
    && (daSpace dst != 2 || (s.cisternAt a dst == some (0, 0) && oneOpenGroup (s.tile 0) 0 (ext.2 / 128)))
    && (op != 6 || s.smCheck a src dst (word p.words 9) == (stOk, 0, 1, 1))

theorem test_collective_packet_hypotheses : collCases.all collMet = true := by decide +kernel

/-- The hypotheses on quires: a term that fits, one that would not, on both sides; an OVX quire; two orders of finite and other terms. -/
theorem test_quire_hypotheses :
    let top : Quire := { x := BitVec.intMax 64, q := BitVec.intMax 640 }
    let low : Quire := { x := BitVec.intMin 64, q := BitVec.intMin 640 }
    ({} : Quire).ovx = false ∧ -(2 ^ 703) - 2 ^ 639 ≤ ({} : Quire).total + 1 ∧ ({} : Quire).total + 1 < 2 ^ 703 - 2 ^ 639
    ∧ top.ovx = false ∧ 2 ^ 703 - 2 ^ 639 ≤ top.total + 1 ∧ top.total + 0 < 2 ^ 703 - 2 ^ 639
    ∧ low.ovx = false ∧ low.total + -1 < -(2 ^ 703) - 2 ^ 639 ∧ -(2 ^ 703) - 2 ^ 639 ≤ low.total + 0
    ∧ ({ ovx := true } : Quire).ovx = true := by decide +kernel

theorem test_quire_order_hypotheses :
    ([(.fin ⟨1, 1⟩, 3), (.nan, 1), (.zero false, 2)] : List (Val × Nat)).Perm [(.nan, 1), (.fin ⟨1, 1⟩, 3), (.zero false, 2)]
    ∧ ({} : Quire).total.natAbs + (([(.fin ⟨1, 1⟩, 3), (.nan, 1), (.zero false, 2)] : List (Val × Nat)).map (fun e => match e.1 with
      | .fin x => ((x.scale2 320).num / ((x.scale2 320).den : Int)).natAbs
      | _ => 0)).sum < 2 ^ 702 := ⟨.swap _ _ _, by decide +kernel⟩

theorem test_merge_hypotheses :
    let big : Quire := { x := BitVec.intMax 64 }
    let small : Quire := { x := BitVec.intMin 64 }
    2 ^ 703 - 2 ^ 639 ≤ big.total + big.total ∧ small.total + small.total < -(2 ^ 703) - 2 ^ 639
    ∧ -(2 ^ 703) - 2 ^ 639 ≤ big.total + small.total ∧ big.total + small.total < 2 ^ 703 - 2 ^ 639
    ∧ ({} : Quire).total.natAbs + ([({ q := 1 } : Quire), { q := 2 }].map (fun s => s.total.natAbs)).sum < 2 ^ 702
    ∧ (2 ^ 511 < 2 ^ 512 ∧ (5 : Nat) ≠ 2 ^ 511) ∧ ({} : Slot).user.length = 7 := by decide +kernel

theorem test_merge_order_hypotheses : [({ q := 1 } : Quire), { q := 2 }].Perm [{ q := 2 }, { q := 1 }] := .swap _ _ _

/-! ### Witnesses: tile instructions -/

/-- An instruction of four words. -/
def enc (w0 w1 w2 w3 : Nat) : Word128 := BitVec.ofNat 128 (w0 + 2 ^ 32 * w1 + 2 ^ 64 * w2 + 2 ^ 96 * w3)
/-- A tensor record of posit8 elements: base, rows, columns, format bits above the format, QUSE, QADDR. -/
def recWords (base rows cols fmtd quse qaddr : Nat) : List Nat :=
  [base, fmtd + 65536 * quse, qaddr, rows - 1, cols - 1, cols, 0, 0, rows - 1, cols - 1]
/-- Records 1 and 2: two by two posit8; 3: the same with block scales in place; 4: one by two. Elements of 1: the patterns of 1. -/
def recs : Mem :=
  ((((Mem.setBytes [] 128 (wordsBytes (recWords 4096 2 2 2 0 0))).setBytes 256 (wordsBytes (recWords 8192 2 2 2 0 0))).setBytes 384
    (wordsBytes (recWords 12288 2 2 0x102 2 16384))).setBytes 512 (wordsBytes (recWords 4096 1 2 2 0 0))).setBytes 4096 [0x40, 0x40, 0x40, 0x40]
/-- A running tile with these, group 0 OPEN of 4 × 3, group 1 OPEN of 4 × 1, row states 0 and 1 bound to it, A1 = 2. -/
def bench : Tile :=
  { running := true, basin := recs, groups := [(0, { base := 0, rows := 4, cols := 3, st := .openG }), (1, { base := 100, rows := 4, cols := 1, st := .openG })],
    rows := [(0, { bound := true, lslot := 100, ogrp := 1, orow := 2 }), (1, { bound := true, lslot := 101, ogrp := 1, orow := 3 })],
    aregs := [(1, 2), (2, 2 ^ 44 + 2 ^ 43 + 20480), (3, 2 ^ 45 + 2 ^ 43)], steps := [{ num := 0 }] }
/-- The shadow set loaded with a 1 × 1 operand. -/
def benchLoaded : Tile := match tileLOADW bench (enc 0x01 1 0 0) with | .ok t _ _ => t | _ => bench
def benchClosed : Tile := bench.setGroup 0 { bench.group 0 with st := .freeG }

def at0 (t : Tile) (w : Word128) : Tile := { t with code := [(0, w), (1, 0x26), (2, 0x26)], ninstr := 3 }
def working (t : Tile) (w : Word128) : State :=
  { (running.setTile 0 (at0 t w)) with jet := { slots := [(0, some { arity := 1, prog := none, compat := none })] },
                                        launches := [{ launch0 with ph := .running, started := true }] }

/-- The instruction stands at the program counter, is its row's, and is carried out; with the reserved bit set it is illegal. -/
def issues (t : Tile) (w : Word128) (mine : Word128 → Bool) (reserved : Nat) (f : State → Tile → Word128 → TRes) : Bool :=
  let s := working t w
  let bad := w ||| BitVec.ofNat 128 (2 ^ reserved)
  s.standsAt 0 w && mine w
  && (match f s (s.tile 0) w with
      | .ok t' rd wr => (s.tile 0).unhindered t' rd wr && (t'.moved rd wr).running && (t'.moved rd wr).settled
      | _ => false)
  && (working t bad).standsAt 0 bad && mine bad
  && (match f (working t bad) ((working t bad).tile 0) bad with | .illegal 1 => true | _ => false)

theorem test_array_instructions : issues bench (enc 0x01 1 0 0) (opcode · == 0x01) 127 (fun _ => tileLOADW) = true
    ∧ issues benchLoaded (enc 0x102 1 0 0) (opcode · == 0x02) 127 (fun _ => tileSTREAM) = true
    ∧ issues bench (enc 0x03 0 0 0) (opcode · == 0x03) 127 (fun _ => tilePACKCFG) = true := by decide +kernel

theorem test_cistern_instructions : issues benchClosed (enc 0x08 0 0 0) (opcode · == 0x08) 127 (fun _ => tileGOPEN) = true
    ∧ issues bench (enc 0x109 0 0 0) (opcode · == 0x09) 127 (fun _ => tileGCLOSE) = true
    ∧ issues bench (enc 0x0A (1 + 2 ^ 24) 0 0) (opcode · == 0x0A) 127 (fun _ => tileDRAIN) = true
    ∧ issues bench (enc 0x0B 0 0 0x5000) (opcode · == 0x0B) 127 (fun _ => tileQEXPORT) = true
    ∧ issues bench (enc 0x10C 0 0 (2 + 3 * 16 + 128 * 256)) (isMove 1 ·) 31 (fun _ t w => tileMERGE t w false) = true
    ∧ issues bench (enc 0x20C 0 0 (2 + 3 * 16 + 64 * 256)) (isMove 2 ·) 31 (fun _ t w => tileMERGE t w true) = true
    ∧ issues bench (enc 0x30C 0 0 (2 * 16 + 32 * 256)) (isMove 3 ·) 31 (fun _ => tileSTATUS) = true := by decide +kernel

theorem test_basin_instructions : issues bench (enc 0x11 (1 + 65536 * 2) 0x10 0) (opcode · == 0x11) 127 (fun _ => tileCVT) = true
    ∧ issues bench (enc 0x18 (1 + 65536 * 2) 0 (1 + 65536)) (opcode · == 0x18) 95 (fun _ => tileTLOAD) = true := by decide +kernel

/-- The addresses of these MOVEs are not closed to the kernel; a MERGE from a slot with an uncorrectable error fails. -/
theorem test_move_addresses :
    (∀ e ∈ [(enc 0x10C 0 0 (2 + 3 * 16 + 128 * 256), 128), (enc 0x20C 0 0 (2 + 3 * 16 + 64 * 256), 128), (enc 0x30C 0 0 (2 * 16 + 32 * 256), 32)],
      let s := working bench e.1
      s.closedTo 0 (moveSrc (s.tile 0) e.1) (moveLen e.1) false = false ∧ s.closedTo 0 (moveDst (s.tile 0) e.1) e.2 true = false)
    ∧ (let w := enc 0x10C 128 0 (3 + 3 * 16 + 128 * 256)
     let s := working { bench with badSlots := [1] } w
     s.standsAt 0 w = true ∧ isMove 1 w = true ∧ s.closedTo 0 (moveSrc (s.tile 0) w) 128 false = false
     ∧ (match tileMERGE (s.tile 0) w false with | .fail _ => true | _ => false) = true) := by decide +kernel

/-- The operations of NEAR: code, meaning, fields of words 1 and 2. -/
def nearCases : List (Nat × NearOp × Nat × Nat) :=
  [(0, .copy, 1, 0), (1, .add, 65537, 0), (2, .sub, 65537, 0), (3, .mul, 65537, 0), (4, .max, 65537, 0), (5, .min, 65537, 0), (6, .fma, 65537, 1),
   (7, .normrow, 1 + 65536 * 4, 4), (8, .affcol, 1 + 65536 * 4, 4), (9, .neg, 1, 0), (10, .abs, 1, 0)]

theorem test_near_instructions : nearCases.all (fun e => issues bench (enc (0x19 + 256 * e.1) e.2.2.1 (e.2.2.2 + 65536 * 2) 0x10)
    (isNear e.1 ·) 127 (fun _ => tileNEAR e.2.1)) = true := by decide +kernel

theorem test_jet_instruction : issues bench (enc 0x14 1 (2 + 2 ^ 20) 0) (opcode · == 0x14) 127 (fun s => tileJET (s.tctx 0)) = true := by
  decide +kernel

theorem test_statistics_instructions : issues bench (enc 0x15 (2 * 512) 100 0) (isRstat 0 ·) 127 (fun _ => tileSMINIT) = true
    ∧ issues bench (enc 0x115 (1 + 65536 * 3) (2 * 512 + 2 ^ 27) 0) (isRstat 1 ·) 127 (fun _ => tileSMTERM) = true
    ∧ issues bench (enc 0x215 (0 + 512 + 2 ^ 18) 0 0) (isRstat 2 ·) 127 (fun _ => tileSMMERGE) = true
    ∧ issues bench (enc 0x315 (2 * 512) 2 0x5000) (isRstat 3 ·) 127 (fun _ => tileSMNORM) = true
    ∧ issues bench (enc 0x415 (1 + 2 ^ 24) (2 ^ 18) 0) (isRstat 4 ·) 127 (fun _ => tileNSTAT) = true
    ∧ issues bench (enc 0x515 (2 ^ 9) (65536 * 2) 0x80) (isRstat 5 ·) 63 (fun _ => tileNVAR) = true := by decide +kernel

theorem test_requant_hypotheses :
    let w := enc 0x10 0 0 2
    let s := working bench w
    let bad : State := { s with rel := { s.rel with badCst := [0] } }
    s.standsAt 0 w = true ∧ bad.standsAt 0 w = true ∧ s.badEntryRead 0 (s.tile 0) w = none ∧ bad.badEntryRead 0 (bad.tile 0) w = some 0
    ∧ (match tileREQUANT (s.tctx 0) (s.tile 0) w with
        | .ok t' rd wr => (s.tile 0).unhindered t' rd wr
        | _ => false) = true
    ∧ (match tileREQUANT (bad.tctx 0) (bad.tile 0) w with | .ok _ _ _ => true | _ => false) = true := by decide +kernel

/-- A COPY of two bytes from A2, within the Basin. -/
def copyWord : Word128 := enc 0x0C (2 ^ 32 - 16384) 0 (2 + 2 * 16 + 2 * 256)
theorem test_copy_hypotheses :
    let s := working bench copyWord
    let t := s.tile 0
    s.standsAt 0 copyWord = true ∧ isMove 0 copyWord = true ∧ moveFields copyWord = true ∧ moveLen copyWord ≠ 0
    ∧ t.ownAddr (moveSrc t copyWord) 1 = true ∧ t.ownAddr (moveDst t copyWord) 1 = true
    ∧ s.closedTo 0 (moveSrc t copyWord) (moveLen copyWord) false = false ∧ s.closedTo 0 (moveDst t copyWord) (moveLen copyWord) true = false
    ∧ (match tileCOPY copyWord s 0 t with | (_, .ok t' rd wr) => t.unhindered t' rd wr | _ => false) = true := by decide +kernel

theorem test_group_effects_hypotheses :
    (let w := enc 0x108 (100 + 2 ^ 13) 1 0
     onlyFields w 0x1FFF 0x03FF_FFFF 0x7F 0 = true ∧ fld w 1 0 13 + (fld w 1 13 13 + 1) * (fld w 2 0 7 + 1) ≤ 8192
     ∧ (({} : Tile).group (fld w 0 8 5)).st ≠ .openG
     ∧ ∀ e ∈ (bench.setGroup 1 {}).groups, e.2.st = .openG → e.2.overlaps 100 104 = false)
    ∧ (let w := enc 0x109 0 0 0
     onlyFields w 0x1FFF 0 0 0 = true ∧ (bench.group (fld w 0 8 5)).st = .openG ∧ (({} : Tile).group (fld w 0 8 5)).st ≠ .openG)
    ∧ (let w := enc 0x03 0x1FFFF 0 0
     onlyFields w 0x00FF_FFFF 0x1FFFF 0 0 = true ∧ fld w 0 8 16 = 0)
    ∧ (let w := enc 0x15 (511 + 512) (8191 + 2 ^ 13 * 8191) 0
     onlyFields w (rstatWord0 false false false) 0x00FF_FFFF 0x03FF_FFFF 0 = true ∧ 1 ≤ fld w 1 9 10 ∧ fld w 1 0 9 + fld w 1 9 10 ≤ 512
     ∧ fld w 2 0 13 + fld w 2 9 0 + 1 ≤ 8192 ∧ fld w 2 13 13 + 1 ≤ 8192)
    ∧ (let w := enc 0x30C 0 0 (2 * 16 + 32 * 256)
     moveFields w = true ∧ moveLen w = 32 ∧ bench.ownAddr (moveDst bench w) 1 = true ∧ daOff (moveDst bench w) + 32 ≤ basinSize)
    ∧ (let w := enc 0x10C 0 0 (2 + 3 * 16 + 128 * 256)
     moveFields w = true ∧ moveLen w ≠ 0 ∧ mergeReason bench (moveSrc bench w) (moveDst bench w) (moveLen w) 128 = none
     ∧ daSpace (moveSrc bench w) = 1) := by decide +kernel

/-- The tile of the statement goes on: it runs and its sequencer has somewhere to go. -/
def onward (u : Tile) : Bool := u.running && u.settled

theorem test_seta_loop_hypotheses :
    (let w := enc (0x22 + 256 * 15) 0xFFFF_FFFF 0 0
     let t := at0 bench w
     (working bench w).standsAt 0 w = true ∧ onlyFields w 0x7F_FFFF 0xFFFF_FFFF 0 0 = true
     ∧ onward (t.setAreg (fld w 0 8 4) (setaResult t w)).advance = true)
    ∧ (∀ c ∈ [0, 2],
     let w := enc (0x20 + 256 * 3) c 0 0
     let t := at0 bench w
     let last := t.pc + fld w 2 0 11 + 1
     (working bench w).standsAt 0 w = true ∧ onlyFields w 0x3FFF 0xFFFF_FFFF 0x7FF 0xFFFF = true ∧ t.loops = [] ∧ last < t.ninstr
     ∧ (t.areg (fld w 0 10 4) + imm48 w).toInt = c ∧ onward (loopEnd last t.loops { t with lastIdx := t.pc, issued := t.issued + 1 }) = true
     ∧ onward { t with
          lastIdx := t.pc, pc := t.pc + 1, issued := t.issued + 1, ctrs := SMap.set 0 t.ctrs (fld w 0 8 2) 2,
          loops := { ctr := fld w 0 8 2, first := t.pc + 1, last := last, left := 2, inc1 := fld w 3 0 4, str1 := fld w 3 4 4,
                     inc2 := fld w 3 8 4, str2 := fld w 3 12 4 } :: t.loops } = true) := by decide +kernel

theorem test_branch_hypotheses : ∀ c ∈ [0, 2],
    let w := enc (0x21 + 256 * c) 0 2 0
    let t := at0 bench w
    (working bench w).standsAt 0 w = true ∧ onlyFields w 0x7_FFFF 0xFFFF_FFFF 0xFFFF 0 = true ∧ fld w 0 8 3 ≠ 7
    ∧ branchTaken t w = (c == 0) ∧ onward t.advance = true ∧ (t.pc : Int) + sfld w 2 0 16 = 2 ∧ 2 < t.ninstr
    ∧ innermost t 2 = innermost t t.pc ∧ onward { t with lastIdx := t.pc, pc := 2, issued := t.issued + 1 } = true := by decide +kernel

theorem test_wait_signal_hypotheses :
    (let w := enc 0x123 0 0 0
     (working bench w).standsAt 0 w = true ∧ onlyFields w 0xFF_FFFF 0x7FFF 0xFFFF_FFFF 0xFF_FFFF = true ∧ flag w 0 8 = true
     ∧ onward (at0 bench w).advance = true)
    ∧ (∀ v ∈ [0, 0xFFFF_FFFF],
     let w := enc 0x23 0x7FFF v 0xFF_FFFF
     let s := working bench w
     let t := at0 bench w
     s.standsAt 0 w = true ∧ onlyFields w 0xFF_FFFF 0x7FFF 0xFFFF_FFFF 0xFF_FFFF = true ∧ flag w 0 8 = false
     ∧ (s.part t.part).hasSync (syncIndex t w) = true ∧ syncValue t w = v ∧ (s.counter (syncIndex t w)).toNat = 0
     ∧ onward t.advance = true
     ∧ onward { t with wait := some { obj := syncIndex t w, target := syncValue t w, timeout := fld w 3 0 24 } } = true)
    ∧ (let w := enc 0x24 0x7FFF 1 0
     let s := working bench w
     s.standsAt 0 w = true ∧ onlyFields w 0xFF_00FF 0x7FFF 0xFFFF_FFFF 0 = true ∧ (s.part 0).hasSync (syncIndex (at0 bench w) w) = true
     ∧ onward ((at0 bench w).mapStep (fun x =>
        { x with signals := x.signals ++ [(0x7FFF, BitVec.ofNat 64 1)] })).advance = true) := by decide +kernel

theorem test_step_end_hypotheses :
    (let w := enc 0x25 0 0 0
     let full : Tile := { bench with steps := [{ num := 0, closed := true }, { num := 1, closed := true }, { num := 2, closed := true }, { num := 3 }] }
     (working bench w).standsAt 0 w = true ∧ (working full w).standsAt 0 w = true ∧ onlyFields w 0xFF 0 0 0 = true
     ∧ (at0 bench w).steps.length < 4 ∧ 4 ≤ (at0 full w).steps.length ∧ onward (at0 bench w).boundary.advance = true)
    ∧ (let w := enc 0x26 0 0 0
     (working bench w).standsAt 0 w = true ∧ onlyFields w 0xFF 0 0 0 = true
     ∧ onward { (at0 bench w).mapStep (fun x => { x with closed := true, final := true }) with ended := true, lastIdx := 0 } = true) := by
  decide +kernel

/-- A tile with a closed oldest step: empty, with a signal, with a deferred write that the partition may not make. -/
def closing (x : StepRec) : State := working { bench with steps := [{ x with closed := true }] } 0x26

/-- A step that owes a write of 8 bytes to mapped HBM. -/
def landing : StepRec := { deferred := [{ idx := 0, src := BitVec.ofNat 48 (2 ^ 44 + 2 ^ 43), dst := 4096, len := 8 }] }

theorem test_landing_hypotheses :
    let s := closing landing
    daSpace (2 ^ 44 + 2 ^ 43) = 1 ∧ daSpace 4096 = 0 ∧ (s.tile 0).badBasin = [] ∧ (s.tile 0).badAux = []
    ∧ s.canWrite (s.kernelAgent 0) 4096 8 = true := by decide +kernel

theorem test_commit_hypotheses :
    (∀ x ∈ [({} : StepRec), { signals := [(3, 1)] }, { final := true }, { deferred := [{ idx := 0, src := 0, dst := 2 ^ 40, len := 8 }] }, landing],
     let s := closing x
     s.live = true ∧ (s.tile 0).running = true ∧ (s.tile 0).stopped = false ∧ (s.tile 0).parked = false
     ∧ (s.tile 0).steps = [{ x with closed := true }] ∧ x.sent = false ∧ s.reqs = [])
    ∧ ((working bench 0x26).tile 0).steps.all (fun x => !x.closed) = true
    ∧ (let s := closing { deferred := [{ idx := 0, src := 2 ^ 44 + 2 ^ 43, dst := 2 ^ 40, len := 8 }] }
     let s1 := (s.commitFirst 0 ((s.tile 0).steps.headD {})).modOldest 0 (fun y => { y with sent := true })
     (match s1.landOne 0 0 { idx := 0, src := 2 ^ 44 + 2 ^ 43, dst := 2 ^ 40, len := 8 } with | .fails _ => true | _ => false) = true) := by
  decide +kernel

theorem test_tile_fault_hypotheses :
    let s := working { bench with wait := some { obj := 3, target := 5, timeout := 7 } } 0x26
    let loose := working (bench.setGroup 0 { bench.group 0 with anchored := false }) 0x26
    s.live = true ∧ (s.tile 0).running = true ∧ (s.tile 0).stopped = false ∧ (s.tile 0).wait = some { obj := 3, target := 5, timeout := 7 }
    ∧ (∀ h ∈ [0, 1, 31], ((s.tile 0).group h).anchored = true ∨ ((s.tile 0).group h).st = .freeG) ∧ (s.tile 0).replays < 3 ∧ (s.tile 0).outReads = []
    ∧ ((working { bench with stopped := true } 0x26).tile 0).stopped = true ∧ (working { bench with stopped := true } 0x26).live = true
    ∧ (∃ h ∈ [0], ((loose.tile 0).group h).anchored = false ∧ ((loose.tile 0).group h).st ≠ .freeG)
    ∧ s.runningOf (s.tile 0).part = some { launch0 with ph := .running, started := true } := by decide +kernel

theorem test_sync_addition_hypotheses : SMap.wf 0 ([(3, 5)] : SMap (BitVec 64)) = true := by decide +kernel

/-! ### Witnesses: the Weir -/

/-- Over the cap with the level at 8 for ten periods; calm at the slowest point for 100. -/
def hotWeir : State := { up with weir := { up.weir with samples := List.replicate 10 1700, tp := 8, hotTp := 10 } }
def calmWeir : State := { up with weir := { up.weir with opp := 7, samples := List.replicate 10 300, calm := 100 } }

theorem test_power_hypotheses :
    hotWeir.live = true ∧ hotWeir.weir.samples.head? = some 1700 ∧ 1600 < 1601 ∧ hotWeir.weir.fast = false
    ∧ up.weir.samples.length < 10 ∧ 10 ≤ hotWeir.weir.samples.length ∧ hotWeir.weir.pinned = false ∧ hotWeir.weir.tp ≤ 8
    ∧ 10 * hotWeir.weir.cap < (hotWeir.weir.samples.take 10).sum
    ∧ 10 ≤ pinned.weir.samples.length ∧ pinned.weir.pinned = true
    ∧ (∀ t, hotWeir.weir.lastStep = some t → t + 100000 ≤ hotWeir.time) ∧ hotWeir.stepDownCause = some 1 ∧ hotWeir.weir.opp = 0
    ∧ calmWeir.mayStepUp = true ∧ calmWeir.weir.opp = 6 + 1 ∧ calmWeir.weir.pinned = false ∧ calmWeir.weir.lastStep = none
    ∧ hotWeir.weir.mute.getD 0 false = false := by decide +kernel

/-- The account at its limit but for a period's excess. -/
theorem test_power_account_hypotheses :
    let w : Weir := { energy := 199999, samples := List.replicate 10 1700 }
    Nat.min (w.energy + (w.samples.take 10).sum - 10 * w.cap) 200000 = 200000 ∧ w.fast = false ∧ 10 * w.cap < (w.samples.take 10).sum := by
  decide +kernel

def overheated : State := { up with weir := { up.weir with emergency := [false, false, false, true, false, false] } }

theorem test_thermal_hypotheses :
    up.live = true ∧ (∀ d, d ∈ [0, 3] → d < 4) ∧ 95 < 96 ∧ 89 < 90 ∧ up.weir.pinned = false ∧ 105 < 106
    ∧ (∀ d, d ∈ [0, 3, 4, 5] → up.weir.emergency.getD d true = false) ∧ overheated.weir.emergency.getD 3 false = true
    ∧ overheated.weir.emergency.getD 2 false = false ∧ up.weir.coolMs.getD 0 0 < 9
    ∧ overheated.eventQueue 0 = none ∧ (∀ i, i < 64 → (overheated.tile (64 * 3 + i)).held = [])
    ∧ ({ emergency := [false, false, false, false, false, true] } : Weir).emergency.getD 5 false = true
    ∧ ({ coolMs := [9, 0, 0, 0] } : Weir).coolMs.getD 0 0 = 9 := by decide +kernel

/-- Rails midway in the range of point 0; partition 0 with tile 1 in its binding and tile 0 as the spare of their block. -/
def midway : State := { up with weir := { up.weir with volts := List.replicate 6 870 } }
def spared : State := { up with parts := [(0, { up.part 0 with bind := [1], spares := [0] })] }

theorem test_voltage_placement_hypotheses :
    (∀ k ∈ [0, 5], midway.weir.mute.getD k false = false ∧ (oppOf 0).vmin ≤ midway.weir.volts.getD k 0 + 5
      ∧ midway.weir.volts.getD k 0 + 5 ≤ (oppOf 0).vmax ∧ up.weir.stretch.getD k true = false) ∧ (-1 : Int) < 0
    ∧ pinned.weir.pinned = true ∧ ({ stretch := [true] } : Weir).stretch.getD 0 false = true ∧ up.weir.mute.getD 5 false ≠ true
    ∧ (spared.part 0).held = true ∧ spared.weir.pinned = false ∧ 0 < (spared.part 0).bind.length
    ∧ (spared.part 0).spares.find? (fun t => t / 16 == (spared.part 0).bind.getD 0 256 / 16) = some 0
    ∧ (∀ l ∈ spared.launches, l.part ≠ 0) ∧ (∀ p ∈ spared.packets, spared.queuePart p.queue ≠ 0 ∨ pType p.words ≠ 1) := by decide +kernel

/-! ### Witnesses: Sluice engines -/

/-- Channel 63 of engine 31 serves a packet of one descriptor at address 0. -/
def descPkt : ChanPkt := { queue := 0, seq := 0, desc := 0, count := 1, idx := 0, pclass := 0, part := 0, fn := 0 }
def channelled (ws : List Nat) (c : Chan) : State :=
  { joined with hbm := Mem.setBytes [] 0 (wordsBytes ws), chans := [(31 * 64 + 63, { c with st := .active, pkt := some descPkt })] }
/-- A COPY of 64 bytes in HBM, a FILL, a CONFIG of a ring, a COPY that overlaps itself, a COPY of nothing with a record. -/
def copyDesc : List Nat := [0, 0, 0, 0, 65536, 0, 64, 0, 0, 0, 0, 0, 0, 0, 0, 0]
def fillDesc : List Nat := [1, 0, 0, 0, 65536, 0, 64, 0, 0, 0, 0, 0, 5, 0, 0, 0]
def configDesc : List Nat := [2, 0, 65536, 0, 131072, 0, 4, 3, 0, 0, 0, 0, 0, 0, 0, 0]
def crossDesc : List Nat := [0, 0, 0, 0, 32, 0, 64, 0, 0, 0, 0, 0, 0, 0, 0, 0]

theorem test_descriptor_hypotheses :
    (∀ ws ∈ [copyDesc, fillDesc, configDesc, crossDesc],
      let s := channelled ws {}
      let a := State.chanAgent descPkt
      s.live = true ∧ (s.chan (31 * 64 + 63)).pkt = some descPkt ∧ (s.chan (31 * 64 + 63)).runs = [] ∧ (s.chan (31 * 64 + 63)).stop = none
      ∧ s.canRead a (State.descAddr descPkt) 64 = true
      ∧ (match s.load a (State.descAddr descPkt) 64 with
          | .ok (s1, bs) => bytesWords 16 bs == ws
              && ((s1.hbmLatency a (State.descAddr descPkt) 64).descStatus a ws == stOk) == (ws != crossDesc)
          | .error _ => false) = true)
    ∧ dOp copyDesc = 0 ∧ dOp fillDesc = 1 ∧ dOp configDesc = 2 ∧ dOp crossDesc = 0 := by decide +kernel

/-- A descriptor in progress: at its start, finished, at a bus error. -/
def inProgress (ws : List Nat) (d : DescRun) (c : Chan := {}) : State := channelled ws { c with runs := [{ d with words := ws, checked := true }] }

theorem test_read_beat_hypotheses :
    let s := inProgress copyDesc { words := [] }
    let k := 31 * 64 + 63
    s.live = true ∧ (s.chan k).runs = [{ words := copyDesc, checked := true }] ∧ 0 < dTotal copyDesc ∧ (s.chan k).buf.length < 16
    ∧ State.moving (s.chan k) = true ∧ beatAt copyDesc 0 = (0, 65536, 64) ∧ s.canRead (State.chanAgent descPkt) 0 64 = true
    ∧ s.beatTurn k false = true := by decide +kernel

/-- A COPY whose 64 bytes have been read, and a FILL; what a beat of them writes. -/
theorem test_write_beat_hypotheses : ∀ e ∈ [(copyDesc, 64, [List.replicate 64 (7 : Byte)]), (fillDesc, 0, [])],
    let s := inProgress e.1 { words := [], rpos := e.2.1 } { buf := e.2.2 }
    let k := 31 * 64 + 63
    (s.chan k).runs = [{ words := e.1, checked := true, rpos := e.2.1 }] ∧ State.moving (s.chan k) = true ∧ beatAt e.1 0 = (dSrc e.1, 65536, 64)
    ∧ daSpace 65536 ≠ 5 ∧ (dOp e.1 = 0 → 0 < e.2.1 ∧ (s.chan k).buf = [List.replicate 64 7]) ∧ s.beatTurn k true = true
    ∧ (match s.place (State.chanAgent descPkt) 65536 64 true with | some pl => s.writeBar pl 64 == none | none => false) = true := by
  decide +kernel

theorem test_record_hypotheses :
    let rec1 := copyDesc.set 0 16
    let ring : Chan := { ring := 65536, head := 131072, log2 := 4 }
    let full : Chan := { ring := 65536, head := 131072, log2 := 4, pidx := 16 }
    let k := 31 * 64 + 63
    let done : DescRun := { words := [], finished := true }
    ((inProgress copyDesc done).chan k).ring = 0 ∧ ((inProgress copyDesc done).chan k).st = .active ∧ dSig copyDesc = false
    ∧ ((inProgress copyDesc done).chan k).stop = none
    ∧ dRec rec1 = true ∧ ((inProgress rec1 done ring).chan k).ring ≠ 0 ∧ State.ringFull ((inProgress rec1 done ring).chan k) = false
    ∧ (inProgress rec1 done ring).canWrite (State.chanAgent descPkt) 65536 32 = true
    ∧ State.ringFull ((inProgress rec1 done full).chan k) = true
    ∧ (let s := (inProgress rec1 done full).modChan k (fun c => { c with st := .waiting })
     (s.chan k).st = .waiting ∧ (s.chan k).headErr = none ∧ (∀ x ∈ (s.chan k).runs, x.errAddr = none)
     ∧ (s.hostStores [(5, 1)]).canRead (State.chanAgent descPkt) (s.chan k).head 8 = true) := by decide +kernel

theorem test_sluice_error_hypotheses :
    let k := 31 * 64 + 63
    let s := inProgress copyDesc { words := [] }
    let bad := inProgress copyDesc { words := [], errAddr := some 0 }
    (s.chan k).st = .active ∧ dOp copyDesc = 0 ∧ 0 < (s.chan k).retryMax ∧ State.moving (s.chan k) = true
    ∧ s.canRead (State.chanAgent descPkt) 0 64 = true
    ∧ (bad.chan k).runs = [{ words := copyDesc, checked := true, errAddr := some 0 }] ∧ (bad.chan k).headErr = none := by decide +kernel

/-- Queue 0 with an entry to fetch; the same after a bus error, with one and two reissues behind it; a launch whose header is to be read again. -/
def fetching : State := queued.modQueue 0 (fun q => { q with hostIdx := 1, bells := [0] })
def refetching (n : Nat) : State := queued.modQueue 0 (fun q => { q with hostIdx := 1, bells := [0], fetchErr := true, retries := n })

theorem test_reissue_hypotheses :
    fetching.live = true ∧ fetching.turnOf 0 = true ∧ ((refetching 2).queue 0).fetchErr = true ∧ 2 ≤ ((refetching 2).queue 0).retries
    ∧ ((refetching 1).queue 0).retries < 2
    ∧ (let s := (refetching 1).setQueue 0 { (refetching 1).queue 0 with retries := 2 }
     (s.load (s.ringAgent (s.queue 0)) ((s.queue 0).entry (s.queue 0).devIdx) 64).isOk = true)
    ∧ (∀ n ∈ [1, 2], (front queued launchWords (.reread n)).packet? 0 0 = some (pk launchWords (.reread n))) := by decide +kernel

/-! ### Witnesses: links -/

def linked (l : Link) : State := { up with links := [(31, l)] }
/-- A marker block of physical lane 8 in the role 8; the same with BYE. -/
def marker (bye : Nat) : List Word32 := [0xA5C3_3C5A, 0, 0, BitVec.ofNat 32 (bye * 65536), 0, 0, 0, 0]

theorem test_training_hypotheses :
    (∀ st ∈ [LState.detect, .train, .align, .config, .active, .recovery],
      (linked { st := st }).linksUp = true ∧ ((linked { st := st }).link 31).st = st)
    ∧ (∀ e ∈ [([0, 1, 2, 3], 4), ([0, 1, 2], 3), ((List.range 9), 9)],
      (({ st := .align } : Link).byPlane ((sortLanes e.1).filter (fun p => !({ } : Link).rx.failed.contains p))).length = e.2)
    ∧ up.devid = none ∧ ({} : Link).peerV = false
    ∧ (linked { st := .train }).link 31 = { st := .train } ∧ ({ st := .train } : Link).marking = true ∧ ({ st := .train } : Link).dying = 0
    ∧ markerGood (marker 0) = true ∧ markerGood (marker 1) = true
    ∧ ((marker 0).getD 3 0).toNat.testBit 16 = false ∧ ((marker 1).getD 3 0).toNat.testBit 16 = true
    ∧ ((linked { st := .active, disabling := true }).link 31).disabling = true := by decide +kernel

/-- Two lanes that claim one logical lane in one marker period; another link's lane; CONFIG with all but the peer's ID done. -/
theorem test_marker_hypotheses :
    marksClash [(3, (0, 0, 0))] 8 (bits ((marker 0).getD 1 0).toNat 8 5) (((marker 0).getD 1 0).toNat % 16) 0 = true
    ∧ marksClash [(3, (7, 1, 0))] 8 0 0 0 = true ∧ marksClash [] 8 0 0 0 = false
    ∧ (let l : Link := { st := .config, cfgSeen := true, cfgAcked := true, cfgSent := true, cfgAnswered := true, cfgDev := 6 }
     let m : List Word32 := (marker 0).set 7 (6 + 4096)
     let s := { linked l with devid := some 5 }
     s.linksUp = true ∧ (s.link 31).st = .config ∧ markerGood m = true ∧ (m.getD 7 0).toNat.testBit 12 = true
     ∧ BitVec.ofNat 12 (m.getD 7 0).toNat ≠ 5 ∧ l.cfgDev ≠ 5 ∧ l.cfgHalf = true ∧ (m.getD 1 0).toNat.testBit 13 = l.rx.half)
    ∧ (let s := { linked { st := .config, peerV := true } with devid := some 5 }
     (s.link 31).st = .config ∧ s.devid.isSome = true ∧ (s.link 31).peerV = true) := by decide +kernel

/-- CRC-32C evaluated byte by byte. -/
def flitCrc : List Byte → Nat → Nat
  | [], c => c ^^^ 0xFFFF_FFFF
  | b :: bs, c => forced (crc32cShift 8 (c ^^^ b.toNat)) (flitCrc bs)

theorem flitCrc_eq (bs : List Byte) : crc32c bs = flitCrc bs 0xFFFF_FFFF := by
  suffices h : ∀ c, bs.foldl (fun c b => crc32cShift 8 (c ^^^ b.toNat)) c ^^^ 0xFFFF_FFFF = flitCrc bs c from h _
  induction bs with
  | nil => intro c; rfl
  | cons b bs ih =>
    intro c
    have hf : ∀ n k, forced n k = k n := by intro n k; cases n <;> rfl
    rw [flitCrc, hf, ← ih]; rfl

/-- A flit of header and control words with its CRC. -/
def flitOf (ws : List Nat) : List Byte :=
  let b := wordsBytes ws ++ List.replicate (252 - 4 * ws.length) 0
  b ++ leBytes 4 (flitCrc b 0xFFFF_FFFF)
def dataFlit : List Byte := flitOf [1, 0, 8 + 16]
def middleFlit : List Byte := flitOf [1 + 16 * 5, 0, 8]

theorem test_good_flits : flitGood (flitOf [0, 0, 0]) false = true ∧ flitGood (flitOf [0, 0, 0]) true = false
    ∧ flitType (flitOf [0, 0, 0]) = 0 ∧ (linked { st := .active }).link 31 = { st := .active } := by
  simp only [flitGood, flitCrc_eq]
  decide +kernel

theorem test_data_flits : flitGood dataFlit false = true ∧ flitType dataFlit = 1 ∧ BitVec.ofNat 12 (bits (flitWord dataFlit 0) 4 12) = ({} : Link).ackSeq + 1
    ∧ BitVec.ofNat 12 (bits (flitWord middleFlit 0) 4 12) ≠ ({} : Link).ackSeq + 1 ∧ flitGood middleFlit false = true
    ∧ (({ st := .active } : Link).header dataFlit).st = .active ∧ (({ st := .active } : Link).header dataFlit).ackSeq = 0xFFF
    ∧ (({ st := .active } : Link).header dataFlit).held (flitWord dataFlit 2 % 8) < rxFlits
    ∧ ({ st := .active } : Link).open = true ∧ ({ st := .active } : Link).disabling = false := by
  simp only [flitGood, flitCrc_eq]
  decide +kernel

/-- An ACTIVE link with a flit in its replay buffer. -/
def unacked : Link := { st := .active, replay := [{ seq := 0, vc := 0, sop := true, eop := true, data := [1], head := [] }], txNext := 1 }
theorem test_control_flits : ∀ e ∈ [(0, LState.config), (1, .config), (2, .active), (3, .recovery)],
    let f := flitOf [2, 0, 0, e.1]
    flitGood f false = true ∧ flitType f = 2 ∧ ctlWord f 0 % 16 = e.1 ∧ (ctlWord f 1).testBit 0 = false
    ∧ (({ st := e.2 } : Link).header f).st = e.2 ∧ (({ st := e.2 } : Link).header f).peerV = false
    ∧ (({ st := e.2 } : Link).header f).aligned = false ∧ (({ st := e.2, aligned := true } : Link).header f).aligned = true := by
  simp only [flitGood, flitCrc_eq]
  decide +kernel
theorem test_recover_flits :
    let f := flitOf [2, 0, 0, 2, 1]
    flitGood f false = true ∧ flitType f = 2 ∧ ctlWord f 0 % 16 = 2 ∧ (ctlWord f 1).testBit 0 = true
    ∧ (({ st := .active } : Link).header (flitOf [2, 0, 0, 2])).recover.exhausted = false
    ∧ (({ unacked with episodes := 3 } : Link).header (flitOf [2, 0, 0, 2])).recover.exhausted = true
    ∧ (({ unacked with episodes := 3 } : Link).header (flitOf [2, 0, 0, 2])).st = .active := by
  simp only [flitGood, flitCrc_eq]
  decide +kernel

theorem test_recovery_hypotheses :
    (∀ e ∈ [(0, 0), (4, 2), (4, 3)],
      let l : Link := { unacked with resend := e.1, episodes := e.2 }
      (linked l).linksUp = true ∧ ((linked l).link 31).st = .active ∧ ((linked l).link 31).replay ≠ []
      ∧ ((linked l).link 31).resend = e.1 ∧ ((linked l).link 31).episodes = e.2)
    ∧ ({ st := .active } : Link).replay = []
    ∧ unacked.rx.failed.contains 7 = false ∧ unacked.spreq = none ∧ unacked.sweep = none ∧ unacked.rx.roles.contains 7 = true
    ∧ unacked.rx.spare.isSome = true ∧ unacked.rx.half = false ∧ unacked.disabling = false
    ∧ (let l : Link := { unacked with rx := { spare := none, failed := [8] } }
     l.rx.failed.contains 0 = false ∧ l.rx.roles.contains 0 = true ∧ l.rx.spare = none ∧ (insAsc 0 l.rx.failed).length ≤ 5 ∧ l.episodes < 3)
    ∧ (let l : Link := { unacked with rx := { roles := [0, 1, 2, 3], half := true, spare := none, failed := [4, 5, 6, 7, 8] } }
     l.rx.failed.contains 0 = false ∧ l.rx.roles.contains 0 = true ∧ 5 < (insAsc 0 l.rx.failed).length)
    ∧ (let l : Link := { unacked with rxSwitch := some (3, 7), peerCount := 7 }
     l.spack = none ∧ l.sweep = none ∧ l.rxSwitch = some (3, 7) ∧ (l.peerCount - 7).toNat < 2 ^ 31 ∧ l.rx.spare = some 8) := by decide +kernel

/-! ### Witnesses: the fabric -/

/-- A packet of device 6 for device 5, and the collective block that follows its header. -/
def wireTo (dst ptype cls param : Nat) (rest : List Byte) : List Byte :=
  wordsBytes [dst + 6 * 4096 + cls * 2 ^ 24, ptype + 64 * 256, 16 + rest.length, param] ++ rest
def wire := wireTo 5
def arrived (s : State) (p : List Byte) : State := { s with arrivals := [{ link := some 3, level := 0, vc := 0, data := p }] }

/-- Destination 7 by link 3, which is ACTIVE; nothing leads to 8. -/
def routed : State := { joined with routes := [(7, BitVec.ofNat 64 (2 ^ 32 + 8))], links := [(3, { st := .active })] }

theorem test_router_hypotheses :
    (let s := arrived routed (wireTo 7 0x10 1 1 (List.replicate 16 0))
     s.arrivals.length = 1 ∧ s.devid ≠ some (BitVec.ofNat 12 (pkDst (wireTo 7 0x10 1 1 (List.replicate 16 0)))) ∧ s.boot.failed = false
     ∧ (s.route (wireTo 7 0x10 1 1 (List.replicate 16 0)) 0).isOk = true)
    ∧ (let p := wireTo 8 0x11 1 1 (List.replicate 16 0)
     (arrived routed p).devid ≠ some (BitVec.ofNat 12 (pkDst p)) ∧ pkType p = 0x11 ∧ ((arrived routed p).route p 0).isOk = false)
    ∧ (let p := wordsBytes [8 + 5 * 4096 + 2 ^ 24, 0x10 + 64 * 256, 32, 1] ++ List.replicate 16 0
     let s := { arrived routed p with routes := [(6, BitVec.ofNat 64 (2 ^ 32 + 8))], dropped := [(0x0405, { last := some up.time })] }
     let noted := (s.take 0).noteDrop 0x0405 (pkDst p + 2 ^ 12 * pkSrc p + 2 ^ 24)
     pkType p ≠ 0x11 ∧ s.arrivals.all (fun a => a.link.isSome) = true ∧ (match s.route p 0 with | .error r => r == 1 | .ok _ => false) = true
     ∧ (noted.emit (noted.notice p 1) 0).isOk = true) := by
  decide +kernel

/-- The window of partition 0 opens 64 KiB at address 0 and the last group of sync objects. -/
def windowed : State := { joined with window := some { part := 0, fn := 0, base := 0, size := 1, mask := BitVec.ofNat 32 (2 ^ 31) } }
def writeReq : List Byte := wire 0x01 0 1 (wordsBytes [65520, 9, 0, 0] ++ List.replicate 16 7)
def signalReq : List Byte := wire 0x02 0 1 (wordsBytes [0x7FFF, 9, 5, 0])

theorem test_remote_request_hypotheses :
    windowed.live = true ∧ SMap.get none windowed.dups (pkSrc writeReq) = none ∧ BitVec.ofNat 32 (pkParam writeReq) = 1
    ∧ (arrived windowed writeReq).arrival? 0 0x01 = some writeReq ∧ pkWord writeReq 4 + (writeReq.drop 32).length ≤ 1 * 65536
    ∧ (((arrived windowed writeReq).take 0).store { part := 0, fn := 0 } (pkWord writeReq 4) (writeReq.drop 32)).isOk = true
    ∧ (arrived windowed signalReq).arrival? 0 0x02 = some signalReq
    ∧ bitOf (BitVec.ofNat 32 (2 ^ 31)) (pkWord signalReq 4 / 1024) = true ∧ (windowed.part 0).hasSync (pkWord signalReq 4) = true := by
  decide +kernel

/-- A source whose first request has been answered. -/
def repeated : State := { windowed with dups := [(6, some { epoch := 9, expected := 2, held := [], recent := [(1, stOk)] })] }
/-- A request ahead of its turn. -/
def aheadReq : List Byte := wire 0x02 0 4 (wordsBytes [0x7FFF, 9, 5, 0])
theorem test_ahead_hypotheses :
    (arrived repeated aheadReq).arrival? 0 0x02 = some aheadReq ∧ BitVec.ofNat 32 (pkParam aheadReq) ≠ (2 : BitVec 32)
    ∧ (BitVec.ofNat 32 (pkParam aheadReq) - (2 : BitVec 32)).toNat ≤ 63 ∧ BitVec.ofNat 32 (pkWord aheadReq 5) = (9 : BitVec 32) := by decide +kernel

theorem test_duplicate_hypotheses : ∀ p ∈ [writeReq, signalReq],
    (SMap.get none repeated.dups (pkSrc p)).any (fun d => d.epoch == BitVec.ofNat 32 (pkWord p 5) && BitVec.ofNat 32 (pkParam p) != d.expected
      && decide (63 < (BitVec.ofNat 32 (pkParam p) - d.expected).toNat)
      && d.recent.find? (fun r => r.1 == BitVec.ofNat 32 (pkParam p)) == some (1, stOk)) = true
    ∧ ((arrived repeated p).arrival? 0 0x01 = some p ∨ (arrived repeated p).arrival? 0 0x02 = some p) := by decide +kernel

def ownReq : RemReq := { dst := 6, seq := 1, data := wireTo 6 0x02 0 1 (wordsBytes [0, 1, 5, 0]), from_ := .packet 0 0, queue := 0, first := 0, last := 0, via := none }
def requesting : State := { front joined [3] .remote with reqs := [ownReq] }
def ackPk : List Byte := wire 0x10 1 1 (wordsBytes [0, 1, 0, 0])
def noticePk : List Byte := wire 0x11 1 1 (wordsBytes [0, 1, 0, 0])

theorem test_own_request_hypotheses :
    requesting.live = true ∧ (arrived requesting ackPk).arrival? 0 0x10 = some ackPk
    ∧ requesting.reqs.find? (fun r => r.dst == pkSrc ackPk && r.seq.toNat == pkParam ackPk && pkWord ackPk 5 == requesting.boot.epoch.toNat)
        = some ownReq
    ∧ ownReq.from_ = .packet 0 0 ∧ knownStatus (BitVec.ofNat 16 (pkWord ackPk 4)) = true
    ∧ (∀ x ∈ requesting.packets, x.work ≠ .done) ∧ (arrived requesting noticePk).arrival? 0 0x11 = some noticePk ∧ pkWord noticePk 5 ≠ 0
    ∧ requesting.reqs.filter (fun r => r.seq.toNat == pkParam noticePk && pkWord noticePk 5 == requesting.boot.epoch.toNat) = [ownReq]
    ∧ requesting.reqs.find? (fun r => r.dst == 6 && r.seq == 1) = some ownReq := by decide +kernel

/-- Rank 0 of three in an ALLREDUCE of one quire, in its up phase; rank 1 in a BROADCAST of 16 bytes and in a BARRIER. -/
def comm3 (own : Nat) (ks : List Coll) : Comm :=
  { comm2 with members := [(5, 0, 0), (6, 0, 0), (7, 0, 0)], own := some own, st := .ready, stageLen := 17, next := 1, colls := ks }
def collReduce : Coll := { queue := 0, seq := 0, op := 0, root := 0, count := 1, src := 0, dst := 0, ph := .up }
def collCast : Coll := { queue := 0, seq := 0, op := 2, root := 0, count := 16, src := 0, dst := 4096, ph := .up }
def collBar : Coll := { queue := 0, seq := 0, op := 5, root := 0, count := 0, src := 0, dst := 0, ph := .up, sent := [0] }
def inComm (c : Comm) (w : PWork := .coll) : State := { front joined [6] w with comms := [(255, some c)], queues := queued.queues }
def upPk : List Byte := wire 0x20 2 0 (collBlock 7 0 0 0 1 0 1 stOk 1 ++ trimQuire { q := 1 })
def downPk (st : Word16) : List Byte := wire 0x21 2 0 (collBlock 7 0 2 0 16 0 16 st 0 ++ List.replicate 16 1)
def barUpPk : List Byte := wire 0x22 2 0 (collBlock 7 0 5 0 0 0 0 stOk 1)
def barDownPk : List Byte := wire 0x23 2 0 (collBlock 7 0 5 0 0 0 0 stOk 0)

theorem test_up_chunk_hypotheses :
    let s := arrived (inComm (comm3 0 [collReduce])) upPk
    s.live = true ∧ s.arrival? 0 0x20 = some upPk ∧ s.matchColl upPk = .use 255 (comm3 0 [collReduce]) collReduce ∧ cbN upPk ≠ 0
    ∧ State.agrees upPk collReduce = true ∧ (cbFirst upPk, cbN upPk) ∈ collReduce.chunks 3
    ∧ cbRank upPk ∈ collReduce.children (comm3 0 [collReduce]) 0 ∧ (unwireChunk 0 (cbN upPk) (upPk.drop 48)).isSome = true := by
  decide +kernel

/-- A down chunk or outcome of a status reaches rank 1. -/
def downMet (st : Word16) : Bool :=
  let c := comm3 1 [collCast]
  let s := arrived (inComm c) (downPk st)
  s.arrival? 0 0x21 == some (downPk st) && s.matchColl (downPk st) == .use 255 c collCast && cbStatus (downPk st) == st

theorem test_down_hypotheses : downMet stOk = true ∧ downMet stTimeout = true ∧ stTimeout ≠ stOk ∧ knownStatus stTimeout = true := by decide +kernel

/-- Rank 1 has sent its only up chunk. -/
theorem test_resend_hypotheses :
    let k : Coll := { collReduce with sent := [0], mine := [(0, ({ q := 1 } : Quire).image)] }
    k.op ≠ 5 ∧ k.chunks 3 = [(0, 1)] ∧ k.sent.contains 0 = true ∧ (comm3 1 [k]).front = some k
    ∧ (State.upChunk (comm3 1 [k]) k (0, 1)).isSome = true := by decide +kernel

theorem test_down_chunk_hypotheses :
    State.agrees (downPk stOk) collCast = true ∧ (cbFirst (downPk stOk), cbN (downPk stOk)) ∈ collCast.chunks 3
    ∧ cbFirst (downPk stOk) ∉ collCast.done ∧ unwireChunk 2 16 ((downPk stOk).drop 48) = some (List.replicate 16 1) := by decide +kernel

/-- The chunks of a BROADCAST are delivered at DST (R447). -/
theorem test_down_delivers :
    let k : Coll := { collCast with ph := .down, done := [0], result := [(0, List.replicate 16 1)] }
    (match (inComm (comm3 1 [k])).deliverChunks 255 { part := 0, fn := 0 } (comm3 1 [k]) k (k.chunks 3) with
     | .ok u => (match u.load { part := 0, fn := 0 } k.dst 16 with | .ok (_, bs) => bs | .error _ => [])
     | .error _ => []) = List.replicate 16 1 := by decide +kernel

theorem test_barrier_hypotheses :
    let c := comm3 0 [collBar]
    let d := comm3 1 [collBar]
    (arrived (inComm c) barUpPk).arrival? 0 0x22 = some barUpPk ∧ (arrived (inComm c) barUpPk).matchColl barUpPk = .use 255 c collBar
    ∧ State.agrees barUpPk collBar = true
    ∧ (arrived (inComm d) barDownPk).arrival? 0 0x23 = some barDownPk ∧ (arrived (inComm d) barDownPk).matchColl barDownPk = .use 255 d collBar
    ∧ (inComm d).comm 255 = some d ∧ d.front = some collBar ∧ d.own = some 1 ∧ collBar.sent ≠ []
    ∧ d.colls.find? (fun k => k.ph == .waiting || k.ph == .up) = some collBar := by decide +kernel

/-- Forming: rank 0 hears rank 1; rank 1 hears rank 0, has sent its own; other digests and an unknown communicator. -/
def formingAs (own : Nat) : Comm := { comm2 with own := some own, joinSent := true, digest := 9 }
def joinPk (cid digest : Nat) : List Byte := wire 0x30 3 cid (wordsBytes [cid, 0, digest, 0, 0, 0, 0, 0])
def lostPk : List Byte := wire 0x31 3 7 (collBlock 7 0 0 0 0 0 0 stOk 1)

theorem test_join_hypotheses :
    (∀ o ∈ [0, 1], ∀ g ∈ [9, 10],
      let s := arrived (inComm (formingAs o)) (joinPk 7 g)
      s.arrival? 0 0x30 = some (joinPk 7 g) ∧ s.commOf (pkParam (joinPk 7 g)) = some (255, formingAs o) ∧ cbGen (joinPk 7 g) = (formingAs o).gen
      ∧ (cbCount (joinPk 7 g) = (formingAs o).digest32 ↔ g = 9))
    ∧ (formingAs 0).joinTo ≠ some 6 ∧ (formingAs 1).joinTo = some 5 ∧ (formingAs 1).st = .forming ∧ (formingAs 1).joinSent = true
    ∧ (arrived (inComm (formingAs 0)) (joinPk 8 9)).commOf 8 = none
    ∧ (let p := wire 0x30 3 7 (wordsBytes [7, 1, 9, 0, 0, 0, 0, 0])
     (arrived (inComm (formingAs 0)) p).arrival? 0 0x30 = some p ∧ (formingAs 0).gen < cbGen p)
    ∧ (arrived (inComm (formingAs 0)) lostPk).arrival? 0 0x31 = some lostPk
    ∧ (arrived (inComm (formingAs 0)) lostPk).commOf (pkWord lostPk 4) = some (255, formingAs 0) := by decide +kernel

/-- Rank 1 hears the JOIN of its parent. -/
def formed : Comm := { comm2 with members := [(6, 0, 0), (5, 0, 0)], own := some 1 }
theorem test_join_from_parent_hypotheses :
    (arrived (inComm formed) (joinPk 7 9)).commOf 7 = some (255, formed) ∧ formed.joinTo = some (pkSrc (joinPk 7 9))
    ∧ cbCount (joinPk 7 9) = formed.digest32 ∧ formed.st ≠ .ready := by decide +kernel

/-! ### Witnesses: faults, maintenance, reset -/

theorem test_failure_hypotheses : up.boot.failed = false ∧ up.live = true ∧ up.boot.standbyOk = true ∧ up.boot.pcieUp = true ∧ 115 < 116 ∧ 105 < 106 ∧ up.boot.porst = false
    ∧ (({ linked { st := .active, dying := 16 } with boot := { up.boot with failed := true } } : State).link 31).dying = 16
    ∧ ({ up with boot := { up.boot with standbyOk := false } } : State).live = true := by decide +kernel

theorem test_scrub_hypotheses :
    192 * 2 ^ 30 - 1 < 2 ^ 48 ∧ up.queues = [] ∧ (∀ r ∈ [0, 255, 0x107, 0x31F, 0x403, 0x501],
      (up.lock r).holder = none ∧ (up.lock r).queue = [] ∧ resKind r ≠ 2 ∧ r < 6 * 256)
    ∧ up.seen (State.badKey 1 (State.stackOf 0) 0) = 0
    ∧ SMap.wf 0 up.rel.periods = true ∧ 15 < up.scrubPeriod 0
    ∧ ({ up with rel := { up.rel with periods := [(0, 15)] } } : State).scrubPeriod 0 ≤ 15 := by decide +kernel

/-- Tile 255 due for repair; the lock of a resource held by an activity. -/
def repairDue : State := { up with rel := { up.rel with persist := [255] } }
def maintained (res act : Nat) : State := up.setLock res { holder := some { fn := none, opcode := 0, seq := 0, kind := .maint res act } }

theorem test_maintenance_hypotheses :
    (let s := up.setLock 255 { queue := [{ fn := some 0, opcode := 0x0501, seq := 1, kind := .maint 255 4 }] }
     (s.lock 255).holder = none ∧ (lowestRank (s.lock 255).queue).isSome = true)
    ∧ repairDue.rel.persist.contains 255 = true ∧ (repairDue.lock 255).holder = none ∧ (repairDue.lock 255).queue = [] ∧ resKind 255 ≠ 2
    ∧ (∀ e ∈ [(0x107, 0), (0x21F, 1), (0x403, 4), (255, 3), (255, 0)],
      ((maintained e.1 e.2).lock e.1).holder = some { fn := none, opcode := 0, seq := 0, kind := .maint e.1 e.2 }
      ∧ (maintained e.1 e.2).maintReady e.1 e.2 = true)
    ∧ resKind 0x107 = 1 ∧ resKind 0x21F = 2 ∧ resKind 0x403 = 4 ∧ (up.tile 255).repair = (0x7F, 0x7F) ∧ (64#16).toNat ≤ 64 := by
  decide +kernel

/-- Rails lost; released from PORST#; at each stage of bring-up. -/
def staged (n : Nat) : State := { State.reset with boot := { State.reset.boot with porst := false, railsOk := decide (0 < n), stage := BitVec.ofNat 4 n } }

theorem test_reset_hypotheses :
    up.boot.porst = false ∧ up.boot.resetDue = none ∧ up.links = [] ∧ (linked { st := .active }).boot.resetDue = none
    ∧ (linked { st := .active }).links = [(31, { st := .active })]
    ∧ (let s : State := { linked { st := .active, dying := 1 } with boot := { up.boot with resetDue := some 1 } }
     SMap.wf {} s.links = true ∧ s.boot.resetDue = some 1 ∧ (s.link 31).dying = 1 ∧ (∀ l ∈ s.links, l.1 ≠ 31 → l.2.dying = 0))
    ∧ up.boot.railsOk = true ∧ (staged 0).boot.porst = false ∧ (staged 0).boot.railsOk = false
    ∧ (staged 0).boot.thermtrip = false ∧ up.acts = [] ∧ 1 ≤ (staged 1).boot.stage.toNat ∧ State.reset.boot.porst = true
    ∧ (∀ n ∈ [1, 2, 3, 4, 5], (staged n).boot.stage = BitVec.ofNat 4 n ∧ (staged n).boot.porst = false ∧ (staged n).boot.failed = false)
    ∧ (staged 5).boot.recovery = false ∧ (staged 1).boot.tried = 0
    ∧ ({ (staged 1).boot with tried := 1 } : Boot).tried ≠ 0 ∧ fwAccepted (staged 1).fuses ((staged 1).flash.bank false) = false := by
  decide +kernel

/-! ### Witnesses: host port, management, sampling, storage -/

/-- The PF with a pending message on an open vector. -/
def messaging : State :=
  up.modFunc 0 (fun f => { f with vecOpen := [127], pba := [3, 127], badAccess := none })

theorem test_configuration_hypotheses : messaging.boot.pcieUp = true ∧ (messaging.func 0).present = true ∧ messaging.vfEnable = false
    ∧ 64 ≤ 64 ∧ messaging.queues = [] ∧ (messaging.func 1).present = false ∧ 127 ∈ (messaging.func 0).pba ∧ (messaging.func 0).vecOpen.contains 127 = true := by decide +kernel

theorem test_bar_hypotheses :
    (messaging.func 0).reach = true ∧ 127 < vectorsOf 0 ∧ (messaging.func 0).bme = true ∧ 3 ∈ (messaging.func 0).pba
    ∧ ({ up with sec := { unlocked := true } } : State).sec.unlocked = true ∧ up.sec.unlocked = false ∧ (up.func 0).badAccess = none
    ∧ up.badKind 0 0 2 false = some 0 ∧ up.badKind 0 0x7000 4 false = some 1 ∧ up.badKind 3 0x10_0000 8 true = some 2
    ∧ up.badKind 0 (0x1_0000 + 4094) 2 true = none := by decide +kernel

theorem test_management_hypotheses : up.portUp 0 = true ∧ up.portUp 1 = true ∧ up.portUp 2 = true ∧ up.smbUp 1 = true ∧ up.smbUp 2 = false
    ∧ (List.replicate 32 (0 : Byte)).length = 32 := by decide +kernel

/-- A tile sampled with a buffer for one record: free, taken, and with its four places taken. -/
def sampledTile (buffer staged : Nat) : State :=
  working { bench with sampler := { samplen := 32, period := 16, buffer := List.replicate buffer (List.replicate 8 0),
                                    staged := List.replicate staged (List.replicate 8 0) } } 0x26

theorem test_sampling_hypotheses :
    State.reset.tap.ir.length = 6 ∧ State.reset.tap.dr.length = 6 ∧ State.reset.boot.porst = true ∧ up.boot.porst = false
    ∧ (∀ e ∈ [(0, 0), (1, 0), (0, 4)],
      let s := sampledTile e.1 e.2
      s.live = true ∧ (s.runningOf (s.tile 0).part).isSome = true ∧ (s.tile 0).running = true ∧ (s.tile 0).stopped = false
      ∧ (s.tile 0).sampler.period ≠ 0 ∧ 0 < (s.tile 0).ninstr
      ∧ (decide ((s.tile 0).sampler.staged.length < 4)
          && decide ((s.tile 0).sampler.buffer.length + (s.tile 0).sampler.staged.length < (s.tile 0).sampler.samplen / 32)) = (e == (0, 0))) := by
  decide +kernel

theorem test_storage_hypotheses :
    SMap.wf 0 ([(3, 5)] : SMap (BitVec 64)) = true ∧ Mem.wf [(1, 5)] = true ∧ (256 : Nat) ^ 2 - 1 < 256 ^ 2 ∧ joined.hbm.wf = true
    ∧ 65535 % 65536 + [(1 : Byte)].length ≤ 65536 ∧ joined.translate 0 65535 true = some (.hbm 65535)
    ∧ (∀ l ∈ State.linesOf 65535 1, l ∉ joined.rel.badHbm) ∧ up.translate 0 0 true = none := by decide +kernel

theorem test_idle_hypotheses : up.pending = [] ∧ (staged 2).boot.porst = false ∧ (staged 2).live = false ∧ State.reset.boot.porst = true := by
  decide +kernel

theorem test_frame_hypotheses : exec (.hbmRefresh 0 0) up = .next up ∧ movesWeir (.hbmRefresh 0 0) = false ∧ up.weir.bounded = true := by
  refine ⟨?_, by decide +kernel, by decide +kernel⟩
  rfl

/-! ### Worked values of the manual -/

def noMode : NMode := { compat := false, zpos := false, ftz32 := false }
def desc (f : Fmt) (es : Nat := 0) (signed : Bool := false) : Desc :=
  { fmt := f, es := es, signed := signed, bsize := 0, bdir := false, esc := false, sat := false }

/-- "Worked bit patterns" of Number Formats: 0x4C00 is 3, and 3 in six formats. -/
theorem test_three : (Val.frac? (positDecode 0x4C00 16 2)).any (fun q => q.num == 3 * (q.den : Int)) = true := by decide +kernel
theorem test_three_encoded :
    encodeVal (desc .posit4) noMode (.fin ⟨3, 1⟩) = { pat := 6, fl := { inx := true } }
    ∧ encodeVal (desc .posit8 2) noMode (.fin ⟨3, 1⟩) = { pat := 0x4C } ∧ encodeVal (desc .e4m3) noMode (.fin ⟨3, 1⟩) = { pat := 0x44 }
    ∧ encodeVal (desc .e2m1) noMode (.fin ⟨3, 1⟩) = { pat := 5 } ∧ encodeVal (desc .int4 0 true) noMode (.fin ⟨3, 1⟩) = { pat := 3 }
    ∧ encodeVal (desc .tern) noMode (.fin ⟨3, 1⟩) = { pat := 1, fl := { ov := true, inx := true } } := by decide +kernel
/-- The same section: 10 in posit4 with es = 1, 0.3 and 0.0146 in E4M3, the flushed input 0x83. -/
theorem test_encoded_examples :
    (encodeVal (desc .posit4 1) noMode (.fin ⟨10, 1⟩)).pat = 7 ∧ (encodeVal (desc .e4m3) noMode (.fin ⟨3, 10⟩)).pat = 0x2A
    ∧ encodeVal (desc .e4m3) noMode (.fin ⟨146, 10000⟩) = { pat := 0, fl := { un := true, inx := true } }
    ∧ decodeElem (desc .e4m3) true 0x83 = .zero true := by decide +kernel
/-- "One block, three scales" of Quantisation: posit8 with es = 2. -/
theorem test_scaled_examples :
    (encodeVal (desc .posit8 2) noMode (.fin ⟨-3 * 2 ^ 18, 1⟩)).pat = 0x82 ∧ (encodeVal (desc .posit8 2) noMode (.fin ⟨1, 2 ^ 10⟩)).pat = 0x0C
    ∧ (encodeVal (desc .posit8 2) noMode (.fin ⟨8000, 1⟩)).pat = 0x79 ∧ (encodeVal (desc .posit8 2) noMode (.fin ⟨-6, 1⟩)).pat = 0xAC
    ∧ (encodeVal (desc .posit8 2) noMode (.fin ⟨1, 2 ^ 50⟩)).pat = 1 := by decide +kernel
/-- The worked quire of Exact Accumulation: both groups' terms, in either order, and the posit8 that Z rounds to. -/
theorem test_worked_quire :
    let c := (({} : Quire).addInt (7 * 2 ^ 314)).addInt (-67 * 2 ^ 317)
    c.q.toInt = -529 * 2 ^ 314 ∧ c.x = 0 ∧ c = (({} : Quire).addInt (-67 * 2 ^ 317)).addInt (7 * 2 ^ 314)
    ∧ encodeVal (desc .posit8 2) noMode (.fin ⟨-529, 64⟩) = { pat := 0xA8, fl := { inx := true } } := by decide +kernel
/-- The check value of R471. -/
theorem test_crc64 : crc64 0 [0x31, 0x32, 0x33, 0x34, 0x35, 0x36, 0x37, 0x38, 0x39] = 0x6C40_DF5F_0B49_7347 := by decide +kernel

/-- R532, R541: the identity of the PF and of a VF, and GLB_IDENT, of the part that State.reset names (log entry 1). -/
theorem test_identity : State.reset.configId 0 = [0x1E45, 0x4816, 0, 0x12_0000, 0x1E45, 0x4816]
    ∧ State.reset.configId 3 = [0xFFFF, 0x48F0, 0, 0x12_0000, 0x1E45, 0x4816]
    ∧ State.reset.barRead 0 0 4 = 0x0100_4816 := by decide +kernel

end Sys2Proof.Tests
end

section
/-! The sparse stores and the byte memories: a canonical store is what its reads say, bytes read back where they were put, and little-endian
bytes and numbers are each other's inverse (R7). -/

namespace Sys2Proof.Machine

/-! ### Numbered stores -/

/-- A place that does not read the default is listed. -/
theorem SMap.mem_of_get_ne {α : Type} {d : α} {m : SMap α} {i : Nat} (h : SMap.get d m i ≠ d) : (i, SMap.get d m i) ∈ m := by
  induction m with
  | nil => exact absurd rfl h
  | cons x m ih =>
    obtain ⟨k, w⟩ := x
    simp only [SMap.get] at h ⊢
    split at h
    · simp [*]
    · split at h
      · exact absurd rfl h
      · simp [*]

/-- In a store whose keys rise, a place reads what is listed for it. -/
theorem SMap.get_of_mem {α : Type} {d : α} {m : SMap α} (hp : m.Pairwise (fun a b => a.1 < b.1)) {e : Nat × α} (he : e ∈ m) :
    SMap.get d m e.1 = e.2 := by
  induction m with
  | nil => cases he
  | cons x m ih =>
    obtain ⟨h1, h2⟩ := List.pairwise_cons.1 hp
    rcases List.mem_cons.1 he with rfl | he
    · simp [SMap.get]
    · have hlt : x.1 < e.1 := h1 e he
      rw [← ih h2 he]
      simp only [SMap.get, if_neg (Nat.ne_of_gt hlt), if_neg (Nat.not_lt_of_gt hlt)]

/-- The entries of a canonical store are its places that do not read the default. -/
theorem SMap.mem_iff_get {α : Type} [DecidableEq α] {d : α} {m : SMap α} (h : SMap.wf d m = true) (e : Nat × α) :
    e ∈ m ↔ e.2 ≠ d ∧ SMap.get d m e.1 = e.2 := by
  obtain ⟨hp, hd⟩ := SMap.wf_iff.1 h
  constructor
  · exact fun he => ⟨hd e he, SMap.get_of_mem hp he⟩
  · rintro ⟨hne, hget⟩
    have hmem := SMap.mem_of_get_ne (m := m) (i := e.1) (d := d) (hget ▸ hne)
    rwa [hget] at hmem

/-- Canonical stores that read alike everywhere are the same. -/
theorem SMap.ext_get {α : Type} [DecidableEq α] {d : α} {m n : SMap α} (hm : SMap.wf d m = true) (hn : SMap.wf d n = true)
    (h : ∀ i, SMap.get d m i = SMap.get d n i) : m = n := by
  have hmem : ∀ e, e ∈ m ↔ e ∈ n := fun e => by rw [SMap.mem_iff_get hm, SMap.mem_iff_get hn, h]
  have hpm := (SMap.wf_iff.1 hm).1
  have hpn := (SMap.wf_iff.1 hn).1
  have hne : ∀ a b : Nat × α, a.1 < b.1 → a ≠ b := fun a b hab he => Nat.ne_of_lt hab (congrArg Prod.fst he)
  have hperm : m.Perm n := (List.perm_ext_iff_of_nodup (hpm.imp (hne _ _)) (hpn.imp (hne _ _))).2 hmem
  exact hperm.eq_of_pairwise (fun a b _ _ hab hba => absurd hba (Nat.lt_asymm hab)) hpm hpn

/-! ### Little-endian bytes (R7) -/

@[simp] theorem leBytes_length (n v : Nat) : (leBytes n v).length = n := by
  induction n generalizing v with
  | zero => rfl
  | succ n ih => simp [leBytes, ih]

/-- The bytes of a value give back what of it they hold. -/
theorem leNat_leBytes (n v : Nat) : leNat (leBytes n v) = v % 256 ^ n := by
  induction n generalizing v with
  | zero => simp [leBytes, leNat, Nat.mod_one]
  | succ n ih =>
    have h8 : (BitVec.ofNat 8 v).toNat = v % 256 := BitVec.toNat_ofNat v 8
    rw [leBytes, leNat, ih, h8, Nat.pow_succ, Nat.mul_comm (256 ^ n) 256, Nat.mod_mul]

theorem leNat_leBytes_of_lt {n v : Nat} (h : v < 256 ^ n) : leNat (leBytes n v) = v := by
  rw [leNat_leBytes, Nat.mod_eq_of_lt h]

/-- Bytes are the bytes of their value. -/
theorem leBytes_leNat (bs : List Byte) : leBytes bs.length (leNat bs) = bs := by
  induction bs with
  | nil => rfl
  | cons b bs ih =>
    have hb : b.toNat < 256 := b.isLt
    have hlow : BitVec.ofNat 8 (b.toNat + 256 * leNat bs) = b := BitVec.eq_of_toNat_eq (by rw [BitVec.toNat_ofNat]; omega)
    have hrest : (b.toNat + 256 * leNat bs) / 256 = leNat bs := by omega
    simp only [List.length_cons, leNat, leBytes, hlow, hrest, ih]

/-! ### Byte memories -/

/-- A byte after a run of bytes has been written: the run's own where it lies, what stood before elsewhere. -/
theorem Mem.byte_setBytes {m : Mem} (h : m.wf = true) (a i : Nat) (bs : List Byte) :
    (m.setBytes a bs).byte i = if a ≤ i ∧ i < a + bs.length then bs.getD (i - a) 0 else m.byte i := by
  induction bs generalizing m a with
  | nil => rw [Mem.setBytes, if_neg (by rw [List.length_nil]; omega)]
  | cons b bs ih =>
    rw [Mem.setBytes, ih (Mem.setByte_wf h a b), Mem.byte_setByte h]
    rcases Nat.lt_trichotomy i a with hlt | rfl | hgt
    · rw [if_neg (by omega), if_neg (by omega), if_neg (by omega)]
    · rw [if_neg (by omega), if_pos rfl, if_pos (by rw [List.length_cons]; omega), Nat.sub_self, List.getD_cons_zero]
    · have hpos : i - a = (i - (a + 1)) + 1 := by omega
      have hin : (a + 1 ≤ i ∧ i < a + 1 + bs.length) ↔ (a ≤ i ∧ i < a + (bs.length + 1)) := by omega
      simp only [hpos, List.getD_cons_succ, if_neg (show ¬ i = a by omega), List.length_cons, hin]

/-- Bytes read back as they were written. -/
theorem Mem.bytes_setBytes {m : Mem} (h : m.wf = true) (a : Nat) (bs : List Byte) : (m.setBytes a bs).bytes a bs.length = bs := by
  refine List.ext_getElem (by simp [Mem.bytes]) fun i hi hi' => ?_
  simp [Mem.bytes, Mem.byte_setBytes h, hi']

/-- Bytes outside a run that is written stay. -/
theorem Mem.byte_setBytes_outside {m : Mem} (h : m.wf = true) {a b : Nat} {bs : List Byte} (hb : b < a ∨ a + bs.length ≤ b) :
    (m.setBytes a bs).byte b = m.byte b := by
  rw [Mem.byte_setBytes h, if_neg (by omega)]

/-- Settles O55: `SMap.get_set`, extensionality of canonical stores, and induction over the bytes of a run. -/
theorem storesAndMemoriesReadBack : Obligations.StoresAndMemoriesReadBack := by
  unfold Obligations.StoresAndMemoriesReadBack
  constructor
  · intro m d hm
    exact ⟨fun i v => by simp [SMap.get_set hm], fun i j v hji => by simp [SMap.get_set hm, hji],
      fun i v => SMap.set_wf hm i v, fun n hn heq => SMap.ext_get hm hn heq⟩
  · intro m a bs hm
    exact ⟨Mem.bytes_setBytes hm a bs, fun b hb => Mem.byte_setBytes_outside hm hb, Mem.setBytes_wf hm a bs,
      fun v hv => leNat_leBytes_of_lt hv, leBytes_leNat bs⟩

end Sys2Proof.Machine
end

section
/-! What the function registers do under the operations that answers and BAR accesses share, and the answer of a mailbox command
(R14, R340, R345, R546, R547). -/

namespace Sys2Proof.Machine

/-! ### A function after a write of it -/

theorem Func.ne_default_of_present {f : Func} (h : f.present = true) : f ≠ {} := by
  rintro rfl; cases h

theorem Func.ne_default_of_done {f : Func} (h : f.mbx.done = true) : f ≠ {} := by
  rintro rfl; cases h

theorem State.func_modFunc_ne {s : State} {fn : Nat} {f : Func → Func} (h : f (s.func fn) ≠ {}) (g : Nat) :
    (s.modFunc fn f).func g = if g = fn then f (s.func fn) else s.func g := State.func_setFunc_ne s h fn g

/-! ### Vectors and status bits (R546, R547) -/

/-- What raising a vector leaves alone. -/
@[simp] theorem Func.raise_fields (f : Func) (v : Nat) :
    (f.raise v).mbx = f.mbx ∧ (f.raise v).bound = f.bound ∧ (f.raise v).irqStatus = f.irqStatus := by
  unfold Func.raise
  split <;> simp

theorem mem_insAsc {x y : Nat} {l : List Nat} : x ∈ insAsc y l ↔ x = y ∨ x ∈ l := by
  induction l with
  | nil => simp [insAsc]
  | cons z l ih =>
    simp only [insAsc]
    split
    · exact List.mem_cons
    · split
      · subst z; simp
      · rw [List.mem_cons, ih, List.mem_cons]
        exact or_left_comm

/-- A raised vector is sent or pending. -/
theorem Func.mem_raise (f : Func) (v : Nat) : v ∈ (f.raise v).sent ∨ v ∈ (f.raise v).pba := by
  unfold Func.raise
  split
  · simp
  · simp [mem_insAsc]

theorem State.func_raise (s : State) (fn v g : Nat) :
    (s.raise fn v).func g = if g = fn then (s.func fn).raise v else s.func g := by
  refine State.func_modFunc_ne (fun h => ?_) g
  have hmem := (s.func fn).mem_raise v
  rw [h] at hmem
  simp at hmem

/-- What setting a status bit does to the registers other than the vectors. -/
@[simp] theorem Func.setIrq_fields (f : Func) (b : Nat) :
    (f.setIrq b).mbx = f.mbx ∧ (f.setIrq b).bound = f.bound ∧ (f.setIrq b).irqStatus = f.irqStatus ||| BitVec.ofNat 3 (2 ^ b) := by
  unfold Func.setIrq
  split <;> simp

/-! ### The answer (R340, R345) -/

/-- The function with its response page written: BUSY clears, DONE and IRQ_STATUS bit 0 set. -/
def Func.posted (f : Func) (page : Mem) : Func :=
  { f with mbx := { f.mbx with resp := page, busy := false, done := true } }.setIrq 0

/-- The function after its answer: the page, and vector 0 unless NOIRQ asks for silence. -/
def Func.answered (f : Func) (page : Mem) (noirq : Bool) : Func := if noirq then f.posted page else (f.posted page).raise 0

theorem State.answer_posted (s : State) (fn op : Nat) (seq : BitVec 16) (ttake : Nat) (noirq : Bool) (a : Ans) :
    s.answer fn op seq ttake noirq a =
      let s1 := s.modFunc fn (·.posted (Mem.setBytes [] 0 (s.responseBytes op seq ttake a)))
      if noirq then s1 else s1.raise fn 0 := rfl

@[simp] theorem Func.posted_fields (f : Func) (page : Mem) :
    (f.posted page).mbx = { f.mbx with resp := page, busy := false, done := true } ∧ (f.posted page).bound = f.bound
      ∧ (f.posted page).irqStatus = f.irqStatus ||| 1 := by
  simp [Func.posted]

@[simp] theorem Func.answered_fields (f : Func) (page : Mem) (noirq : Bool) :
    (f.answered page noirq).mbx = { f.mbx with resp := page, busy := false, done := true } ∧ (f.answered page noirq).bound = f.bound
      ∧ (f.answered page noirq).irqStatus = f.irqStatus ||| 1 := by
  unfold Func.answered
  split <;> simp

theorem State.func_modFunc_posted (s : State) (fn : Nat) (page : Mem) (g : Nat) :
    (s.modFunc fn (·.posted page)).func g = if g = fn then (s.func fn).posted page else s.func g :=
  State.func_modFunc_ne (Func.ne_default_of_done (by simp)) g

/-- An answer changes its function. -/
theorem State.func_answer (s : State) (fn op : Nat) (seq : BitVec 16) (ttake : Nat) (noirq : Bool) (a : Ans) (g : Nat) :
    (s.answer fn op seq ttake noirq a).func g =
      if g = fn then (s.func fn).answered (Mem.setBytes [] 0 (s.responseBytes op seq ttake a)) noirq else s.func g := by
  rw [State.answer_posted]
  cases noirq
  · simp only [Bool.false_eq_true, if_false, State.func_raise, State.func_modFunc_posted, Func.answered, if_true]
    split <;> rfl
  · exact State.func_modFunc_posted s fn _ g

/-- An answer changes nothing but functions. -/
theorem State.answer_eq (s : State) (fn op : Nat) (seq : BitVec 16) (ttake : Nat) (noirq : Bool) (a : Ans) :
    ∃ fs, s.answer fn op seq ttake noirq a = { s with funcs := fs } := by
  unfold State.answer
  cases noirq <;> exact ⟨_, rfl⟩

/-- An interval changes nothing but a partition's histograms. -/
theorem State.interval_eq (s : State) (part kind qual len : Nat) : ∃ ps, s.interval part kind qual len = { s with parts := ps } := by
  unfold State.interval
  dsimp only
  split <;> exact ⟨_, rfl⟩

/-- A request whose function has not been reset, on a device that has not failed, ends with its answer, after the histograms have recorded
its interval. -/
theorem State.respond_answer {s : State} {t : Taken} (a : Ans) (hl : t.lost = false) (hf : s.boot.failed = false) :
    ∃ ps, s.respond t a = ({ s with taken := s.taken.drop 1, parts := ps }).answer t.fn t.opcode t.seq t.time t.noirq a := by
  unfold State.respond State.conclude
  simp only [hl, hf, Bool.or_self, Bool.false_eq_true, if_false]
  split
  · obtain ⟨ps, h⟩ := State.interval_eq { s with taken := s.taken.drop 1 } ‹Nat› 0x04 (t.opcode / 256) (s.time - t.time)
    exact ⟨ps, by rw [h]⟩
  · exact ⟨s.parts, rfl⟩

theorem State.respond_eq {s : State} {t : Taken} (a : Ans) (hl : t.lost = false) (hf : s.boot.failed = false) :
    ∃ ps fs, s.respond t a = { s with taken := s.taken.drop 1, parts := ps, funcs := fs } := by
  obtain ⟨ps, hps⟩ := State.respond_answer a hl hf
  obtain ⟨fs, hfs⟩ := State.answer_eq { s with taken := s.taken.drop 1, parts := ps } t.fn t.opcode t.seq t.time t.noirq a
  exact ⟨ps, fs, hps.trans hfs⟩

theorem State.func_respond {s : State} {t : Taken} (a : Ans) (hl : t.lost = false) (hf : s.boot.failed = false) (g : Nat) :
    (s.respond t a).func g =
      if g = t.fn then (s.func t.fn).answered (Mem.setBytes [] 0 (s.responseBytes t.opcode t.seq t.time a)) t.noirq else s.func g := by
  obtain ⟨ps, hps⟩ := State.respond_answer a hl hf
  rw [hps, State.func_answer]
  rfl

/-! ### The order of the checks (R14) -/

/-- Induction from the end of a list: checks are compared in order, each with the best before it. -/
theorem list_concat_induction {α : Type} {motive : List α → Prop} (nil : motive [])
    (concat : ∀ (l : List α) (a : α), motive l → motive (l ++ [a])) (l : List α) : motive l := by
  rw [← List.reverse_reverse l]
  induction l.reverse with
  | nil => exact nil
  | cons a r ih =>
    rw [List.reverse_cons]
    exact concat _ a ih

theorem firstChk_concat (cs : List Chk) (c : Chk) :
    firstChk (cs ++ [c]) = if c.1 && ((firstChk cs).1 == stOk || Chk.before c.2 (firstChk cs)) then c.2 else firstChk cs := by
  simp [firstChk]

/-- A failure that comes before another has no later status. -/
theorem Chk.rank_le_of_before {a b : Word16 × Nat} (h : Chk.before a b = true) : statusRank a.1 ≤ statusRank b.1 := by
  simp only [Chk.before, Bool.or_eq_true, Bool.and_eq_true, decide_eq_true_eq, beq_iff_eq] at h
  omega

/-- A failure that does not come before another has no earlier status. -/
theorem Chk.rank_le_of_not_before {a b : Word16 × Nat} (h : Chk.before a b = false) : statusRank b.1 ≤ statusRank a.1 := by
  simp only [Chk.before, Bool.or_eq_false_iff, decide_eq_false_iff_not] at h
  omega

/-- Where some check fails, the one reported fails, and no failing check has a status that comes before it. -/
theorem firstChk_some {cs : List Chk} (hst : ∀ c ∈ cs, c.2.1 ≠ stOk) (hfail : ∃ c ∈ cs, c.1 = true) :
    ∃ c ∈ cs, c.1 = true ∧ firstChk cs = c.2 ∧ ∀ d ∈ cs, d.1 = true → statusRank c.2.1 ≤ statusRank d.2.1 := by
  induction cs using list_concat_induction with
  | nil => simp at hfail
  | concat cs c ih =>
    have hst' : ∀ d ∈ cs, d.2.1 ≠ stOk := fun d hd => hst d (by simp [hd])
    rw [firstChk_concat]
    by_cases hbefore : ∃ d ∈ cs, d.1 = true
    · obtain ⟨b, hb, hbf, hfirst, hmin⟩ := ih hst' hbefore
      have hbok : (b.2.1 == stOk) = false := by simpa using hst' b hb
      rw [hfirst, hbok, Bool.false_or]
      cases hc : c.1 && Chk.before c.2 b.2
      · refine ⟨b, by simp [hb], hbf, rfl, fun d hd hdf => ?_⟩
        rcases List.mem_append.1 hd with hd | hd
        · exact hmin d hd hdf
        · obtain rfl := List.mem_singleton.1 hd
          exact Chk.rank_le_of_not_before (by simpa [hdf] using hc)
      · obtain ⟨hcf, hcb⟩ := Bool.and_eq_true_iff.1 hc
        have hle := Chk.rank_le_of_before hcb
        refine ⟨c, by simp, hcf, rfl, fun d hd hdf => ?_⟩
        rcases List.mem_append.1 hd with hd | hd
        · exact Nat.le_trans hle (hmin d hd hdf)
        · exact Nat.le_of_eq (by rw [List.mem_singleton.1 hd])
    · have hnone : ∀ d ∈ cs, d.1 = false := fun d hd => by simpa using fun h => hbefore ⟨d, hd, h⟩
      have hcf : c.1 = true := by
        obtain ⟨d, hd, hdf⟩ := hfail
        rcases List.mem_append.1 hd with hd | hd
        · exact absurd ⟨d, hd, hdf⟩ hbefore
        · rwa [← List.mem_singleton.1 hd]
      rw [firstChk_none hnone]
      refine ⟨c, by simp, hcf, by simp [hcf], fun d hd hdf => ?_⟩
      rcases List.mem_append.1 hd with hd | hd
      · exact absurd ⟨d, hd, hdf⟩ hbefore
      · exact Nat.le_of_eq (by rw [List.mem_singleton.1 hd])

/-- Settles O2: an answer changes its function alone (`State.func_answer`) besides the taken requests and the histograms, and the checks
are compared one by one (`firstChk_some`). -/
theorem answersAndTheirStatus : Obligations.AnswersAndTheirStatus := by
  unfold Obligations.AnswersAndTheirStatus
  constructor
  · intro s t a hl hf
    obtain ⟨ps, fs, hu⟩ := State.respond_eq a hl hf
    have hself := State.func_respond a hl hf t.fn
    rw [if_pos rfl] at hself
    dsimp only
    rw [hself]
    refine ⟨by rw [hu], by simp, by simp, ?_, by simp, by simp, by simp, fun g hg => ?_, by simp [hu]⟩
    · have hlen : (if a.st = stOk then a.res else []).length = if a.st = stOk then a.res.length else 0 := by split <;> rfl
      simp [State.responseBytes, hlen]
    · rw [State.func_respond a hl hf, if_neg hg]
  · exact fun cs hst => ⟨fun hnone => firstChk_none hnone, fun hfail => firstChk_some hst hfail⟩

end Sys2Proof.Machine
end

section
/-! The registers of a function's BAR (R8, R538 to R550): what one write of them does, register by register. -/

namespace Sys2Proof.Machine

/-! ### Functions that answer accesses -/

@[simp] theorem State.when_true (s : State) (f : State → State) : s.when true f = f s := rfl

@[simp] theorem State.when_false (s : State) (f : State → State) : s.when false f = s := rfl

theorem Func.present_of_reach {f : Func} (h : f.reach = true) : f.present = true := (Bool.and_eq_true_iff.1 h).1

/-- A function that is present before and after a change reads as the change leaves it. -/
theorem State.func_modFunc_present {s : State} {fn : Nat} {f : Func → Func} (h : (f (s.func fn)).present = true) :
    (s.modFunc fn f).func fn = f (s.func fn) := by
  rw [State.func_modFunc_ne (Func.ne_default_of_present h), if_pos rfl]

/-- Counting a write changes no function, no lock of debug and no test control. -/
@[simp] theorem State.barWrite_fields (s : State) :
    s.barWrite.func = s.func ∧ s.barWrite.sec = s.sec ∧ s.barWrite.tele.tstOn = s.tele.tstOn ∧ s.barWrite.badKind = s.badKind :=
  ⟨rfl, rfl, rfl, rfl⟩

/-! ### What a write does to a function -/

/-- Vectors alone change when pending messages go out. -/
@[simp] theorem Func.unmask_present (f : Func) (v : Nat) : (f.unmask v).present = f.present := by
  unfold Func.unmask Func.release
  split <;> rfl

@[simp] theorem Func.unmask_vecOpen (f : Func) (v : Nat) : (f.unmask v).vecOpen = insAsc v f.vecOpen := by
  unfold Func.unmask Func.release
  split <;> rfl

/-- With Bus Master Enable, an unmasked vector that was pending is sent and no longer pending. -/
theorem Func.unmask_sends {f : Func} {v : Nat} (hb : f.bme = true) (hp : v ∈ f.pba) : v ∈ (f.unmask v).sent ∧ v ∉ (f.unmask v).pba := by
  simp [Func.unmask, Func.release, hb, hp, mem_insAsc]

@[simp] theorem Func.badAcc_fields (f : Func) (offset kind : Nat) :
    (f.badAcc offset kind).present = f.present ∧ (f.badAcc offset kind).scratch = f.scratch := by
  unfold Func.badAcc
  split <;> exact ⟨rfl, rfl⟩

/-- The first bad access stands until it is cleared (R539, R543). -/
theorem Func.badAcc_badAccess (f : Func) (offset kind : Nat) :
    (f.badAcc offset kind).badAccess = some (f.badAccess.getD (BitVec.ofNat 24 offset, BitVec.ofNat 2 kind)) := by
  unfold Func.badAcc
  split <;> simp [*]

/-! ### Values of a write -/

/-- A write that covers a register gives it the bytes that lie on it. -/
theorem overlay_covered {v n base offset : Nat} {bs : List Byte} (hlo : offset ≤ base) (hhi : base + n ≤ offset + bs.length) :
    overlay v n base offset bs = leNat ((bs.drop (base - offset)).take n) := by
  unfold overlay
  congr 1
  have hlen : (leBytes n v).zipIdx.length = ((bs.drop (base - offset)).take n).length := by
    rw [List.length_zipIdx, leBytes_length, List.length_take, List.length_drop]
    omega
  refine List.ext_getElem (by rw [List.length_map, hlen]) fun i hi hi' => ?_
  have hin : i < n := by simpa using hi
  simp only [List.getElem_map, List.getElem_zipIdx, List.getElem_take, List.getElem_drop, Nat.zero_add]
  rw [if_pos ⟨by omega, by omega⟩, List.getD_eq_getElem?_getD, List.getElem?_eq_getElem (by omega), Option.getD_some]
  congr 1
  omega

theorem leNat_leBytes_toNat (v : BitVec 32) : leNat (leBytes 4 v.toNat) = v.toNat := leNat_leBytes_of_lt v.isLt

/-! ### Single writes and reads -/

theorem exec_glbTimeRead {s : State} {fn : Nat} (hr : (s.func fn).reach = true) :
    exec (.glbTimeRead fn) s = .next (s.modFunc fn (fun f => { f with timeHi := BitVec.ofNat 32 (s.time / 2 ^ 32) })) := by
  simp only [exec, execGlbTimeRead, hr, State.when_true]

theorem exec_glbBadaccessClear {s : State} {fn : Nat} (hr : (s.func fn).reach = true) :
    exec (.glbBadaccessClear fn) s = .next (s.barWrite.modFunc fn (fun f => { f with badAccess := none })) := by
  simp only [exec, execGlbBadaccessClear, hr, State.when_true, State.clearBad, Nat.testBit_two_pow_self]

theorem exec_irqStatusClear {s : State} {fn : Nat} (hr : (s.func fn).reach = true) (v : BitVec 32) :
    exec (.irqStatusClear fn v) s = .next (s.barWrite.clearIrq fn v.toNat) := by
  simp only [exec, execIrqStatusClear, hr, State.when_true]

theorem exec_msixUnmask {s : State} {fn vec : Nat} (hr : (s.func fn).reach = true) (hv : vec < vectorsOf fn) :
    exec (.msixUnmask fn vec) s = .next (s.barWrite.modFunc fn (·.unmask vec)) := by
  simp only [exec, execMsixUnmask, hr, hv, decide_true, Bool.and_self, State.when_true]

theorem exec_tstCtlWrite {s : State} (hr : (s.func 0).reach = true) (v : BitVec 32) :
    exec (.tstCtlWrite 0 v) s = .next (s.barWrite.writeTst 0 v.toNat) := by
  simp only [exec, execTstCtlWrite, hr, beq_self_eq_true, Bool.and_self, State.when_true]

/-- A bad access is recorded, and counted where it is a write. -/
theorem exec_barBadAccess {s : State} {fn offset size k : Nat} {write : Bool} (hr : (s.func fn).reach = true)
    (hk : s.badKind fn offset size write = some k) :
    exec (.barBadAccess fn offset size write) s = .next ((if write then s.barWrite else s).modFunc fn (·.badAcc offset k)) := by
  simp only [exec, execBarBadAccess, hr, State.when_true, hk]

theorem State.func_clearIrq {s : State} {fn : Nat} (hp : (s.func fn).present = true) (v : BitVec 32) :
    (s.clearIrq fn v.toNat).func fn = { s.func fn with irqStatus := (s.func fn).irqStatus &&& ~~~ v.setWidth 3 } := by
  have hv : BitVec.ofNat 3 v.toNat = v.setWidth 3 := by simp
  unfold State.clearIrq
  rw [State.func_modFunc_present hp, hv]

/-! ### Writes of a range -/

/-- A write that is no bad access and lies in a region of registers: what acts on being written, then what is stored. -/
theorem exec_registerWrite_regs {s : State} {fn offset : Nat} {bs : List Byte} (hr : (s.func fn).reach = true) (hbs : bs ≠ [])
    (hk : s.badKind fn offset bs.length true = none) (hreg : inRegs offset = true) :
    exec (.registerWrite fn offset bs) s = .next ((s.barWrite.actWrite fn offset bs).plainWrite fn offset bs) := by
  have hoff : offset < 0x3000 ∨ 0x2_0000 ≤ offset := by
    simp only [inRegs, Bool.or_eq_true, Bool.and_eq_true, decide_eq_true_eq] at hreg
    omega
  have hpage : ¬ (0x1_0000 ≤ offset ∧ offset < 0x1_1000) := by omega
  have htable : ¬ (0x4000 ≤ offset ∧ offset < 0x6000) := by omega
  have hne : bs.isEmpty = false := by simpa using hbs
  simp only [exec, execRegisterWrite, hr, hne, Bool.not_false, Bool.and_self, State.when_true, State.barWrite_fields, hk, if_neg hpage,
    if_neg htable, if_pos hreg]

/-- A write of the request page lands there (R339). -/
theorem exec_registerWrite_request {s : State} {fn i : Nat} {bs : List Byte} (hr : (s.func fn).reach = true) (hbs : bs ≠ [])
    (hlen : i + bs.length ≤ 4096) (hk : s.badKind fn (0x1_0000 + i) bs.length true = none) :
    exec (.registerWrite fn (0x1_0000 + i) bs) s =
      .next (s.barWrite.modFunc fn (fun f => { f with mbx := { f.mbx with req := f.mbx.req.setBytes i bs } })) := by
  have hpos : 0 < bs.length := List.length_pos_iff.2 hbs
  have hne : bs.isEmpty = false := by simpa using hbs
  have hpage : 0x1_0000 ≤ 0x1_0000 + i ∧ 0x1_0000 + i < 0x1_1000 := by omega
  have htake : bs.take (0x1_1000 - (0x1_0000 + i)) = bs := List.take_of_length_le (by omega)
  simp only [exec, execRegisterWrite, hr, hne, Bool.not_false, Bool.and_self, State.when_true, State.barWrite_fields, hk, if_pos hpage,
    htake, Nat.add_sub_cancel_left]

/-- A write of SCRATCH alone. -/
theorem exec_registerWrite_scratch {s : State} {fn : Nat} {bs : List Byte} (hr : (s.func fn).reach = true) (hlen : bs.length = 8) :
    exec (.registerWrite fn 0x28 bs) s = .next (s.barWrite.modFunc fn (fun f => { f with scratch := BitVec.ofNat 64 (leNat bs) })) := by
  have hk : s.badKind fn 0x28 bs.length true = none := by rw [hlen]; rfl
  have hval : ∀ v, overlay v 8 0x28 0x28 bs = leNat bs := fun v => by
    rw [overlay_covered (Nat.le_refl _) (by omega), Nat.sub_self, List.drop_zero, List.take_of_length_le (by omega)]
  rw [exec_registerWrite_regs hr (by rintro rfl; cases hlen) hk rfl]
  simp [State.actWrite, State.plainWrite, touches, hlen, hval]

/-- An 8-byte write of IRQ_STATUS and IRQ_ENABLE clears bits of the one and stores the other. -/
theorem exec_registerWrite_irq {s : State} {fn : Nat} (hr : (s.func fn).reach = true) (st en : BitVec 32) :
    exec (.registerWrite fn 0x1000 (leBytes 4 st.toNat ++ leBytes 4 en.toNat)) s =
      .next ((s.barWrite.clearIrq fn st.toNat).modFunc fn (fun f =>
        { f with irqEnable := en.setWidth 3 &&& (if fn = 0 then 6 else 2) })) := by
  have hlen : (leBytes 4 st.toNat ++ leBytes 4 en.toNat).length = 8 := by simp
  have hk : s.badKind fn 0x1000 (leBytes 4 st.toNat ++ leBytes 4 en.toNat).length true = none := by rw [hlen]; rfl
  have hst : ∀ v, overlay v 4 0x1000 0x1000 (leBytes 4 st.toNat ++ leBytes 4 en.toNat) = st.toNat := fun v => by
    rw [overlay_covered (by decide) (by omega), Nat.sub_self, List.drop_zero, List.take_left' (leBytes_length _ _), leNat_leBytes_toNat]
  have hen : ∀ v, overlay v 4 0x1004 0x1000 (leBytes 4 st.toNat ++ leBytes 4 en.toNat) = en.toNat := fun v => by
    rw [overlay_covered (by decide) (by omega), List.drop_left' (leBytes_length _ _), List.take_of_length_le (by simp), leNat_leBytes_toNat]
  rw [exec_registerWrite_regs hr (by rw [ne_eq, ← List.length_eq_zero_iff]; omega) hk rfl]
  simp [State.actWrite, State.plainWrite, touches, hlen, hst, hen]

theorem State.writeTst_unlocked {s : State} (h : s.sec.unlocked = true) (v : BitVec 32) :
    (s.writeTst 0 v.toNat).tele.tstOn = v.getLsbD 0 := by
  simp only [State.writeTst, h, ne_eq, not_true_eq_false, if_false, if_true]
  rfl

theorem State.writeTst_locked {s : State} (h : s.sec.unlocked = false) (v : Nat) :
    s.writeTst 0 v = s.modFunc 0 (·.badAcc 0x03_0000 3) := by
  simp [State.writeTst, h]

/-- Settles O52, register by register: each access is one change of its function (or of TST_CTL), which reads back because a function that
answers accesses is present. -/
theorem barRegistersBehave : Obligations.BarRegistersBehave := by
  unfold Obligations.BarRegistersBehave
  intro s fn hr
  have hp : (s.func fn).present = true := Func.present_of_reach hr
  have hpw : (s.barWrite.func fn).present = true := hp
  refine ⟨exec_glbTimeRead hr, ⟨_, exec_glbBadaccessClear hr, ?_⟩, fun v => ⟨_, exec_irqStatusClear hr v, ?_⟩,
    fun vec hv => ⟨_, exec_msixUnmask hr hv, ?_⟩, ?_, fun offset size write k hk => ⟨_, exec_barBadAccess hr hk, ?_⟩,
    fun bs hlen => ⟨_, exec_registerWrite_scratch hr hlen, ?_⟩, fun st en => ⟨_, exec_registerWrite_irq hr st en, ?_⟩,
    fun i bs hbs hlen hk => ⟨_, exec_registerWrite_request hr hbs hlen hk, ?_⟩⟩
  case refine_1 => -- GLB_BADACCESS
    rw [State.func_modFunc_present hpw]
    exact ⟨rfl, rfl⟩
  case refine_2 => -- IRQ_STATUS
    rw [State.func_clearIrq hpw]
    exact ⟨rfl, rfl⟩
  case refine_3 => -- MSI-X
    rw [State.func_modFunc_present (by simpa using hpw)]
    exact ⟨by simp [mem_insAsc], fun hb hpend => Func.unmask_sends hb hpend⟩
  case refine_4 => -- TST_CTL
    rintro v rfl
    refine ⟨fun hu => ⟨_, exec_tstCtlWrite hr v, State.writeTst_unlocked (s := s.barWrite) hu v⟩,
      fun hl hnone => ⟨_, exec_tstCtlWrite hr v, ?_⟩⟩
    rw [State.writeTst_locked (s := s.barWrite) hl]
    refine ⟨rfl, ?_⟩
    rw [State.func_modFunc_present (by simpa using hpw), Func.badAcc_badAccess, (State.barWrite_fields s).1, hnone]
    rfl
  case refine_5 => -- a bad access
    have hfunc : (if write then s.barWrite else s).func = s.func := by split <;> rfl
    rw [State.func_modFunc_present (by simpa [hfunc] using hp), hfunc]
    refine ⟨by simp, ?_⟩
    rw [Func.badAcc_badAccess]
    cases (s.func fn).badAccess <;> rfl
  case refine_6 => -- SCRATCH
    rw [State.func_modFunc_present hpw]
    exact ⟨rfl, rfl⟩
  case refine_7 => -- IRQ_STATUS and IRQ_ENABLE
    have hclear := State.func_clearIrq hpw st
    rw [State.func_modFunc_present (by rw [hclear]; exact hp), hclear]
    exact ⟨rfl, rfl⟩
  case refine_8 => -- the request page
    rw [State.func_modFunc_present hpw]
    exact ⟨rfl, rfl⟩

end Sys2Proof.Machine
end

section
/-! COLLECTIVE packets (R442, R443, R449): the checks of one that is accepted, and what it does. -/

namespace Sys2Proof.Machine

/-! ### Packets whose checks all hold -/

theorem firstFail_concat (cs : List (Bool × Word16)) (c : Bool × Word16) :
    firstFail (cs ++ [c]) = if c.1 && (firstFail cs == stOk || statusRank c.2 < statusRank (firstFail cs)) then c.2 else firstFail cs := by
  simp [firstFail]

/-- Checks that all hold name no failure. -/
theorem firstFail_none {cs : List (Bool × Word16)} (h : ∀ c ∈ cs, c.1 = false) : firstFail cs = stOk := by
  induction cs using list_concat_induction with
  | nil => rfl
  | concat cs c ih =>
    rw [firstFail_concat, h c (by simp), Bool.false_and, if_neg Bool.false_ne_true, ih (fun d hd => h d (by simp [hd]))]

theorem State.run_live {s : State} (h : s.live = true) (f : State → State) : s.run f = .next (f s) := by
  simp [State.run, h]

/-- What `presents` says, part by part. -/
theorem presents_cases {s : State} {p : Packet} {type : Nat} (h : s.presents p type = true) :
    s.live = true ∧ s.frontPacket p.queue p.seq type = some p ∧ ∀ k ∈ s.headerChecks p, k.1 = false := by
  simp only [State.presents, Bool.and_eq_true, beq_iff_eq] at h
  obtain ⟨⟨⟨hlive, hfront⟩, hhead⟩, hsig⟩ := h
  refine ⟨hlive, hfront, fun k hk => ?_⟩
  simp only [State.headerChecks, List.mem_cons, List.not_mem_nil, or_false] at hk
  rcases hk with rfl | rfl
  · simp [hhead]
  · cases hq : pSig p.words
    · rfl
    · simpa [hq] using hsig

/-! ### The seven operations -/

/-- The row of each operation runs the packet of that operation. -/
theorem exec_collective {op : Nat} {i : Instr} {q : Nat} {seq : BitVec 32} {s : State} (hlive : s.live = true)
    (h : (op, i) ∈ [(0, Instr.allreduce q seq), (1, Instr.reduce q seq), (2, Instr.broadcast q seq), (3, Instr.allgather q seq),
      (4, Instr.reducescatter q seq), (5, Instr.barrier q seq), (6, Instr.smreduce q seq)]) :
    exec i s = .next (s.collPacket q seq op) := by
  rw [← State.run_live hlive (·.collPacket q seq op)]
  simp only [List.mem_cons, List.not_mem_nil, or_false, Prod.mk.injEq] at h
  rcases h with ⟨rfl, rfl⟩ | ⟨rfl, rfl⟩ | ⟨rfl, rfl⟩ | ⟨rfl, rfl⟩ | ⟨rfl, rfl⟩ | ⟨rfl, rfl⟩ | ⟨rfl, rfl⟩ <;> rfl

/-! ### The checks of R442 and R443 -/

/-- The fields that must be zero for the operation are zero (R443). -/
theorem collZeros_true {op root src dst count me : Nat} (hroot : root = 0 ∨ op = 1 ∨ op = 2)
    (hbarrier : op = 5 → src = 0 ∧ dst = 0 ∧ count = 0) (hdst : op = 1 → me ≠ root → dst = 0) (hsrc : op = 2 → me ≠ root → src = 0) :
    ((root == 0 || op == 1 || op == 2) && (op != 5 || (src == 0 && dst == 0 && count == 0))
      && (op != 1 || some me == some root || (some me).isNone || dst == 0)
      && (op != 2 || some me == some root || (some me).isNone || src == 0)) = true := by
  simp only [Bool.and_eq_true, Bool.or_eq_true, beq_iff_eq, bne_iff_ne, Option.isNone_some, Option.some.injEq, Bool.false_eq_true, or_false,
    or_assoc, and_assoc]
  exact ⟨hroot, Decidable.not_or_of_imp hbarrier, Decidable.not_or_of_imp fun h => Decidable.or_iff_not_imp_left.2 (hdst h),
    Decidable.not_or_of_imp fun h => Decidable.or_iff_not_imp_left.2 (hsrc h)⟩

/-- The checks of the header, the fields and the communicator. -/
theorem collFirst_none {cs : List (Bool × Word16)} {inMasks zeros owned : Bool} (hhead : ∀ k ∈ cs, k.1 = false) (hm : inMasks = true)
    (hz : zeros = true) (ho : owned = true) :
    ∀ k ∈ cs ++ [(!inMasks || !zeros, stBadOpcode), (!owned, stNotPermitted)], k.1 = false := by
  subst hm hz ho
  simpa [or_imp, forall_and] using hhead

/-- The checks of the ranges that the operation has. -/
theorem collRanges_none {op n : Nat} {useDst : Bool} {srcs dsts : List (Bool × Word16)}
    (hsrcs : op ≠ 5 → n ≠ 0 → ∀ k ∈ srcs, k.1 = false) (hdsts : op ≠ 5 → useDst = true → ∀ k ∈ dsts, k.1 = false) :
    ∀ k ∈ if op = 5 then [] else (if n = 0 then [] else srcs) ++ (if useDst then dsts else []), k.1 = false := by
  intro k hk
  by_cases h5 : op = 5
  · simp [h5] at hk
  rw [if_neg h5] at hk
  rcases List.mem_append.1 hk with hk | hk
  · by_cases hn : n = 0
    · simp [hn] at hk
    · exact hsrcs h5 hn k (by simpa [hn] using hk)
  · cases useDst
    · cases hk
    · exact hdsts h5 rfl k hk

/-- The checks of spaces, alignment, lengths, overlap and groups. -/
theorem collLast_none {op src dst count root me n limit : Nat} {c : Comm} {red useDst cross slots : Bool} {sm : Word16} (hroot : root < c.nmem)
    (hspace : red = false → op ≠ 5 → useDst = true → daSpace dst ≠ 2)
    (hred : red = true → src % 128 = 0 ∧ (useDst = true → dst % 128 = 0) ∧ 96 * count ≤ limit)
    (hdiv : op = 4 → count % c.nmem = 0) (hcross : useDst = true → n ≠ 0 → cross = false) (hslots : slots = true) (hsm : sm = stOk) :
    ∀ k ∈ [(!red && op != 5 && (daSpace dst == 2 && useDst), stNotPermitted),
      (red && (src % 128 != 0 || (useDst && dst % 128 != 0)), stBadAlign),
      (((some c).isSome && decide (c.nmem ≤ root)) || (op == 4 && count % c.nmem != 0)
        || (red && decide (limit < 96 * count)), stBadLength),
      ((some c).isNone || (some me).isNone || (useDst && n != 0 && cross) || !slots, stConflict),
      (sm != stOk, sm)], k.1 = false := by
  intro k hk
  simp only [List.mem_cons, List.not_mem_nil, or_false] at hk
  rcases hk with rfl | rfl | rfl | rfl | rfl
  · -- the space of DST
    cases red
    · by_cases h5 : op = 5
      · simp [h5]
      · cases useDst
        · simp
        · simp [hspace rfl h5 rfl]
    · rfl
  · -- alignment
    cases red
    · rfl
    · obtain ⟨hs, hd, _⟩ := hred rfl
      cases useDst <;> simp [hs, hd]
  · -- ROOT, COUNT and the staging area
    have hrank : decide (c.nmem ≤ root) = false := by simpa using hroot
    have hmod : (op == 4 && count % c.nmem != 0) = false := by simpa using hdiv
    have hlong : (red && decide (limit < 96 * count)) = false := by
      cases red
      · rfl
      · exact decide_eq_false (Nat.not_lt.2 (hred rfl).2.2)
    simp only [hrank, hmod, hlong, Bool.and_false, Bool.or_self]
  · -- overlap and groups
    have hover : (useDst && n != 0 && cross) = false := by
      cases useDst
      · rfl
      · by_cases hn : n = 0
        · simp [hn]
        · simp [hcross rfl hn]
    simp [hover, hslots]
  · simp [hsm]

/-- The slots of a destination in Cisterns lie in one OPEN group, where it is one (R442). -/
theorem collSlots_true {s : State} {a : Agent} {dst n op : Nat} {red useDst : Bool}
    (h : red = true → op ≠ 6 → useDst = true → daSpace dst = 2 → ∀ t sl, s.cisternAt a dst = some (t, sl) →
      oneOpenGroup (s.tile t) sl n = true) :
    (if red && op != 6 && useDst && daSpace dst == 2 then
      (match s.cisternAt a dst with
       | some (t, sl) => oneOpenGroup (s.tile t) sl n
       | none => true)
     else true) = true := by
  split
  · next hcase =>
    simp only [Bool.and_eq_true, bne_iff_ne, beq_iff_eq] at hcase
    obtain ⟨⟨⟨hr, h6⟩, hu⟩, hsp⟩ := hcase
    split
    · exact h hr h6 hu hsp _ _ ‹_›
    · rfl
  · rfl

/-- Settles O19: every check of the packet holds, so the first failing one is none, and the packet ends at once (count 0) or joins. -/
theorem collectivePacketsExecute : Obligations.CollectivePacketsExecute := by
  unfold Obligations.CollectivePacketsExecute
  intro s p op i hi hpres hop hmask c me
  obtain ⟨hlive, hfront, hhead⟩ := presents_cases hpres
  dsimp only
  intro hown hcomm hme hroot hbarrier hdst hsrc
  have hfirst := collFirst_none hhead hmask (collZeros_true hroot hbarrier hdst hsrc) hown
  rw [exec_collective hlive hi]
  unfold State.collPacket
  constructor
  · intro hc h5
    simp only [hfront, hop, ne_eq, not_true_eq_false, if_false, hown, if_true, hcomm, hme, hc, h5, not_false_eq_true, and_self] at hfirst ⊢
    rw [firstFail_none hfirst]
  · intro hcount hbroken hrank hsrcs hdsts hspace hred hdiv hcross hslots row0 rows cols hsm
    generalize hext : State.collExtents op (word p.words 9) c.nmem me (bits (word p.words 4) 12 12) = ext at *
    have huse : (ext.2 != 0 && !(op == 2 && addr48 p.words 7 == 0)) = true ↔ ext.2 ≠ 0 ∧ ¬ (op = 2 ∧ addr48 p.words 7 = 0) := by
      simp only [Bool.and_eq_true, bne_iff_ne, Bool.not_eq_true', ← Bool.not_eq_true, beq_iff_eq]
    rw [← huse] at hdsts hspace hred hcross hslots
    simp only [hfront, hop, ne_eq, not_true_eq_false, if_false, hown, if_true, hcomm, hme, hsm, Option.getD_some, hext] at hfirst ⊢
    rw [if_neg (by rcases hcount with h | h <;> simp [h]), if_neg (fun h => absurd h.1 (by decide)), firstFail_none ?checks]
    case checks =>
      exact List.forall_mem_append.2 ⟨List.forall_mem_append.2 ⟨hfirst, collRanges_none hsrcs hdsts⟩,
        collLast_none hrank hspace hred hdiv hcross (collSlots_true hslots) rfl⟩
    rw [if_neg (by decide), if_neg hbroken]

end Sys2Proof.Machine
end

section
/-! What an event record changes (R320 to R324), and the partition and Jet set commands (R34, R190, R358, R359). -/

namespace Sys2Proof.Machine

/-! ### What an event record leaves alone -/

/-- The state without what an event record and the write of its ring entry may change: memories and tiles, functions (vectors), queues,
telemetry, and the lines that a write repairs. -/
def State.besideEvents (s : State) : State :=
  { s with funcs := [], queues := [], tiles := [], hbm := [], hostMem := [], tele := {}, rel := { s.rel with badHbm := [] } }

/-- The parts of a state that its `besideEvents` shows. -/
theorem State.besideEvents_fields {s u : State} (h : u.besideEvents = s.besideEvents) :
    u.boot = s.boot ∧ u.jet = s.jet ∧ u.links = s.links ∧ u.rel.log = s.rel.log :=
  ⟨(congrArg State.boot h :), (congrArg State.jet h :), (congrArg State.links h :), (congrArg (·.rel.log) h :)⟩

theorem State.setQueue_besideEvents (s : State) (i : Nat) (q : Queue) : (s.setQueue i q).besideEvents = s.besideEvents := rfl

theorem State.raise_besideEvents (s : State) (fn v : Nat) : (s.raise fn v).besideEvents = s.besideEvents := rfl

theorem foldl_besideEvents {α : Type} {f : State → α → State} (h : ∀ s a, (f s a).besideEvents = s.besideEvents) (l : List α) (s : State) :
    (l.foldl f s).besideEvents = s.besideEvents := by
  induction l generalizing s with
  | nil => rfl
  | cons a l ih => rw [List.foldl_cons, ih, h]

theorem State.countHbm_besideEvents (s : State) (event pa n : Nat) : (s.countHbm event pa n).besideEvents = s.besideEvents := by
  unfold State.countHbm
  split
  · rfl
  · exact foldl_besideEvents (fun _ _ => by rfl) _ s

theorem State.put_besideEvents (s : State) (p : Place) (bs : List Byte) : (s.put p bs).besideEvents = s.besideEvents := by
  cases p with
  | hbm pa =>
    calc (s.put (.hbm pa) bs).besideEvents
      _ = { (s.countHbm 2 pa bs.length).besideEvents with rel := s.besideEvents.rel } := rfl
      _ = s.besideEvents := by rw [State.countHbm_besideEvents]
  | tile sp ph off => rfl
  | host fn a =>
    unfold State.put
    dsimp only
    split <;> rfl

theorem State.putAll_besideEvents (s : State) (ps : List (Place × Nat)) (bs : List Byte) :
    (s.putAll ps bs).besideEvents = s.besideEvents := by
  induction ps generalizing s bs with
  | nil => rfl
  | cons p ps ih => rw [State.putAll, ih, State.put_besideEvents]

theorem State.storeOrLose_besideEvents (s : State) (a : Agent) (da : Nat) (bs : List Byte) :
    (s.storeOrLose a da bs).besideEvents = s.besideEvents := by
  unfold State.storeOrLose State.store
  cases s.places a da bs.length true with
  | none => rfl
  | some ps =>
    cases hbar : State.barOf s.writeBar ps with
    | none => simp only [hbar, State.putAll_besideEvents]
    | some w => simp only [hbar]

theorem State.writeRecord_besideEvents (s : State) (q : Nat) (bs : List Byte) : (s.writeRecord q bs).besideEvents = s.besideEvents := by
  unfold State.writeRecord
  dsimp only
  split
  · rw [State.raise_besideEvents, State.setQueue_besideEvents, State.storeOrLose_besideEvents]
  · rw [State.setQueue_besideEvents, State.storeOrLose_besideEvents]

theorem State.pushRecord_besideEvents (s : State) (q : Nat) (bs : List Byte) : (s.pushRecord q bs).besideEvents = s.besideEvents := by
  unfold State.pushRecord
  dsimp only
  split
  · rfl
  · split
    · exact State.setQueue_besideEvents s q _
    · exact State.writeRecord_besideEvents s q bs

/-- An event for a function changes nothing but what the write of its record changes. -/
theorem State.eventTo_besideEvents (s : State) (fn code source : Nat) (status : Word16) (d0 d1 : Nat) :
    (s.eventTo fn code source status d0 d1).besideEvents = s.besideEvents := by
  unfold State.eventTo
  split
  · rfl
  · exact State.pushRecord_besideEvents s _ _

/-! ### Moving granules (R34, R358) -/

/-- PART_ASSIGN whose checks hold moves the granules of its descriptor and answers how many tiles the target binds. -/
theorem exec_partAssign {s : State} {t : Taken} {p : Nat}
    (h : s.asks t p { op := 0x0110, who := .pf, plen := 68, masks := 15 :: descMasks } = true)
    (hmove : ∀ k ∈ s.moveChks (t.w 8) (t.desc 9), k.1 = false) :
    exec (.partAssign t.fn) s = .next ((s.moveGranules (t.w 8) (t.desc 9)).respond t
      (okWords [((s.moveGranules (t.w 8) (t.desc 9)).part (t.w 8)).bind.length])) := by
  change execPartAssign t.fn s = _
  unfold execPartAssign
  rw [run_command_of_asks h rfl (by decide) (by decide) rfl hmove rfl]

/-- PART_DESTROY of a partition other than 0 to which no function is bound, whose checks hold, moves its granules to partition 0. -/
theorem exec_partDestroy {s : State} {t : Taken} {p : Nat} (h : s.asks t p { op := 0x0111, who := .pf, plen := 4, masks := [15] } = true)
    (hne : t.w 8 ≠ 0) (hfree : s.boundFuncs (t.w 8) = [])
    (hmove : ∀ k ∈ s.moveChks 0 ({ s.part (t.w 8) with spare := 0 } : Part), k.1 = false) :
    exec (.partDestroy t.fn) s = .next ((s.moveGranules 0 ({ s.part (t.w 8) with spare := 0 } : Part)).respond t ok) := by
  change execPartDestroy t.fn s = _
  unfold execPartDestroy
  rw [run_command_of_asks h rfl (by decide) (by decide) rfl ?checks rfl]
  case checks =>
    dsimp only
    rw [if_neg hne]
    exact List.forall_mem_cons.2 ⟨by simp [hne, hfree], hmove⟩

/-! ### Function bindings (R359) -/

/-- The pages that FUNC_BIND assigns: each is one of the partition, and of no other function. -/
theorem bindPages_false {s : State} {q f mask : Nat}
    (h : ∀ g, g < 32 → mask.testBit g = true → (s.part q).hasPage g = true ∧ ∀ o, s.pageOwner g = some o → o = f) :
    (List.range 32).any (fun g => mask.testBit g
      && (!(s.part q).hasPage g || (match s.pageOwner g with | some o => o != f | none => false))) = false := by
  rw [List.any_eq_false]
  intro g hg
  by_cases hbit : mask.testBit g = true
  · obtain ⟨hpage, howner⟩ := h g (List.mem_range.1 hg) hbit
    rw [hpage]
    cases ho : s.pageOwner g with
    | none => simp
    | some o => simp [howner o ho]
  · simp [hbit]

/-- FUNC_BIND whose checks hold binds the function and assigns it the pages named. -/
theorem exec_funcBind {s : State} {t : Taken} {p : Nat} (h : s.asks t p funcBindCmd = true) (hbind : (t.w 8).testBit 12 = false)
    (hfn : t.w 8 % 128 ≤ 64) (hheld : (s.part (bits (t.w 8) 8 4)).held = true)
    (hpages : ∀ g, g < 32 → (t.w 9).testBit g = true → (s.part (bits (t.w 8) 8 4)).hasPage g = true
      ∧ ∀ o, s.pageOwner g = some o → o = t.w 8 % 128) (hidle : s.funcBusy (t.w 8 % 128) t.fn = false) :
    exec (.funcBind t.fn) s = .next (((s.modFunc (t.w 8 % 128) (fun f => { f with bound := some (bits (t.w 8) 8 4) })).assignPages
      (t.w 8 % 128) (t.w 9)).respond t ok) := by
  change execFuncBind t.fn s = _
  unfold execFuncBind
  rw [run_command_of_asks h rfl (by decide) (by decide) (by rw [hbind]; rfl) ?checks rfl]
  case checks =>
    have hlow : decide (64 < t.w 8 % 128) = false := decide_eq_false (Nat.not_lt.2 hfn)
    intro k hk
    simp only [List.mem_cons, List.not_mem_nil, or_false] at hk
    rcases hk with rfl | rfl | rfl | rfl
    · exact hlow
    · simp [hheld]
    · exact bindPages_false hpages
    · exact hidle

/-- FUNC_BIND with UNBIND whose checks hold releases the function and its pages. -/
theorem exec_funcUnbind {s : State} {t : Taken} {p : Nat} (h : s.asks t p funcBindCmd = true) (hunbind : (t.w 8).testBit 12 = true)
    (hfn : t.w 8 % 128 ≤ 64) (hpart : bits (t.w 8) 8 4 = 0) (hmask : t.w 9 = 0) (hidle : s.funcBusy (t.w 8 % 128) t.fn = false) :
    exec (.funcUnbind t.fn) s = .next (((s.modFunc (t.w 8 % 128) (fun f => { f with bound := none })).assignPages
      (t.w 8 % 128) 0).respond t ok) := by
  change execFuncUnbind t.fn s = _
  unfold execFuncUnbind
  rw [run_command_of_asks h rfl (by decide) (by decide) hunbind ?checks rfl]
  case checks =>
    have hlow : decide (64 < t.w 8 % 128) = false := decide_eq_false (Nat.not_lt.2 hfn)
    intro k hk
    simp only [List.mem_cons, List.not_mem_nil, or_false] at hk
    rcases hk with rfl | rfl | rfl
    · simp [hlow, hpart]
    · simp [hmask]
    · exact hidle

/-! ### Jet sets (R190) -/

/-- What can be read now is read. -/
theorem State.load_of_canRead {s : State} {a : Agent} {da n : Nat} (h : s.canRead a da n = true) :
    ∃ r, s.load a da n = .ok r := by
  unfold State.canRead at h
  unfold State.load
  cases hp : s.places a da n false with
  | none => simp [hp] at h
  | some ps =>
    have hbar : State.barOf s.readBar ps = none := by simpa [hp] using h
    exact ⟨s.fetchAll ps, by simp only [hbar]⟩

/-- The set of an image serves, and its digest is the measured one. -/
def State.withJet (s : State) (b : JetImage) : State := { s with jet := JetImage.set b, boot := { s.boot with jetdig := sha384 b } }

/-- Event 0x0103 for every function: the version that serves, and one before it (R190). -/
def State.tellJet (s : State) (old : Word32) : State :=
  s.funcs.foldl (fun u f => u.eventTo f.1 0x0103 0 stOk s.jet.version.toNat old.toNat) s

theorem State.tellJet_besideEvents (s : State) (old : Word32) : (s.tellJet old).besideEvents = s.besideEvents :=
  foldl_besideEvents (fun s _ => State.eventTo_besideEvents s _ _ _ _ _ _) _ s

/-- JETSET_LOAD of an image that is read and accepted puts its set in service and tells every function. -/
theorem exec_jetsetLoad {s s1 : State} {t : Taken} {p : Nat} {b : List Byte}
    (h : s.asks t p { op := 0x0103, who := .pf, plen := 12, masks := [m32, 0xFFFF, 0x1_FFFF] } = true) (hp : s.actsOn t = some p)
    (hread : s.readable (cmdAgent t p) (t.addr 8) (t.w 10) false = true) (halign : t.addr 8 % 64 = 0)
    (hload : s.load (cmdAgent t p) (t.addr 8) (t.w 10) = .ok (s1, b)) (hjet : ∀ k ∈ s.jetChks b, k.1 = false) :
    exec (.jetsetLoad t.fn) s = .next (((s1.withJet b).tellJet s1.jet.version).respond t (okWords [(JetImage.set b).version.toNat])) := by
  change execJetsetLoad t.fn s = _
  unfold execJetsetLoad
  rw [run_command_of_asks h rfl (by decide) (by decide) rfl ?checks ?now] <;> simp only [hp, Option.getD_some, hload]
  case checks =>
    rw [if_pos hread]
    refine List.forall_mem_cons.2 ⟨by simp [hread], List.forall_mem_cons.2 ⟨by simp [halign], hjet⟩⟩
  case now => rfl
  rfl

/-- Settles O4: each command by its own equation, and the events of a load leave the set, its digest, the links and the fault log as the
load left them (`State.tellJet_besideEvents`). -/
theorem partitionAndJetsetCommandsExecute : Obligations.PartitionAndJetsetCommandsExecute := by
  unfold Obligations.PartitionAndJetsetCommandsExecute
  constructor
  · exact fun s t p => ⟨exec_partAssign, exec_partDestroy, exec_funcBind, exec_funcUnbind⟩
  · intro s t p hasks hp hread halign hcan
    obtain ⟨⟨s1, b⟩, hload⟩ := State.load_of_canRead hcan
    refine ⟨s1, b, hload, fun hjet => ⟨_, exec_jetsetLoad hasks hp hread halign hload hjet, ?_⟩⟩
    obtain ⟨hboot, hset, hlinks, hlog⟩ := State.besideEvents_fields (State.tellJet_besideEvents (s1.withJet b) s1.jet.version)
    exact ⟨hset, congrArg Boot.jetdig hboot, hlinks, hlog⟩

end Sys2Proof.Machine
end

section
/-! The partition after reset (R30, R36). -/

namespace Sys2Proof.Machine

theorem bitOf_allOnes {n i : Nat} (h : i < n) : bitOf (BitVec.allOnes n) i = true := by
  simp [bitOf, h]

/-- The granule bitmaps of the whole partition, every bit set (R36). -/
theorem Part.whole_granules :
    Part.whole.tblk = BitVec.allOnes 16 ∧ Part.whole.sluice = BitVec.allOnes 32 ∧ Part.whole.dbpage = BitVec.allOnes 32
      ∧ Part.whole.syncgrp = BitVec.allOnes 32 ∧ Part.whole.slotgrp = BitVec.allOnes 16 ∧ Part.whole.commgrp = BitVec.allOnes 16
      ∧ Part.whole.cst = List.replicate 4 (BitVec.allOnes 16) ∧ Part.whole.hbm = BitVec.allOnes 192 := by decide

theorem Part.whole_bind : Part.whole.bind = List.range 256 := by rw [Part.whole]

theorem State.reset_part (p : Nat) : State.reset.part p = if p = 0 then Part.whole else {} := by
  simp [State.part, State.reset, SMap.get]

theorem State.reset_func (n : Nat) : State.reset.func n = if n = 0 then { present := true, bound := some 0 } else {} := by
  simp [State.func, State.reset, SMap.get]

/-- No array is disabled after reset. -/
theorem State.reset_arrayOn (ph : Nat) : (State.reset.tile ph).arrayOn = true := rfl

/-- Settles O48: every granule bitmap of `Part.whole` is all ones, and with every array enabled R30 binds the tiles in their order. -/
theorem wholePartitionAfterReset : Obligations.WholePartitionAfterReset := by
  unfold Obligations.WholePartitionAfterReset
  obtain ⟨htile, hengine, hpage, hsync, hslot, hcomm, hcst, hhbm⟩ := Part.whole_granules
  rw [State.reset_part 0, if_pos rfl]
  refine ⟨fun p hp => by rw [State.reset_part, if_neg hp], rfl, fun ph hph => ?_, fun i hi => ?_, fun i hi => ⟨?_, ?_⟩,
    fun e he => ⟨?_, ?_⟩, fun d i hd hi => ?_, fun g hg => ?_, ?_, rfl, rfl, fun n hn => by rw [State.reset_func, if_neg hn]⟩
  · rw [Part.hasTile, htile, bitOf_allOnes (by omega)]
  · rw [Part.hasSync, hsync, bitOf_allOnes (by omega), decide_eq_true hi]; rfl
  · rw [Part.hasSlot, hslot, bitOf_allOnes (by omega), decide_eq_true hi]; rfl
  · rw [Part.hasComm, hcomm, bitOf_allOnes (by omega), decide_eq_true hi]; rfl
  · rw [Part.hasEngine, hengine, bitOf_allOnes he, decide_eq_true he]; rfl
  · rw [Part.hasPage, hpage, bitOf_allOnes he, decide_eq_true he]; rfl
  · have hrow : (List.replicate 4 (BitVec.allOnes 16)).getD d 0 = BitVec.allOnes 16 := by
      rw [List.getD_eq_getElem?_getD, List.getElem?_replicate, if_pos hd, Option.getD_some]
    rw [Part.hasCst, hcst, hrow, bitOf_allOnes (by omega), decide_eq_true hi]; rfl
  · rw [hhbm, bitOf_allOnes hg]
  · rw [Part.whole_bind, List.filter_eq_self.2 (fun ph _ => State.reset_arrayOn ph),
      List.filter_eq_nil_iff.2 (fun ph _ => by simp [State.reset_arrayOn]), List.append_nil]

end Sys2Proof.Machine
end

section
/-! The values of posit patterns (R45, R48). -/

namespace Sys2Proof.Machine

theorem Frac.scale2_natCast (a : Frac) (k : Nat) : a.scale2 k = ⟨a.num * 2 ^ k, a.den⟩ := by
  simp [Frac.scale2]

theorem Frac.scale2_neg_natCast (a : Frac) (k : Nat) : a.scale2 (-(k : Int)) = ⟨a.num, a.den * 2 ^ k⟩ := by
  cases k with
  | zero => simp [Frac.scale2]
  | succ k =>
    have hneg : ¬ 0 ≤ -((k + 1 : Nat) : Int) := by omega
    rw [Frac.scale2, if_neg hneg, Int.neg_neg, Int.toNat_natCast]

/-- A positive pattern with a regime of `m` bits `r` that leaves none for the exponent and the fraction is a power of `2 ^ 2 ^ es` (R45). -/
theorem positDecode_regimeOnly {p n m : Nat} {r : Bool} (es : Nat) (hpos : 0 < p) (hlt : p < 2 ^ (n - 1))
    (hr : p.testBit (n - 2) = r) (hm : regimeRun p r (n - 2) = m) (hfull : n ≤ m + 2) :
    positDecode p n es = .fin (Frac.scale2 ⟨1, 1⟩ ((if r then (m : Int) - 1 else -m) * 2 ^ es)) := by
  have hmod : p % 2 ^ n = p := Nat.mod_eq_of_lt (Nat.lt_of_lt_of_le hlt (Nat.pow_le_pow_right Nat.two_pos n.pred_le))
  have hleft : n - 1 - m - 1 = 0 := by omega
  simp [positDecode, hmod, Nat.ne_of_gt hpos, Nat.ne_of_lt hlt, Nat.testBit_lt_two_pow hlt, hr, hm, hleft, Nat.mod_one]

/-- The two's complement of a positive pattern decodes to the negated value (R45). -/
theorem positDecode_twosComplement {p n es : Nat} {v : Frac} (hpos : 0 < p) (hlt : p < 2 ^ (n - 1))
    (hv : positDecode p n es = .fin v) : positDecode (2 ^ n - p) n es = .fin v.neg := by
  have hn : 0 < n := Nat.pos_of_ne_zero (by rintro rfl; simp at hlt; omega)
  have hhalf : 2 ^ (n - 1) + 2 ^ (n - 1) = 2 ^ n := Nat.two_pow_pred_add_two_pow_pred hn
  have hmod : p % 2 ^ n = p := Nat.mod_eq_of_lt (by omega)
  have hmod' : (2 ^ n - p) % 2 ^ n = 2 ^ n - p := Nat.mod_eq_of_lt (by omega)
  have hsign : (2 ^ n - p).testBit (n - 1) = true := by
    rw [Nat.testBit_eq_decide_div_mod_eq, Nat.div_eq_of_lt_le (k := 1) (by omega) (by omega)]; rfl
  have hzero : 2 ^ n - p ≠ 0 := by omega
  have hnar : 2 ^ n - p ≠ 2 ^ (n - 1) := by omega
  have hback : 2 ^ n - (2 ^ n - p) = p := by omega
  simp only [positDecode, hmod, Nat.ne_of_gt hpos, Nat.ne_of_lt hlt, Nat.testBit_lt_two_pow hlt, if_false, Bool.false_eq_true, Val.fin.injEq] at hv
  simp only [positDecode, hmod', hzero, hnar, hsign, hback, if_true, if_false, hv]

theorem positDecode_posit3_zero (es : Nat) : positDecode 0 3 es = .zero false := rfl

theorem positDecode_posit3_nar (es : Nat) : positDecode 4 3 es = .nar := rfl

/-- The regime `01` of posit3 scales by `2 ^ -2 ^ es`. -/
theorem positDecode_posit3_minpos (es : Nat) : positDecode 1 3 es = .fin ⟨1, 2 ^ 2 ^ es⟩ := by
  have hscale := Frac.scale2_neg_natCast ⟨1, 1⟩ (2 ^ es)
  rw [positDecode_regimeOnly (m := 1) (r := false) es (by decide) (by decide) rfl rfl (by decide)]
  simpa using hscale

theorem positDecode_posit3_one (es : Nat) : positDecode 2 3 es = .fin ⟨1, 1⟩ := by
  rw [positDecode_regimeOnly (m := 1) (r := true) es (by decide) (by decide) rfl rfl (by decide)]
  simp [Frac.scale2]

/-- The regime `11` of posit3 scales by `2 ^ 2 ^ es`. -/
theorem positDecode_posit3_maxpos (es : Nat) : positDecode 3 3 es = .fin ⟨2 ^ 2 ^ es, 1⟩ := by
  have hscale := Frac.scale2_natCast ⟨1, 1⟩ (2 ^ es)
  rw [positDecode_regimeOnly (m := 2) (r := true) es (by decide) (by decide) rfl rfl (by decide)]
  simpa using hscale

/-- Settles O22: the three positive patterns are all regime, and each negative one is the two's complement of one of them. -/
theorem posit3Patterns : Obligations.Posit3Patterns := by
  unfold Obligations.Posit3Patterns
  intro same es _
  have hminpos := positDecode_posit3_minpos es
  have hone := positDecode_posit3_one es
  have hmaxpos := positDecode_posit3_maxpos es
  have hnegMax : positDecode 5 3 es = _ := positDecode_twosComplement (by decide) (by decide) hmaxpos
  have hnegOne : positDecode 6 3 es = _ := positDecode_twosComplement (by decide) (by decide) hone
  have hnegMin : positDecode 7 3 es = _ := positDecode_twosComplement (by decide) (by decide) hminpos
  refine ⟨positDecode_posit3_zero es, positDecode_posit3_nar es, ?_⟩
  rw [hminpos, hone, hmaxpos, hnegMax, hnegOne, hnegMin]
  simp [same, Frac.neg, Nat.two_pow_pos]

end Sys2Proof.Machine
end

section
/-! Additions into a quire: how a total stands in Q and X, that sums within range are exact, and that they come to the same in any order
(R79, R80, R81). -/

namespace Sys2Proof.Machine

/-! ### Q and X of a total (R79) -/

/-- What of a total goes to X, before the limits of X are looked at. -/
def Quire.high (z : Int) : Int := (z - (BitVec.ofInt 640 z).toInt) / 2 ^ 640

theorem natCast_two_pow (n : Nat) : ((2 ^ n : Nat) : Int) = 2 ^ n := Int.natCast_pow 2 n

theorem two_pow_dvd_sub_toInt_ofInt (w : Nat) (z : Int) : (2 ^ w : Int) ∣ z - (BitVec.ofInt w z).toInt := by
  have hdvd : ((2 ^ w : Nat) : Int) ∣ z - z.bmod (2 ^ w) := Int.dvd_self_sub_bmod
  rw [BitVec.toInt_ofInt]
  rwa [natCast_two_pow] at hdvd

/-- The low 640 bits, signed, and the rest are the whole. -/
theorem Quire.low_add_high (z : Int) : (BitVec.ofInt 640 z).toInt + Quire.high z * 2 ^ 640 = z := by
  rw [Quire.high, Int.ediv_mul_cancel (two_pow_dvd_sub_toInt_ofInt 640 z)]
  omega

theorem two_pow_640 : (2 : Int) ^ 640 = 2 * 2 ^ 639 := Int.pow_succ' 2 639

theorem two_pow_702 : (2 : Int) ^ 702 = 2 ^ 63 * 2 ^ 639 := Int.pow_add 2 63 639

theorem two_pow_703 : (2 : Int) ^ 703 = 2 ^ 64 * 2 ^ 639 := Int.pow_add 2 64 639

theorem toInt_640_bounds (q : BitVec 640) : -2 ^ 639 ≤ q.toInt ∧ q.toInt < 2 ^ 639 := ⟨BitVec.le_toInt q, BitVec.toInt_lt⟩

/-- Numbers that are `m` apart and a remainder below half of `m`: where the number lies says where its multiple of `m` does. -/
theorem le_iff_of_remainder {z q x m h : Int} (hsplit : q + x * m = z) (hm : m = 2 * h) (hlo : -h ≤ q) (hhi : q < h) (k : Int) :
    k ≤ x ↔ k * m - h ≤ z := by
  have hpos : 0 ≤ m := by omega
  constructor
  · intro hk
    have hmul : k * m ≤ x * m := Int.mul_le_mul_of_nonneg_right hk hpos
    omega
  · intro hz
    refine Int.not_lt.1 fun hlt => ?_
    have hmul : (x + 1) * m ≤ k * m := Int.mul_le_mul_of_nonneg_right hlt hpos
    rw [Int.add_mul, Int.one_mul] at hmul
    omega

theorem Quire.le_high_iff_mul (z k : Int) : k ≤ Quire.high z ↔ k * 2 ^ 640 - 2 ^ 639 ≤ z :=
  have ⟨hlo, hhi⟩ := toInt_640_bounds (BitVec.ofInt 640 z)
  le_iff_of_remainder (Quire.low_add_high z) two_pow_640 hlo hhi k

/-- A total lies above the lower limit where what goes to X does. -/
theorem Quire.le_high_iff (z : Int) : -2 ^ 63 ≤ Quire.high z ↔ -(2 ^ 703) - 2 ^ 639 ≤ z := by
  rw [Quire.le_high_iff_mul, two_pow_640, two_pow_703]
  omega

/-- A total lies below the upper limit where what goes to X does. -/
theorem Quire.high_lt_iff (z : Int) : Quire.high z < 2 ^ 63 ↔ z < 2 ^ 703 - 2 ^ 639 := by
  rw [← Int.not_le, Quire.le_high_iff_mul, Int.not_le, two_pow_640, two_pow_703]
  omega

/-- The totals that Q and X can hold (R79). -/
def Quire.holds (z : Int) : Prop := -(2 ^ 703) - 2 ^ 639 ≤ z ∧ z < 2 ^ 703 - 2 ^ 639

/-- Whatever is below 2^702 in magnitude can be held. -/
theorem Quire.holds_of_natAbs_lt {z : Int} (h : z.natAbs < 2 ^ 702) : Quire.holds z := by
  have habs : (z.natAbs : Int) < 2 ^ 63 * 2 ^ 639 := by
    rw [← two_pow_702, ← natCast_two_pow]
    exact Int.ofNat_lt.2 h
  rw [Quire.holds, two_pow_703]
  generalize (2 : Int) ^ 639 = half at *
  omega

/-- `store` of a total that can be held splits it and leaves the rest of the quire. -/
theorem Quire.store_of_holds {z : Int} (h : Quire.holds z) (c : Quire) :
    c.store z = { c with q := BitVec.ofInt 640 z, x := BitVec.ofInt 64 (Quire.high z) } := by
  have hlo : ¬ Quire.high z < -(2 ^ 63) := Int.not_lt.2 ((Quire.le_high_iff z).2 h.1)
  have hhi : ¬ 2 ^ 63 - 1 < Quire.high z := by
    have := (Quire.high_lt_iff z).2 h.2
    omega
  exact (if_neg hlo).trans (if_neg hhi)

/-- Above the limit X holds its greatest value (R79). -/
theorem Quire.store_of_high {z : Int} (h : 2 ^ 703 - 2 ^ 639 ≤ z) (c : Quire) :
    c.store z = { c with q := BitVec.ofInt 640 z, x := BitVec.intMax 64, ovx := true } := by
  have hhigh : ¬ Quire.high z < 2 ^ 63 := fun hlt => Int.not_lt.2 h ((Quire.high_lt_iff z).1 hlt)
  have hlo : ¬ Quire.high z < -(2 ^ 63) := by omega
  have hhi : 2 ^ 63 - 1 < Quire.high z := by omega
  exact (if_neg hlo).trans (if_pos hhi)

/-- Below the limit X holds its least value (R79). -/
theorem Quire.store_of_low {z : Int} (h : z < -(2 ^ 703) - 2 ^ 639) (c : Quire) :
    c.store z = { c with q := BitVec.ofInt 640 z, x := BitVec.intMin 64, ovx := true } :=
  if_pos (Int.not_le.1 fun hle => Int.not_le.2 h ((Quire.le_high_iff z).1 hle))

/-- A total that can be held reads back. -/
theorem Quire.total_store {z : Int} (h : Quire.holds z) (c : Quire) : (c.store z).total = z := by
  have hx : (BitVec.ofInt 64 (Quire.high z)).toInt = Quire.high z :=
    BitVec.toInt_ofInt_eq_self (by decide) ((Quire.le_high_iff z).2 h.1) ((Quire.high_lt_iff z).2 h.2)
  rw [Quire.store_of_holds h, Quire.total]
  simp only [hx]
  exact Quire.low_add_high z

theorem ofInt_two_pow (w : Nat) : BitVec.ofInt w (2 ^ w) = 0#w := by
  rw [← natCast_two_pow, BitVec.ofInt_natCast]
  exact BitVec.eq_of_toNat_eq (by rw [BitVec.toNat_ofNat, Nat.mod_self]; rfl)

/-- Q is the total modulo 2^640. -/
theorem Quire.ofInt_total (c : Quire) : BitVec.ofInt 640 c.total = c.q := by
  rw [Quire.total, BitVec.ofInt_add, BitVec.ofInt_mul, ofInt_two_pow, BitVec.ofInt_toInt, BitVec.mul_zero, BitVec.add_zero]

/-- An addition adds to Q modulo 2^640 whatever becomes of X (R79). -/
theorem Quire.ofInt_total_add (c : Quire) (t : Int) : BitVec.ofInt 640 (c.total + t) = c.q + BitVec.ofInt 640 t := by
  rw [BitVec.ofInt_add, Quire.ofInt_total]

/-! ### Additions (R79) -/

theorem Quire.addInt_of_ovx {c : Quire} (h : c.ovx = true) (t : Int) : c.addInt t = c := if_pos h

theorem Quire.addInt_eq {c : Quire} (h : c.ovx = false) (t : Int) : c.addInt t = c.store (c.total + t) :=
  if_neg (by simp [h])

/-- Whatever a quire holds is a total that Q and X can hold. -/
theorem Quire.holds_total (c : Quire) : Quire.holds c.total := by
  obtain ⟨hqlo, hqhi⟩ := toInt_640_bounds c.q
  have hxlo : -2 ^ 63 ≤ c.x.toInt := BitVec.le_toInt c.x
  have hxhi : c.x.toInt < 2 ^ 63 := BitVec.toInt_lt
  have hlo := le_iff_of_remainder (z := c.total) rfl two_pow_640 hqlo hqhi (-2 ^ 63)
  have hhi := le_iff_of_remainder (z := c.total) rfl two_pow_640 hqlo hqhi (2 ^ 63)
  rw [two_pow_640] at hlo hhi
  rw [Quire.holds, two_pow_703]
  generalize (2 : Int) ^ 639 = h at *
  omega

/-- The X of a total is the one it is put together from. -/
theorem Quire.high_total (c : Quire) : Quire.high c.total = c.x.toInt := by
  have hpos : (2 : Int) ^ 640 ≠ 0 := Int.pow_ne_zero (by decide)
  have hrest : c.q.toInt + c.x.toInt * 2 ^ 640 - c.q.toInt = c.x.toInt * 2 ^ 640 := by omega
  rw [Quire.high, Quire.ofInt_total, Quire.total, hrest, Int.mul_ediv_cancel _ hpos]

/-- An addition of nothing leaves the quire. -/
theorem Quire.addInt_zero (c : Quire) : c.addInt 0 = c := by
  cases hovx : c.ovx with
  | true => exact Quire.addInt_of_ovx hovx 0
  | false =>
    rw [Quire.addInt_eq hovx, Int.add_zero, Quire.store_of_holds c.holds_total, Quire.ofInt_total, Quire.high_total, BitVec.ofInt_toInt]

/-- An addition within range splits the exact sum and leaves the rest of the quire. -/
theorem Quire.addInt_of_holds {c : Quire} {t : Int} (hovx : c.ovx = false) (h : Quire.holds (c.total + t)) :
    c.addInt t = { c with q := BitVec.ofInt 640 (c.total + t), x := BitVec.ofInt 64 (Quire.high (c.total + t)) } := by
  rw [Quire.addInt_eq hovx, Quire.store_of_holds h]

/-- The total rises by exactly the term. -/
theorem Quire.total_addInt {c : Quire} {t : Int} (hovx : c.ovx = false) (h : Quire.holds (c.total + t)) :
    (c.addInt t).total = c.total + t := by
  rw [Quire.addInt_eq hovx, Quire.total_store h]

theorem Quire.ovx_addInt {c : Quire} {t : Int} (hovx : c.ovx = false) (h : Quire.holds (c.total + t)) : (c.addInt t).ovx = false := by
  rw [Quire.addInt_of_holds hovx h]
  exact hovx

theorem Quire.addInt_of_high {c : Quire} {t : Int} (hovx : c.ovx = false) (h : 2 ^ 703 - 2 ^ 639 ≤ c.total + t) :
    c.addInt t = { c with q := c.q + BitVec.ofInt 640 t, x := BitVec.intMax 64, ovx := true } := by
  rw [Quire.addInt_eq hovx, Quire.store_of_high h, Quire.ofInt_total_add]

theorem Quire.addInt_of_low {c : Quire} {t : Int} (hovx : c.ovx = false) (h : c.total + t < -(2 ^ 703) - 2 ^ 639) :
    c.addInt t = { c with q := c.q + BitVec.ofInt 640 t, x := BitVec.intMin 64, ovx := true } := by
  rw [Quire.addInt_eq hovx, Quire.store_of_low h, Quire.ofInt_total_add]

/-- The three cases of a sum: within range, above it, below it. -/
theorem Quire.holds_or (z : Int) : Quire.holds z ∨ 2 ^ 703 - 2 ^ 639 ≤ z ∨ z < -(2 ^ 703) - 2 ^ 639 := by
  rcases Int.lt_or_le z (-(2 ^ 703) - 2 ^ 639) with hlow | hlo
  · exact .inr (.inr hlow)
  · rcases Int.lt_or_le z (2 ^ 703 - 2 ^ 639) with hhi | hhigh
    · exact .inl ⟨hlo, hhi⟩
    · exact .inr (.inl hhigh)

/-- An addition writes Q, X and OVX alone. -/
@[simp] theorem Quire.addInt_fields (c : Quire) (t : Int) :
    (c.addInt t).firstk = c.firstk ∧ (c.addInt t).snan = c.snan ∧ (c.addInt t).snar = c.snar ∧ (c.addInt t).spinf = c.spinf
    ∧ (c.addInt t).sninf = c.sninf := by
  cases hovx : c.ovx with
  | true =>
    rw [Quire.addInt_of_ovx hovx]
    and_intros <;> rfl
  | false =>
    rcases Quire.holds_or (c.total + t) with h | h | h
    · rw [Quire.addInt_of_holds hovx h]
      and_intros <;> rfl
    · rw [Quire.addInt_of_high hovx h]
      and_intros <;> rfl
    · rw [Quire.addInt_of_low hovx h]
      and_intros <;> rfl

/-- What `store` answers depends on no Q and X that stood before. -/
theorem Quire.store_store {z : Int} (h : Quire.holds z) (c : Quire) (z' : Int) : (c.store z).store z' = c.store z' := by
  rw [Quire.store_of_holds h]
  simp only [Quire.store]

/-- While the first sum is within range, two additions are one of the sum of their terms. -/
theorem Quire.addInt_addInt {c : Quire} {a : Int} (hovx : c.ovx = false) (h : Quire.holds (c.total + a)) (b : Int) :
    (c.addInt a).addInt b = c.addInt (a + b) := by
  rw [Quire.addInt_eq (Quire.ovx_addInt hovx h), Quire.total_addInt hovx h, Quire.addInt_eq hovx, Quire.store_store h, Int.add_assoc,
    ← Quire.addInt_eq hovx]

/-! ### Special bits and FIRSTK (R80) -/

theorem toNat_minK (a b : BitVec 48) : (minK a b).toNat = min a.toNat b.toNat := by
  rw [minK]
  split <;> omega

theorem minK_right_comm (a b c : BitVec 48) : minK (minK a b) c = minK (minK a c) b :=
  BitVec.eq_of_toNat_eq (by simp only [toNat_minK, Nat.min_right_comm])

/-- The reset value of FIRSTK is its greatest. -/
theorem minK_allOnes (a : BitVec 48) : minK a 0xFFFF_FFFF_FFFF = a :=
  if_pos (by have := a.isLt; simp; omega)

/-- Special bits and FIRSTK combine in any order. -/
theorem Quire.orSpecial_right_comm (c a b : Quire) : (c.orSpecial a).orSpecial b = (c.orSpecial b).orSpecial a := by
  simp only [Quire.orSpecial, minK_right_comm c.firstk a.firstk, Bool.or_right_comm _ a.snan, Bool.or_right_comm _ a.snar,
    Bool.or_right_comm _ a.spinf, Bool.or_right_comm _ a.sninf]

/-- Q and X on the one hand, special bits and FIRSTK on the other do not meet. -/
theorem Quire.addInt_orSpecial (c s : Quire) (t : Int) : (c.orSpecial s).addInt t = (c.addInt t).orSpecial s := by
  cases hovx : c.ovx with
  | true => rw [Quire.addInt_of_ovx hovx, Quire.addInt_of_ovx (c := c.orSpecial s) hovx]
  | false =>
    rcases Quire.holds_or (c.total + t) with h | h | h
    · rw [Quire.addInt_of_holds hovx h, Quire.addInt_of_holds (c := c.orSpecial s) hovx h]
      rfl
    · rw [Quire.addInt_of_high hovx h, Quire.addInt_of_high (c := c.orSpecial s) hovx h]
      rfl
    · rw [Quire.addInt_of_low hovx h, Quire.addInt_of_low (c := c.orSpecial s) hovx h]
      rfl

/-! ### Terms in any order (R80, R81) -/

/-- What both a term and a merged quire do to a quire: they add a number and bring special bits and a FIRSTK. -/
def Quire.absorb (c : Quire) (t : Int) (s : Quire) : Quire := (c.addInt t).orSpecial s

theorem Quire.absorb_of_holds {c : Quire} {t : Int} (hovx : c.ovx = false) (h : Quire.holds (c.total + t)) (s : Quire) :
    (c.absorb t s).ovx = false ∧ (c.absorb t s).total = c.total + t :=
  ⟨Quire.ovx_addInt hovx h, Quire.total_addInt hovx h⟩

theorem Quire.absorb_right_comm {c : Quire} {a b : Int} (hovx : c.ovx = false) (ha : Quire.holds (c.total + a))
    (hb : Quire.holds (c.total + b)) (s r : Quire) : (c.absorb a s).absorb b r = (c.absorb b r).absorb a s := by
  simp only [Quire.absorb, Quire.addInt_orSpecial]
  rw [Quire.addInt_addInt hovx ha, Quire.addInt_addInt hovx hb, Int.add_comm a b, Quire.orSpecial_right_comm]

theorem natAbs_add_budget (a b : Int) (n : Nat) : (a + b).natAbs + n ≤ a.natAbs + (b.natAbs + n) := by omega

/-- Whatever of a budget of magnitudes has been added, the sum is within range. -/
theorem Quire.holds_of_budget {c : Quire} {t : Int} {n : Nat} (h : c.total.natAbs + (t.natAbs + n) < 2 ^ 702) : Quire.holds (c.total + t) :=
  Quire.holds_of_natAbs_lt (Nat.lt_of_le_of_lt (Nat.le_trans (Nat.le_add_right _ n) (natAbs_add_budget ..)) h)

/-- The order of what a quire absorbs does not matter while all the magnitudes together leave OVX clear. -/
theorem Quire.foldl_absorb_perm {α : Type} (term : α → Int) (marks : α → Quire) {l m : List α} (hperm : l.Perm m) {c : Quire}
    (hovx : c.ovx = false) (hsum : c.total.natAbs + (l.map (fun e => (term e).natAbs)).sum < 2 ^ 702) :
    l.foldl (fun q e => q.absorb (term e) (marks e)) c = m.foldl (fun q e => q.absorb (term e) (marks e)) c := by
  induction hperm generalizing c with
  | nil => rfl
  | @cons e rest _ _ ih =>
    rw [List.map_cons, List.sum_cons] at hsum
    obtain ⟨hovx', htotal⟩ := Quire.absorb_of_holds hovx (Quire.holds_of_budget hsum) (marks e)
    have hle := natAbs_add_budget c.total (term e) (List.map (fun e => (term e).natAbs) rest).sum
    rw [← htotal] at hle
    exact ih hovx' (Nat.lt_of_le_of_lt hle hsum)
  | swap e d l =>
    simp only [List.map_cons, List.sum_cons] at hsum
    have hd : Quire.holds (c.total + term d) := Quire.holds_of_budget hsum
    rw [Nat.add_left_comm (term d).natAbs] at hsum
    have he : Quire.holds (c.total + term e) := Quire.holds_of_budget hsum
    simp only [List.foldl_cons, Quire.absorb_right_comm hovx hd he]
  | trans hlm _ ihl ihm =>
    exact (ihl hovx hsum).trans (ihm hovx ((hlm.map (fun e => (term e).natAbs)).sum_nat ▸ hsum))

/-- The units of 2^-320 that a value adds to a quire (R79). -/
def Val.units : Val → Int
  | .fin x => (x.scale2 320).num / ((x.scale2 320).den : Int)
  | .zero _ | .nan | .nar | .inf _ => 0

/-- The special bits that a value sets in a quire, with the reduction index that goes with them (R81). -/
def Val.marks (k : Nat) : Val → Quire
  | .zero _ | .fin _ => {}
  | .nan => { snan := true, firstk := BitVec.ofNat 48 k }
  | .nar => { snar := true, firstk := BitVec.ofNat 48 k }
  | .inf false => { spinf := true, firstk := BitVec.ofNat 48 k }
  | .inf true => { sninf := true, firstk := BitVec.ofNat 48 k }

/-- A quire without special bits brings none. -/
theorem Quire.orSpecial_cleared (c : Quire) : c.orSpecial {} = c := by
  simp only [Quire.orSpecial, Bool.or_false, minK_allOnes]

/-- A term is absorbed: its units are added, its special bit and its index combined. -/
theorem Quire.addVal_eq_absorb (c : Quire) (v : Val) (k : Nat) : c.addVal v k = c.absorb v.units (v.marks k) := by
  match v with
  | .fin x => rw [Quire.absorb, Val.marks, Quire.orSpecial_cleared]; rfl
  | .zero _ => rw [Quire.absorb, Val.marks, Val.units, Quire.orSpecial_cleared, Quire.addInt_zero]; rfl
  | .nan | .nar | .inf false | .inf true =>
    rw [Quire.absorb, Val.units, Quire.addInt_zero]
    simp [Quire.addVal, Val.marks, Quire.orSpecial]

/-- Settles O20: the three cases of `store`, and terms that commute as long as their magnitudes together leave OVX clear. -/
theorem quireAdditionIsExactInAnyOrder : Obligations.QuireAdditionIsExactInAnyOrder := by
  unfold Obligations.QuireAdditionIsExactInAnyOrder
  constructor
  · intro c t
    refine ⟨fun hovx hlo hhi => ⟨Quire.total_addInt hovx ⟨hlo, hhi⟩, Quire.ovx_addInt hovx ⟨hlo, hhi⟩⟩, fun hovx h => ?_, fun hovx h => ?_,
      fun hovx => Quire.addInt_of_ovx hovx t, Quire.addInt_fields c t⟩
    · rw [Quire.addInt_of_high hovx h]
      exact ⟨rfl, rfl, rfl⟩
    · rw [Quire.addInt_of_low hovx h]
      exact ⟨rfl, rfl, rfl⟩
  · intro c l m hperm hovx hsum
    have hsize : c.total.natAbs + (l.map (fun e => e.1.units.natAbs)).sum < 2 ^ 702 := by
      refine Nat.lt_of_le_of_lt (Nat.le_of_eq <| (congrArg (c.total.natAbs + List.sum ·) (List.map_congr_left fun e _ => ?_))) hsum
      cases e.1 <;> rfl
    simp only [Quire.addVal_eq_absorb]
    exact Quire.foldl_absorb_perm (fun e : Val × Nat => e.1.units) (fun e => e.1.marks e.2) hperm hovx hsize

end Sys2Proof.Machine
end

section
/-! Merges of quires and of standard quires (R89, R97). -/

namespace Sys2Proof.Machine

/-- A merge adds the source's total, combines what R80 combines, and ORs OVX (R89). -/
theorem Quire.merge_eq (c s : Quire) :
    c.merge s = { c.absorb s.total s with ovx := (c.addInt s.total).ovx || s.ovx } := by
  have hshift : s.total / 2 ^ 0 = s.total := by rw [Int.pow_zero, Int.ediv_one]
  rw [Quire.merge, Quire.mergeShift, hshift]
  rfl

/-- The merge of a source without OVX absorbs its total and its special bits. -/
theorem Quire.merge_eq_absorb {s : Quire} (h : s.ovx = false) (c : Quire) : c.merge s = c.absorb s.total s := by
  rw [Quire.merge_eq, h, Bool.or_false]
  rfl

theorem Quire.foldl_merge_eq_absorb {l : List Quire} (h : ∀ s ∈ l, s.ovx = false) (c : Quire) :
    l.foldl Quire.merge c = l.foldl (fun q s => q.absorb s.total s) c := by
  induction l generalizing c with
  | nil => rw [List.foldl_nil, List.foldl_nil]
  | cons s l ih =>
    obtain ⟨hs, hrest⟩ := List.forall_mem_cons.1 h
    rw [List.foldl_cons, List.foldl_cons, Quire.merge_eq_absorb hs]
    exact ih hrest _

/-- Special bits and FIRSTK of a merge (R89). -/
theorem Quire.merge_special (c s : Quire) :
    (c.merge s).firstk = minK c.firstk s.firstk ∧ (c.merge s).snan = (c.snan || s.snan) ∧ (c.merge s).snar = (c.snar || s.snar)
    ∧ (c.merge s).spinf = (c.spinf || s.spinf) ∧ (c.merge s).sninf = (c.sninf || s.sninf) := by
  rw [Quire.merge_eq]
  simp only [Quire.absorb, Quire.orSpecial, Quire.addInt_fields, and_self]

/-- A merge leaves in Q, X and the total what the addition of the source's total leaves there. -/
theorem Quire.merge_number (c s : Quire) :
    (c.merge s).q = (c.addInt s.total).q ∧ (c.merge s).x = (c.addInt s.total).x ∧ (c.merge s).total = (c.addInt s.total).total
    ∧ (c.merge s).ovx = ((c.addInt s.total).ovx || s.ovx) := by
  rw [Quire.merge_eq]
  exact ⟨rfl, rfl, rfl, rfl⟩

/-- Q takes a sum modulo 2^640 in each of its three cases. -/
theorem Quire.q_addInt {c : Quire} (hovx : c.ovx = false) (t : Int) : (c.addInt t).q = c.q + BitVec.ofInt 640 t := by
  rcases Quire.holds_or (c.total + t) with h | h | h
  · rw [Quire.addInt_of_holds hovx h]
    exact Quire.ofInt_total_add c t
  · rw [Quire.addInt_of_high hovx h]
  · rw [Quire.addInt_of_low hovx h]

/-- The two's complement reading of a pattern by its top bit. -/
theorem toInt_ofNat_of_lt {w p : Nat} (hw : 0 < w) (hp : p < 2 ^ w) :
    (BitVec.ofNat w p).toInt = if p.testBit (w - 1) then (p : Int) - 2 ^ w else (p : Int) := by
  have hlast : w - 1 < w := Nat.sub_lt hw Nat.one_pos
  have hmsb : (BitVec.ofNat w p).msb = p.testBit (w - 1) := by
    rw [BitVec.msb_eq_getLsbD_last, BitVec.getLsbD_ofNat, decide_eq_true hlast, Bool.true_and]
  rw [BitVec.toInt_eq_msb_cond, hmsb, BitVec.toNat_ofNat, Nat.mod_eq_of_lt hp, Int.natCast_pow]
  rfl

/-- A standard quire below 2^512 is its two's complement number (R96). -/
theorem Quire.mergeStandard_of_ne {c : Quire} {p : Nat} (hp : p < 2 ^ 512) (hne : p ≠ 2 ^ 511) :
    c.mergeStandard p = c.addInt ((BitVec.ofNat 512 p).toInt * 2 ^ 80) := by
  rw [toInt_ofNat_of_lt (by decide) hp]
  exact if_neg hne

/-- Settles O21: a merge is an addition of the source's total beside its special bits, and such merges commute. -/
theorem mergesAreExact : Obligations.MergesAreExact := by
  unfold Obligations.MergesAreExact
  refine ⟨fun c s => ?_, fun c l m hperm hovx hsources hsum => ?_, fun c p hp => ⟨fun hnar => if_pos hnar, Quire.mergeStandard_of_ne hp⟩⟩
  · obtain ⟨hfirstk, hsnan, hsnar, hspinf, hsninf⟩ := Quire.merge_special c s
    obtain ⟨hq, hx, htotal, hover⟩ := Quire.merge_number c s
    refine ⟨hfirstk, hsnan, hsnar, hspinf, hsninf, fun hovx => ?_, fun hovx => ⟨?_, fun hlo hhi => ?_, fun h => ?_, fun h => ?_⟩⟩
    · rw [hq, hx, hover, Quire.addInt_of_ovx hovx, hovx]
      exact ⟨rfl, rfl, rfl⟩
    · rw [hq, Quire.q_addInt hovx, Quire.ofInt_total]
    · rw [htotal, hover, Quire.total_addInt hovx ⟨hlo, hhi⟩, Quire.ovx_addInt hovx ⟨hlo, hhi⟩]
      exact ⟨rfl, rfl⟩
    · rw [hx, hover, Quire.addInt_of_high hovx h]
      exact ⟨rfl, rfl⟩
    · rw [hx, hover, Quire.addInt_of_low hovx h]
      exact ⟨rfl, rfl⟩
  · rw [Quire.foldl_merge_eq_absorb hsources c, Quire.foldl_merge_eq_absorb (fun s hs => hsources s (hperm.mem_iff.2 hs)) c]
    exact Quire.foldl_absorb_perm Quire.total id hperm hovx hsum

end Sys2Proof.Machine
end

section
/-! Images and entries read back (R78, R197, R330): lists of words as bytes and back, and the fields that share a word. -/

namespace Sys2Proof.Machine

/-! ### Words as bytes and back (R7) -/

theorem leNat_append (a b : List Byte) : leNat (a ++ b) = leNat a + 256 ^ a.length * leNat b := by
  induction a with
  | nil => simp [leNat]
  | cons x a ih =>
    rw [List.cons_append, leNat, leNat, ih, List.length_cons, Nat.pow_succ', Nat.mul_add, ← Nat.add_assoc, ← Nat.mul_assoc]

theorem wordsBytes_append (v w : List Nat) : wordsBytes (v ++ w) = wordsBytes v ++ wordsBytes w := List.flatMap_append

@[simp] theorem wordsBytes_length (ws : List Nat) : (wordsBytes ws).length = 4 * ws.length := by
  induction ws with
  | nil => rfl
  | cons w ws ih =>
    rw [wordsBytes] at ih ⊢
    rw [List.flatMap_cons, List.length_append, leBytes_length, ih, List.length_cons]
    omega

/-- The first words of a list read back from its bytes. -/
theorem bytesWords_wordsBytes {n : Nat} {ws : List Nat} (hws : ∀ w ∈ ws, w < 2 ^ 32) (hn : n ≤ ws.length) :
    bytesWords n (wordsBytes ws) = ws.take n := by
  induction n generalizing ws with
  | zero => rfl
  | succ n ih =>
    cases ws with
    | nil => cases hn
    | cons w ws =>
      obtain ⟨hw, hrest⟩ := List.forall_mem_cons.1 hws
      have hbytes : wordsBytes (w :: ws) = leBytes 4 w ++ wordsBytes ws := List.flatMap_cons
      rw [hbytes, bytesWords, List.take_left' (leBytes_length 4 w), List.drop_left' (leBytes_length 4 w), leNat_leBytes_of_lt hw,
        ih hrest (Nat.le_of_succ_le_succ hn), List.take_succ_cons]

/-- The consecutive words of a number put together give its low bits. -/
theorem leNat_wordsBytes_bits (v n : Nat) : leNat (wordsBytes ((List.range n).map fun i => bits v (32 * i) 32)) = v % 2 ^ (32 * n) := by
  induction n with
  | zero => simp [wordsBytes, leNat, Nat.mod_one]
  | succ n ih =>
    have hword : leNat (wordsBytes [bits v (32 * n) 32]) = v / 2 ^ (32 * n) % 2 ^ 32 := by
      rw [wordsBytes, List.flatMap_singleton, leNat_leBytes]
      simp [bits]
    have hplace : 256 ^ (4 * n) = 2 ^ (32 * n) := by
      rw [Nat.pow_mul, Nat.pow_mul]
    rw [List.range_succ, List.map_append, List.map_singleton, wordsBytes_append, leNat_append, ih, hword, wordsBytes_length,
      List.length_map, List.length_range, hplace, Nat.mul_succ, Nat.pow_add, Nat.mod_mul]

theorem leNat_wordsBytes_toNat {n : Nat} (q : BitVec (32 * n)) :
    leNat (wordsBytes ((List.range n).map fun i => bits q.toNat (32 * i) 32)) = q.toNat := by
  rw [leNat_wordsBytes_bits, Nat.mod_eq_of_lt q.isLt]

/-! ### Fields that share a word -/

theorem ofNat_eq_of_mod_eq {w n : Nat} {b : BitVec w} (h : n % 2 ^ w = b.toNat) : BitVec.ofNat w n = b :=
  BitVec.eq_of_toNat_eq (by rw [BitVec.toNat_ofNat, h])

theorem testBit_eq_of_div_mod {n i : Nat} {b : Bool} (h : n / 2 ^ i % 2 = b.toNat) : n.testBit i = b := by
  rw [Nat.testBit_eq_decide_div_mod_eq, h]
  cases b <;> rfl

/-! ### Slot images (R78) -/

/-- Word 23 of a slot image: the top of FIRSTK and the bits of R78. -/
def Quire.flagWord (c : Quire) : Nat :=
  bits c.firstk.toNat 32 16 + c.snan.toNat * 2 ^ 16 + c.snar.toNat * 2 ^ 17 + c.spinf.toNat * 2 ^ 18
    + c.sninf.toNat * 2 ^ 19 + c.ovx.toNat * 2 ^ 20

theorem Quire.words_eq (c : Quire) :
    c.words = (List.range 20).map (fun i => bits c.q.toNat (32 * i) 32)
      ++ ([bits c.x.toNat 0 32, bits c.x.toNat 32 32, bits c.firstk.toNat 0 32, c.flagWord] ++ List.replicate 8 0) :=
  List.append_assoc ..

/-- The parts of word 23. -/
theorem Quire.flagWord_parts (c : Quire) :
    c.flagWord < 2 ^ 32 ∧ c.flagWord % 2 ^ 16 = bits c.firstk.toNat 32 16 ∧ c.flagWord / 2 ^ 16 % 2 = c.snan.toNat
    ∧ c.flagWord / 2 ^ 17 % 2 = c.snar.toNat ∧ c.flagWord / 2 ^ 18 % 2 = c.spinf.toNat ∧ c.flagWord / 2 ^ 19 % 2 = c.sninf.toNat
    ∧ c.flagWord / 2 ^ 20 % 2 = c.ovx.toNat := by
  have htop : bits c.firstk.toNat 32 16 < 2 ^ 16 := Nat.mod_lt _ (by decide)
  have h0 := c.snan.toNat_le
  have h1 := c.snar.toNat_le
  have h2 := c.spinf.toNat_le
  have h3 := c.sninf.toNat_le
  have h4 := c.ovx.toNat_le
  rw [Quire.flagWord]
  refine ⟨?_, ?_, ?_, ?_, ?_, ?_, ?_⟩ <;> omega

theorem Quire.words_length (c : Quire) : c.words.length = 32 := by simp [Quire.words]

theorem Quire.words_lt (c : Quire) : ∀ w ∈ c.words, w < 2 ^ 32 := by
  have hbits (v lo : Nat) : bits v lo 32 < 2 ^ 32 := Nat.mod_lt _ (by decide)
  intro w hw
  rw [Quire.words_eq] at hw
  simp only [List.mem_append, List.mem_map, List.mem_cons, List.not_mem_nil, or_false, List.mem_replicate] at hw
  rcases hw with ⟨i, _, rfl⟩ | (rfl | rfl | rfl | rfl) | ⟨_, rfl⟩
  · exact hbits ..
  · exact hbits ..
  · exact hbits ..
  · exact hbits ..
  · exact c.flagWord_parts.1
  · decide

theorem Quire.image_length (c : Quire) : c.image.length = 128 := by rw [Quire.image, wordsBytes_length, Quire.words_length]

/-- The words that a reader of an image takes its fields from. -/
theorem Quire.bytesWords_image (c : Quire) : bytesWords 24 c.image = c.words.take 24 :=
  bytesWords_wordsBytes c.words_lt (by rw [Quire.words_length]; decide)

theorem getD_append_of_length_le {l r : List Nat} {i : Nat} (h : l.length ≤ i) : (l ++ r).getD i 0 = r.getD (i - l.length) 0 := by
  simp only [List.getD_eq_getElem?_getD, List.getElem?_append_right h]

/-- What stands after twenty words. -/
theorem getD_append_of_length_twenty {l : List Nat} (h : l.length = 20) (a b c d : Nat) :
    (l ++ [a, b, c, d]).getD 20 0 = a ∧ (l ++ [a, b, c, d]).getD 21 0 = b ∧ (l ++ [a, b, c, d]).getD 22 0 = c
    ∧ (l ++ [a, b, c, d]).getD 23 0 = d := by
  have hget {i : Nat} (hi : 20 ≤ i) : (l ++ [a, b, c, d]).getD i 0 = [a, b, c, d].getD (i - 20) 0 := by
    rw [getD_append_of_length_le (h ▸ hi), h]
  exact ⟨hget (by decide), hget (by decide), hget (by decide), hget (by decide)⟩

/-- The words that hold X, FIRSTK and the special bits. -/
theorem Quire.words_getD (c : Quire) :
    (c.words.take 24).getD 20 0 = bits c.x.toNat 0 32 ∧ (c.words.take 24).getD 21 0 = bits c.x.toNat 32 32
    ∧ (c.words.take 24).getD 22 0 = bits c.firstk.toNat 0 32 ∧ (c.words.take 24).getD 23 0 = c.flagWord := by
  rw [Quire.words_eq, ← List.append_assoc, List.take_left' (by simp)]
  exact getD_append_of_length_twenty (by simp) ..

/-- The first 80 bytes of an image are Q. -/
theorem Quire.leNat_image (c : Quire) : leNat (c.image.take 80) = c.q.toNat := by
  have hlen : (wordsBytes ((List.range 20).map fun i => bits c.q.toNat (32 * i) 32)).length = 80 := by
    rw [wordsBytes_length, List.length_map, List.length_range]
  have hlow : leNat (wordsBytes ((List.range 20).map fun i => bits c.q.toNat (32 * i) 32)) = c.q.toNat :=
    leNat_wordsBytes_toNat (n := 20) c.q
  rw [Quire.image, Quire.words_eq, wordsBytes_append, List.take_left' hlen, hlow]

theorem Quire.words_x (c : Quire) :
    BitVec.ofNat 64 ((c.words.take 24).getD 20 0 + (c.words.take 24).getD 21 0 * 2 ^ 32) = c.x := by
  obtain ⟨hlo, hhi, _⟩ := c.words_getD
  have hlt := c.x.isLt
  rw [hlo, hhi]
  exact ofNat_eq_of_mod_eq (by simp only [bits]; omega)

theorem Quire.words_firstk (c : Quire) :
    BitVec.ofNat 48 ((c.words.take 24).getD 22 0 + c.flagWord % 2 ^ 16 * 2 ^ 32) = c.firstk := by
  obtain ⟨_, _, hlo, _⟩ := c.words_getD
  obtain ⟨_, hhi, _⟩ := c.flagWord_parts
  have hlt := c.firstk.isLt
  rw [hlo, hhi]
  exact ofNat_eq_of_mod_eq (by simp only [bits]; omega)

theorem Quire.ofImage_image (c : Quire) : Quire.ofImage c.image = c := by
  obtain ⟨_, _, hsnan, hsnar, hspinf, hsninf, hovx⟩ := c.flagWord_parts
  have hq : BitVec.ofNat 640 (leNat (c.image.take 80)) = c.q := by rw [c.leNat_image, BitVec.ofNat_toNat, BitVec.setWidth_eq]
  obtain ⟨_, _, _, hflags⟩ := c.words_getD
  simp only [Quire.ofImage, Quire.bytesWords_image, hq, Quire.words_x, hflags, Quire.words_firstk,
    testBit_eq_of_div_mod hsnan, testBit_eq_of_div_mod hsnar, testBit_eq_of_div_mod hspinf, testBit_eq_of_div_mod hsninf,
    testBit_eq_of_div_mod hovx]

/-! ### Row-state entries (R197) -/

theorem RowState.ofWords_words (r : RowState) : RowState.ofWords r.words = { r with bound := true } := by
  have hl := r.lslot.isLt
  have hg := r.ogrp.isLt
  have ho := r.orow.isLt
  have hgen := r.gen.isLt
  have h0 := r.mv.toNat_le
  have h1 := r.rnan.toNat_le
  have h2 := r.rnar.toNat_le
  have h3 := r.far.toNat_le
  have hlslot : BitVec.ofNat 13 (r.lslot.toNat + r.ogrp.toNat * 2 ^ 13 + r.orow.toNat * 2 ^ 18) = r.lslot := ofNat_eq_of_mod_eq (by omega)
  simp only [RowState.ofWords, RowState.words, List.getD_cons_zero, List.getD_cons_succ, BitVec.ofNat_toNat, BitVec.setWidth_eq,
    RowState.mk.injEq, true_and]
  simp only [bits]
  refine ⟨ofNat_eq_of_mod_eq ?_, ofNat_eq_of_mod_eq ?_, ofNat_eq_of_mod_eq ?_, testBit_eq_of_div_mod ?_, testBit_eq_of_div_mod ?_,
    testBit_eq_of_div_mod ?_, testBit_eq_of_div_mod ?_, ofNat_eq_of_mod_eq ?_⟩ <;> omega

/-! ### Words of a sequence slot (R330) -/

/-- The last seven words of a slot are its user words. -/
theorem Slot.words_getD_user {v : Slot} (h : v.user.length = 7) (i : Nat) : v.words.getD (9 + i) 0 = (v.user.map (·.toNat)).getD i 0 := by
  have hlen : (v.user.map (·.toNat)).length = 7 := by rw [List.length_map, h]
  have hall : (v.user.map (·.toNat)).take 7 = v.user.map (·.toNat) := List.take_of_length_le (Nat.le_of_eq hlen)
  rw [Slot.words, hall, h, Nat.sub_self, List.replicate_zero, List.append_nil, getD_append_of_length_le (Nat.le_add_right 9 i)]
  exact congrArg (List.getD _ · 0) (Nat.add_sub_cancel_left ..)

theorem Slot.user_words {v : Slot} (h : v.user.length = 7) :
    (List.range 7).map (fun i => BitVec.ofNat 32 (v.words.getD (9 + i) 0)) = v.user := by
  refine List.ext_getElem (by simp [h]) fun i _ hi => ?_
  simp only [List.getElem_map, List.getElem_range, Slot.words_getD_user h]
  simp [hi]

theorem Slot.ofWords_words {v : Slot} (h : v.user.length = 7) : Slot.ofWords (fun i => v.words.getD i 0) = v := by
  have huser := Slot.user_words h
  have hseqid := v.seqid.isLt
  have hstate := v.stateaddr.isLt
  have hsync := v.ssync.isLt
  have hactive := v.active.toNat_le
  have hssyncv := v.ssyncv.toNat_le
  obtain ⟨active, seqid, pos, maxpos, stateaddr, ssync, ssyncv, launches, user⟩ := v
  simp only [Slot.ofWords, huser]
  simp only [Slot.words, List.cons_append, List.getD_cons_zero, List.getD_cons_succ, BitVec.ofNat_toNat, BitVec.setWidth_eq,
    Slot.mk.injEq, true_and, and_true]
  dsimp only at *
  refine ⟨testBit_eq_of_div_mod ?_, ofNat_eq_of_mod_eq ?_, ofNat_eq_of_mod_eq ?_, ofNat_eq_of_mod_eq ?_, testBit_eq_of_div_mod ?_⟩ <;> omega

/-- Settles O23: each reader finds every field at the place where its writer put it. -/
theorem imagesReadBack : Obligations.ImagesReadBack := by
  unfold Obligations.ImagesReadBack
  exact ⟨Quire.ofImage_image, Quire.image_length, RowState.ofWords_words, fun _ => Slot.ofWords_words⟩

end Sys2Proof.Machine
end

section
/-! The effects of GOPEN, GCLOSE, PACKCFG without a band, SMINIT and the MOVE modes STATUS and MERGE (R84, R85, R89, R198, R231, R238). -/

namespace Sys2Proof.Machine

/-! ### GOPEN and GCLOSE (R84, R85) -/

/-- The first slot after those of the group that a GOPEN opens. -/
abbrev gopenEnd (w : Word128) : Nat := fld w 1 0 13 + (fld w 1 13 13 + 1) * (fld w 2 0 7 + 1)

theorem Group.isOpen_iff (g : Group) : g.isOpen = true ↔ g.st = .openG := beq_iff_eq

theorem Group.isOpen_eq_false {g : Group} (h : g.st ≠ .openG) : g.isOpen = false :=
  Bool.eq_false_iff.2 fun hopen => h ((Group.isOpen_iff g).1 hopen)

/-- Releasing groups writes the group table alone. -/
theorem Tile.foldl_release_eq (hs : List Nat) (t : Tile) : ∃ g, hs.foldl Tile.release t = { t with groups := g } := by
  induction hs generalizing t with
  | nil => exact ⟨t.groups, rfl⟩
  | cons h hs ih => exact ih (t.release h)

/-- A group that is not FREE reads back from the table. -/
theorem Tile.group_setGroup {g : Group} (hg : g.st ≠ .freeG) (t : Tile) (h : Nat) : (t.setGroup h g).group h = g := by
  have hne : g ≠ Group.empty := fun heq => hg (heq ▸ rfl)
  rw [Tile.group, Tile.setGroup, SMap.get_set_ne _ hne, if_pos rfl]

theorem tileGOPEN_ok {t : Tile} {w : Word128} (hfields : onlyFields w 0x1FFF 0x03FF_FFFF 0x7F 0 = true) (hfit : gopenEnd w ≤ 8192)
    (hgroup : (t.group (fld w 0 8 5)).st ≠ .openG)
    (hfree : ∀ e ∈ t.groups, e.2.st = .openG → e.2.overlaps (fld w 1 0 13) (gopenEnd w) = false) :
    ∃ u : Tile, tileGOPEN t w = .ok u [] []
      ∧ u.group (fld w 0 8 5) = { base := fld w 1 0 13, rows := fld w 1 13 13 + 1, cols := fld w 2 0 7 + 1, st := .openG,
                                  anchored := true, origin := t.stepNo }
      ∧ u.cistern = t.cistern.filter (fun e => decide (e.1 < fld w 1 0 13) || decide (gopenEnd w ≤ e.1))
      ∧ u.basin = t.basin ∧ u.aux = t.aux ∧ u.rows = t.rows ∧ u.aregs = t.aregs := by
  have hclear : (t.groups.any fun e => e.2.isOpen && e.2.overlaps (fld w 1 0 13) (gopenEnd w)) = false := by
    rw [List.any_eq_false]
    intro e he hboth
    obtain ⟨hopen, hover⟩ := Bool.and_eq_true_iff.1 hboth
    exact Bool.false_ne_true ((hfree e he ((Group.isOpen_iff _).1 hopen)).symm.trans hover)
  obtain ⟨g, hdead⟩ := Tile.foldl_release_eq
    ((t.groups.filter fun e => e.2.st == .closedG && e.2.overlaps (fld w 1 0 13) (gopenEnd w)).map (·.1)) t
  simp only [tileGOPEN, hfields, Bool.not_true, Bool.false_eq_true, if_false, if_neg (Nat.not_lt.2 hfit), Group.isOpen_eq_false hgroup,
    Bool.false_or, hclear, hdead, TRes.ok.injEq, and_true, exists_eq_left']
  exact ⟨Tile.group_setGroup (by simp) .., rfl, rfl, rfl, rfl, rfl⟩

theorem tileGCLOSE_ok {t : Tile} {w : Word128} (hfields : onlyFields w 0x1FFF 0 0 0 = true) (hopen : (t.group (fld w 0 8 5)).st = .openG) :
    tileGCLOSE t w = .ok (t.setGroup (fld w 0 8 5) { t.group (fld w 0 8 5) with st := .closedG }) [] [] := by
  simp [tileGCLOSE, hfields, (Group.isOpen_iff _).2 hopen]

theorem tileGCLOSE_illegal {t : Tile} {w : Word128} (hfields : onlyFields w 0x1FFF 0 0 0 = true)
    (hopen : (t.group (fld w 0 8 5)).st ≠ .openG) : tileGCLOSE t w = .illegal 0x07 := by
  simp [tileGCLOSE, hfields, Group.isOpen_eq_false hopen]

/-! ### PACKCFG (R231) -/

theorem tilePACKCFG_noBand {w : Word128} (hfields : onlyFields w 0x00FF_FFFF 0x1FFFF 0 0 = true) (hmask : fld w 0 8 16 = 0) (t : Tile) :
    tilePACKCFG t w = .ok { t with pack := [] } [] [] := by
  simp [tilePACKCFG, hfields, hmask]

/-! ### SMINIT (R198) -/

/-- A row state that is bound reads back, and leaves the other rows. -/
theorem Tile.row_setRow {r : RowState} (hr : r.bound = true) (t : Tile) (i j : Nat) : (t.setRow i r).row j = if j = i then r else t.row j := by
  have hne : r ≠ RowState.empty := fun heq => Bool.false_ne_true ((congrArg RowState.bound heq).symm.trans hr)
  exact SMap.get_set_ne _ hne i j

/-- `n` consecutive row states written, lowest first. -/
def Tile.setRows (t : Tile) (first n : Nat) (r : Nat → RowState) : Tile :=
  (List.range n).foldl (fun t i => t.setRow (first + i) (r i)) t

theorem Tile.setRows_succ (t : Tile) (first n : Nat) (r : Nat → RowState) :
    t.setRows first (n + 1) r = (t.setRows first n r).setRow (first + n) (r n) := by
  rw [Tile.setRows, List.range_succ, List.foldl_append, List.foldl_cons, List.foldl_nil, Tile.setRows]

/-- Bound row states written in a row all read back. -/
theorem Tile.row_setRows {r : Nat → RowState} (hr : ∀ i, (r i).bound = true) (t : Tile) (first : Nat) {n i : Nat} (hi : i < n) :
    (t.setRows first n r).row (first + i) = r i := by
  induction n with
  | zero => exact absurd hi (Nat.not_lt_zero i)
  | succ n ih =>
    rw [Tile.setRows_succ, Tile.row_setRow (hr n)]
    rcases Nat.lt_succ_iff_lt_or_eq.1 hi with hlt | rfl
    · rw [if_neg (by omega), ih hlt]
    · rw [if_pos rfl]

/-- Writing row states changes nothing else of the tile. -/
theorem Tile.setRows_rest (t : Tile) (first n : Nat) (r : Nat → RowState) : { t.setRows first n r with rows := t.rows } = t := by
  induction n with
  | zero => rfl
  | succ n ih =>
    rw [Tile.setRows_succ]
    exact ih

/-- The row state that SMINIT gives the `i`-th row. -/
def sminitRow (w : Word128) (i : Nat) : RowState :=
  { bound := true, lslot := BitVec.ofNat 13 (fld w 2 0 13 + i), ogrp := BitVec.ofNat 5 (fld w 1 19 5),
    orow := BitVec.ofNat 13 (fld w 2 13 13 + i) }

theorem tileSMINIT_ok {w : Word128} (hfields : onlyFields w (rstatWord0 false false false) 0x00FF_FFFF 0x03FF_FFFF 0 = true)
    (hcount : 1 ≤ fld w 1 9 10) (hrows : fld w 1 0 9 + fld w 1 9 10 ≤ 512) (hslots : fld w 2 0 13 + fld w 1 9 10 ≤ 8192)
    (hout : fld w 2 13 13 + fld w 1 9 10 ≤ 8192) (t : Tile) :
    tileSMINIT t w = .ok (t.setRows (fld w 1 0 9) (fld w 1 9 10) (sminitRow w)) [] [] := by
  have hpos : fld w 1 9 10 ≠ 0 := Nat.ne_of_gt hcount
  have hfit : (decide (rowStates < fld w 1 0 9 + fld w 1 9 10) || decide (8192 < fld w 2 0 13 + fld w 1 9 10)
      || decide (8192 < fld w 2 13 13 + fld w 1 9 10)) = false := by
    rw [decide_eq_false (show ¬ rowStates < _ from Nat.not_lt.2 hrows), decide_eq_false (Nat.not_lt.2 hslots),
      decide_eq_false (Nat.not_lt.2 hout)]
    rfl
  simp only [tileSMINIT, hfields, Bool.not_true, Bool.false_eq_true, if_false, if_neg hpos, hfit]
  rfl

/-! ### MOVE STATUS and MERGE (R89, R238) -/

theorem tileSTATUS_ok {t : Tile} {w : Word128} (hfields : moveFields w = true) (hlen : moveLen w = 32)
    (hown : t.ownAddr (moveDst t w) 1 = true) :
    tileSTATUS t w = .ok (t.wrBasin (daOff (moveDst t w)) t.status.image) [] [⟨1, daOff (moveDst t w), daOff (moveDst t w) + 32⟩] := by
  simp [tileSTATUS, hfields, hlen, hown]

/-- The merge of the images of the Basin into the slots from the destination on. -/
theorem tileMERGE_images {t : Tile} {w : Word128} (hfields : moveFields w = true) (hlen : moveLen w ≠ 0)
    (hreason : mergeReason t (moveSrc t w) (moveDst t w) (moveLen w) 128 = none) (hspace : daSpace (moveSrc t w) = 1) :
    tileMERGE t w false = .ok ((List.range (moveLen w / 128)).foldl (fun u i => u.setSlot (daOff (moveDst t w) / 128 + i)
        ((u.slot (daOff (moveDst t w) / 128 + i)).merge
          (Quire.ofImage (((t.basin.bytes (daOff (moveSrc t w)) (moveLen w)).drop (i * 128)).take 128)))) t)
      [⟨1, daOff (moveSrc t w), daOff (moveSrc t w) + moveLen w⟩] [] := by
  simp [tileMERGE, hfields, hlen, hreason, hspace, Tile.ownBytes, ownRange]

/-- Settles O26: each instruction passes its checks and takes the effect that its rule names. -/
theorem cisternInstructionsTakeEffect : Obligations.CisternInstructionsTakeEffect := by
  unfold Obligations.CisternInstructionsTakeEffect
  intro t w
  refine ⟨tileGOPEN_ok, fun hfields => ⟨tileGCLOSE_ok hfields, tileGCLOSE_illegal hfields⟩, fun hfields hmask => tilePACKCFG_noBand hfields hmask t,
    fun hfields hcount hrows hslots hout => ?_, tileSTATUS_ok, tileMERGE_images⟩
  exact ⟨_, tileSMINIT_ok hfields hcount hrows hslots hout t, fun _ => Tile.row_setRows (fun _ => rfl) t _, Tile.setRows_rest t ..⟩

end Sys2Proof.Machine
end

section
/-! CONTEXT_SAVE, the pre-emption boundary and CONTEXT_RESTORE (R129, R318, R319, R485). -/

namespace Sys2Proof.Machine

/-- The checks of CONTEXT_SAVE, with an area that the launch fits and the agent may write. -/
theorem contextSave_checks {s : State} {p : Packet} {a : Agent} {addr need room tq part : Nat} {inMasks : Bool}
    (hhead : ∀ k ∈ s.headerChecks p, k.1 = false) (hmask : inMasks = true) (hspace : daSpace addr = 0) (halign : addr % 4096 = 0)
    (hroom : need ≤ room) (hallowed : s.allowed a addr need true = true) (hcreated : (s.queue tq).created = true)
    (hpart : s.queuePart tq = part) (htype : (s.queue tq).qtype = 0) :
    firstFail (s.headerChecks p ++
      [(!inMasks, stBadOpcode), (daSpace addr != 0 || !s.allowed a addr (Nat.min need room) true, stNotPermitted),
       (!(s.queue tq).created || s.queuePart tq != part || (s.queue tq).qtype != 0, stBadQueue),
       (room != 0 && addr % 4096 != 0, stBadAlign), (decide (room < need), stBadLength)]) = stOk := by
  refine firstFail_none (List.forall_mem_append.2 ⟨hhead, ?_⟩)
  simp [hmask, hspace, halign, hroom, hallowed, hcreated, hpart, htype]

/-- The checks of CONTEXT_RESTORE, with an area that the agent may read. -/
theorem contextRestore_checks {s : State} {p : Packet} {a : Agent} {addr room : Nat} {inMasks : Bool}
    (hhead : ∀ k ∈ s.headerChecks p, k.1 = false) (hmask : inMasks = true) (hspace : daSpace addr = 0) (halign : addr % 4096 = 0)
    (hallowed : s.allowed a addr room false = true) :
    firstFail (s.headerChecks p ++
      [(!inMasks, stBadOpcode), (daSpace addr != 0 || !s.allowed a addr room false, stNotPermitted),
       (room != 0 && addr % 4096 != 0, stBadAlign)]) = stOk := by
  refine firstFail_none (List.forall_mem_append.2 ⟨hhead, ?_⟩)
  simp [hmask, hspace, halign, hallowed]

/-- CONTEXT_SAVE of a running launch that nothing saves yet asks every tile of it to stop at its boundary (R318). -/
theorem exec_contextSave {s : State} {p : Packet} {l : Launch} (hpres : s.presents p 8 = true)
    (hmask : withinMasks p.words [0x7FF, m32, 0x7FFF, m32, 0x7FFF, m32, 0xFFFF, m32] = true)
    (hfound : s.runningFrom (word p.words 4 % 2 ^ 14) = some l) (hrun : l.ph = .running) (hsaving : l.saving = none)
    (hspace : daSpace (addr48 p.words 5) = 0) (halign : addr48 p.words 5 % 4096 = 0)
    (hsize : ctxSize l ((word p.words 4).testBit 14) ≤ 4096 * word p.words 7)
    (hallowed : s.allowed { part := s.queuePart p.queue, fn := (s.queue p.queue).owner } (addr48 p.words 5)
      (ctxSize l ((word p.words 4).testBit 14)) true = true)
    (hcreated : (s.queue (word p.words 4 % 2 ^ 14)).created = true)
    (hpart : s.queuePart (word p.words 4 % 2 ^ 14) = s.queuePart p.queue) (htype : (s.queue (word p.words 4 % 2 ^ 14)).qtype = 0) :
    let s1 := (s.modPacket p.queue p.seq (fun x => { x with work := .save })).modLaunch l.queue l.seq (fun x =>
      { x with saving := some (p.queue, p.seq), saveAddr := addr48 p.words 5, saveBase := (word p.words 4).testBit 14 })
    exec (.contextSave p.queue p.seq) s =
      .next ((s1.launchPhys l).foldl (fun s ph => s.modTile ph (fun t => { t with preempt := true })) s1) := by
  obtain ⟨hlive, hfront, hhead⟩ := presents_cases hpres
  have hchecks := contextSave_checks hhead hmask hspace halign hsize hallowed hcreated hpart htype
  change execContextSave p.queue p.seq s = _
  rw [execContextSave, State.run_live hlive]
  simp only [hfront, hfound] at hchecks ⊢
  rw [hchecks]
  simp [hsaving, hrun]

/-- A tile that a pre-emption finds ready for it waits to be saved; with the last of them the launch is saved (R129, R318). -/
theorem exec_preemptBoundary {s : State} {ph : Nat} {l : Launch} {pk : Nat × BitVec 32} (hlive : s.live = true)
    (hrunning : (s.tile ph).running = true) (hpre : (s.tile ph).preempt = true) (hparked : (s.tile ph).parked = false)
    (hstopped : (s.tile ph).stopped = false) (hsent : ∀ x ∈ (s.tile ph).steps, x.sent = false) :
    let s1 := s.draw.2.setTile ph { s.cutInside ph s.draw.1 with parked := true, wait := none }
    s1.runningOf (s.tile ph).part = some l → l.saving = some pk →
    exec (.preemptBoundary ph) s = .next (if (s1.launchPhys l).all (fun i => (s1.tile i).parked) then s1.finishSave l pk else s1) := by
  intro s1 hlaunch hsaving
  have hidle : (s.tile ph).steps.any (·.sent) = false := by simpa using hsent
  change execPreemptBoundary ph s = _
  rw [execPreemptBoundary, State.run_live hlive]
  simp only [hrunning, hpre, hparked, hstopped, hidle, Bool.not_true, Bool.or_self, Bool.false_eq_true, if_false]
  rw [hlaunch]
  simp only [hsaving]
  rfl

/-- CONTEXT_RESTORE of an area that reads and verifies makes the saved launch wait for its tiles (R319, R485). -/
theorem exec_contextRestore {s s1 : State} {p : Packet} {area : List Byte} {l : Launch} (hpres : s.presents p 9 = true)
    (hmask : withinMasks p.words [0x7FF, m32, 0x7FFF, m32, 0, m32, 0xFFFF, m32] = true)
    (hspace : daSpace (addr48 p.words 5) = 0) (halign : addr48 p.words 5 % 4096 = 0) (hroom : 4096 * word p.words 7 ≠ 0)
    (hallowed : s.allowed { part := s.queuePart p.queue, fn := (s.queue p.queue).owner } (addr48 p.words 5) (4096 * word p.words 7)
      false = true)
    (harea : s.ctxArea { part := s.queuePart p.queue, fn := (s.queue p.queue).owner } (addr48 p.words 5) (4096 * word p.words 7) =
      .ok (s1, area))
    (hvalid : s1.ctxValid (s.queuePart p.queue) area = true)
    (hsusp : s1.suspendedOf (leNat ((area.drop 8).take 4) % 2 ^ 14) = some l) :
    exec (.contextRestore p.queue p.seq) s = .next ((s1.modPacket p.queue p.seq (fun x => { x with work := .launch })).modLaunch l.queue
      l.seq (fun x => { x with ph := .waiting, restore := some (p.queue, p.seq), saveAddr := addr48 p.words 5 })) := by
  obtain ⟨hlive, hfront, hhead⟩ := presents_cases hpres
  have hchecks := contextRestore_checks hhead hmask hspace halign hallowed
  change execContextRestore p.queue p.seq s = _
  rw [execContextRestore, State.run_live hlive]
  simp only [hfront]
  rw [hchecks, if_neg (by simp [hroom])]
  simp only [harea, hvalid, hsusp, Bool.not_true, Bool.false_eq_true, if_false]

/-- Settles O18: the checks of both packets hold, so each takes the branch of the launch that it finds, and a boundary takes effect on a
tile that nothing holds back. -/
theorem contextSwitchExecutes : Obligations.ContextSwitchExecutes := by
  unfold Obligations.ContextSwitchExecutes
  exact fun s => ⟨fun p l => exec_contextSave, fun ph l pk => exec_preemptBoundary, fun p s1 area l => exec_contextRestore⟩

end Sys2Proof.Machine
end

section
/-! WAIT limits and replay (R135, R253, R262, R264, R266, R477). -/

namespace Sys2Proof.Machine

/-! ### Fault records and counters -/

/-- The state without what the accounts of a fault change: the fault log with its error counts, the counters, the model's own counter. -/
def State.besideAccounts (s : State) : State := { s with rel := {}, tele := {}, draws := 0 }

theorem State.draw_besideAccounts (s : State) : s.draw.2.besideAccounts = s.besideAccounts := rfl

theorem State.count_besideAccounts (s : State) (unit event cycles v sub : Nat) :
    (s.count unit event cycles v sub).besideAccounts = s.besideAccounts := rfl

theorem State.tally_besideAccounts (s : State) (kind index : Nat) (f : ErrCount → ErrCount) :
    (s.tally kind index f).besideAccounts = s.besideAccounts := rfl

theorem State.setTile_besideAccounts (s : State) (i : Nat) (t : Tile) :
    (s.setTile i t).besideAccounts = s.besideAccounts.setTile i t := rfl

/-- A record below severity 2 writes no event and stays out of flash (R498, R499). -/
theorem State.report_besideAccounts {i : FaultInfo} (h : i.severity < 2) (s : State) : (s.report i).besideAccounts = s.besideAccounts := by
  unfold State.report
  dsimp only
  split
  · rfl
  · rw [if_neg (show ¬ 3 ≤ i.severity by omega)]
    rfl

/-- No fault record changes a launch. -/
theorem State.report_launches (s : State) (i : FaultInfo) : (s.report i).launches = s.launches := by
  unfold State.report
  dsimp only
  split
  · rfl
  · split
    · rfl
    · exact (congrArg State.launches (foldl_besideEvents (fun s _ => State.eventTo_besideEvents s _ _ _ _ _ _) _ _) :)

/-! ### Replay (R262, R264, R266) -/

/-- The work of a tile that has read no outside memory is done again with the same bits. -/
theorem State.rework_of_no_outReads {t : Tile} (h : t.outReads = []) (s : State) (ph : Nat) (groups : List Nat) (step : Nat) :
    s.rework ph t groups step = .ok t := by
  unfold State.rework
  split
  · rfl
  · simp [State.outsideChanged, h]

/-- A group that keeps its anchor, or holds nothing, need not be given up (R264). -/
theorem Tile.no_lost_anchor {t : Tile} {groups : List Nat} (h : ∀ g ∈ groups, (t.group g).anchored = true ∨ (t.group g).st = .freeG) :
    groups.any (fun g => !(t.group g).anchored && !(t.group g).isFree) = false := by
  simpa [Group.isFree, or_iff_not_imp_left] using h

theorem Tile.lost_anchor {t : Tile} {groups : List Nat} (h : ∃ g ∈ groups, (t.group g).anchored = false ∧ (t.group g).st ≠ .freeG) :
    groups.any (fun g => !(t.group g).anchored && !(t.group g).isFree) = true := by
  simpa [Group.isFree] using h

/-- A replay that loses no anchor and is not the fourth, of work that has read no outside memory: it changes the tile's count of
replays, and beside it the accounts of the fault alone. -/
theorem State.replayTile_again {s : State} {ph : Nat} {groups : List Nat}
    (hgroups : ∀ g ∈ groups, ((s.tile ph).group g).anchored = true ∨ ((s.tile ph).group g).st = .freeG)
    (hreplays : (s.tile ph).replays < 3) (hout : (s.tile ph).outReads = []) (cls : Nat) (array : Bool) (location : Nat) :
    (s.replayTile ph cls array groups location id).besideAccounts =
      s.besideAccounts.setTile ph { s.tile ph with replays := (s.tile ph).replays + 1 } := by
  unfold State.replayTile
  simp only [Tile.no_lost_anchor hgroups, Bool.false_eq_true, if_false, if_neg (Nat.not_le.2 hreplays),
    State.rework_of_no_outReads hout]
  rw [State.count_besideAccounts, State.setTile_besideAccounts, State.tally_besideAccounts, State.report_besideAccounts Nat.one_lt_two,
    State.tally_besideAccounts, State.draw_besideAccounts, id]

/-- A replay that must rebuild a group without its anchor ends the launch (R264). -/
theorem State.replayTile_lost {s : State} {ph : Nat} {groups : List Nat}
    (hgroups : ∃ g ∈ groups, ((s.tile ph).group g).anchored = false ∧ ((s.tile ph).group g).st ≠ .freeG) (cls : Nat) (array : Bool)
    (location : Nat) (mended : Tile → Tile) :
    ∃ u : State, s.replayTile ph cls array groups location mended = u.failTile ph stReplay 0 (s.tile ph).pc ∧ u.launches = s.launches := by
  unfold State.replayTile
  simp only [Tile.lost_anchor hgroups, if_true]
  exact ⟨_, rfl, State.report_launches _ _⟩

/-! ### The rows WAIT_TIMEOUT and TILE_FAULT_REPLAY -/

/-- A fault of one of the three classes, found on a tile that runs, is one for the tile to act on or to hold. -/
theorem exec_tileFaultReplay {s : State} {ph cls : Nat} (hlive : s.live = true) (hrun : (s.tile ph).running = true)
    (hcls : cls = 2 ∨ cls = 5 ∨ cls = 6) (array : Bool) (groups : List Nat) :
    exec (.tileFaultReplay ph cls array groups) s = .next (s.tileFault ph (.checker cls (array && cls != 2) groups)) := by
  have hwhen : ((s.tile ph).running && (cls == 5 || cls == 6 || cls == 2)) = true := by
    rcases hcls with rfl | rfl | rfl <;> simp [hrun]
  change execTileFaultReplay ph cls array groups s = _
  rw [execTileFaultReplay, State.run_live hlive, hwhen, State.when_true]

theorem State.tileFault_stopped {s : State} {ph : Nat} (hstopped : (s.tile ph).stopped = true) (f : HeldFault) :
    s.tileFault ph f = s.setTile ph { s.tile ph with held := (s.tile ph).held ++ [f] } := if_pos hstopped

theorem State.tileFault_checker {s : State} {ph : Nat} (hstopped : (s.tile ph).stopped = false) (hrun : (s.tile ph).running = true)
    (cls : Nat) (array : Bool) (groups : List Nat) :
    s.tileFault ph (.checker cls array groups) = s.replayTile ph cls array groups 0 id := by
  simp [State.tileFault, hstopped, hrun]

theorem exec_waitTimeout {s : State} {ph : Nat} {w : WaitRec} (hlive : s.live = true) (hrun : (s.tile ph).running = true)
    (hstopped : (s.tile ph).stopped = false) (hwait : (s.tile ph).wait = some w) (hmet : w.met = false) (hlimit : w.timeout ≠ 0) :
    exec (.waitTimeout ph) s = .next (s.failTile ph stTimeout 0 (s.tile ph).pc) := by
  change execWaitTimeout ph s = _
  rw [execWaitTimeout, State.run_live hlive]
  simp [hwait, hrun, hstopped, hmet, bne_iff_ne.2 hlimit]

/-- Settles O29: a stopped tile holds the fault; a tile whose clocks run replays, and `replayTile` takes the branch of kept anchors
(`State.replayTile_again`) or of a lost one (`State.replayTile_lost`). -/
theorem tileFaultsAndTimeouts : Obligations.TileFaultsAndTimeouts := by
  unfold Obligations.TileFaultsAndTimeouts
  constructor
  · intro s ph cls array groups hlive hrun hstopped hcls
    rw [exec_tileFaultReplay hlive hrun hcls, State.tileFault_stopped hstopped]
  · intro s ph hlive hrun hstopped
    refine ⟨fun w => exec_waitTimeout hlive hrun hstopped, fun cls array groups hcls => ?_⟩
    rw [exec_tileFaultReplay hlive hrun hcls, State.tileFault_checker hstopped hrun]
    constructor
    · intro hgroups hreplays hout
      have hsame := State.replayTile_again hgroups hreplays hout cls (array && cls != 2) 0
      have hagain : ({ s.tile ph with replays := (s.tile ph).replays + 1 } : Tile).running = true := hrun
      have htile (o : Nat) := (congrArg (·.tile o) hsame).trans (State.tile_setTile_running _ hagain ph o)
      exact ⟨_, rfl, (htile ph).trans (if_pos rfl), (congrArg State.launches hsame :), (congrArg State.packets hsame :),
        (congrArg State.sync hsame :), (congrArg State.hbm hsame :), fun o ho => (htile o).trans (if_neg ho)⟩
    · intro hgroups
      obtain ⟨u, hu, hlaunches⟩ := State.replayTile_lost hgroups cls (array && cls != 2) 0 id
      exact ⟨u, by rw [hu], hlaunches⟩

end Sys2Proof.Machine
end

section
/-! The power commands (R374, R513, R514, R521, R525, R526). -/

namespace Sys2Proof.Machine

/-! ### Requests that may wait for a tick (R377) -/

/-- A request that stands to be executed, whose own checks hold, is executed; it waits where its act leaves it to a tick, and else is
answered. -/
theorem run_command_of_asks_waits {s : State} {t : Taken} {p : Nat} {d : Cmd} (h : s.asks t p d = true) {c : Taken → Cmd}
    {mine : Taken → Bool} {checks : State → Taken → Nat → List Chk} {act : State → Taken → Nat → State × Ans}
    (hd : c t = d) (hop : d.op < 65536) (hlen : d.plen < 4096) (hm : mine t = true)
    (hc : ∀ k ∈ checks s t ((s.actsOn t).getD 255), k.1 = false) {qpos : State → Taken → Nat → Nat} :
    s.run (·.command t.fn c mine checks act qpos) =
      let a := act s t ((s.actsOn t).getD 255)
      .next (if a.2.later then { a.1 with taken := a.1.taken.drop 1, pinWait := a.1.pinWait ++ [t] } else a.1.respond t a.2) := by
  subst hd
  obtain ⟨hlive, hhead, h0, _⟩ := asks_cases h
  obtain ⟨us, htaken⟩ := List.head?_eq_some_iff.1 hhead
  have hopc : t.opcode = (c t).op := by rw [Taken.opcode, h0, Nat.mod_eq_of_lt hop]
  have hall := firstChk_none (List.forall_mem_append.2 ⟨sharedChks_none h hop hlen, hc⟩)
  have hp : s.partOf t = (s.actsOn t).getD 255 := rfl
  simp [State.run_live hlive, State.command, htaken, hopc, hm, hp, hall]

/-! ### Moves of the Weir (R515, R525, R526) -/

/-- What an event record to the PF leaves alone. -/
theorem State.eventPF_keeps (s : State) (code source : Nat) (status : Word16) (d0 d1 : Nat) :
    (s.eventPF code source status d0 d1).taken = s.taken ∧ (s.eventPF code source status d0 d1).pinWait = s.pinWait
      ∧ (s.eventPF code source status d0 d1).weir = s.weir := by
  have h := State.eventTo_besideEvents s 0 code source status d0 d1
  exact ⟨(congrArg State.taken h :), (congrArg State.pinWait h :), (congrArg State.weir h :)⟩

/-- A move to a point leaves the requests, the cap and which regulators answer. -/
theorem State.moveOpp_keeps (s : State) (opp cause : Nat) :
    (s.moveOpp opp cause).taken = s.taken ∧ (s.moveOpp opp cause).pinWait = s.pinWait ∧ (s.moveOpp opp cause).weir.cap = s.weir.cap
      ∧ (s.moveOpp opp cause).weir.mute = s.weir.mute ∧ (s.moveOpp opp cause).weir.opp = opp := by
  unfold State.moveOpp
  split
  · next h => exact ⟨rfl, rfl, rfl, rfl, h.symm⟩
  · dsimp only
    obtain ⟨htaken, hwait, hweir⟩ := State.eventPF_keeps _ _ _ _ _ _
    rw [htaken, hwait, hweir]
    exact ⟨rfl, rfl, rfl, rfl, rfl⟩

/-- The end of a pin: the point and the cap stay, and no point is pinned. -/
theorem State.endPin_keeps (s : State) (reason : Nat) :
    (s.endPin reason).weir.cap = s.weir.cap ∧ (s.endPin reason).weir.opp = s.weir.opp ∧ (s.endPin reason).weir.pinned = false := by
  unfold State.endPin
  split
  · rw [(State.eventPF_keeps _ _ _ _ _ _).2.2]
    exact ⟨rfl, rfl, rfl⟩
  · next h => exact ⟨rfl, rfl, Bool.eq_false_iff.2 h⟩

/-- A regulator that is not listed as mute answers (R585). -/
theorem mute_getD_false {mute : List Bool} (h : ∀ m ∈ mute, m = false) (i : Nat) : mute.getD i false = false := by
  rw [List.getD_eq_getElem?_getD]
  cases hi : mute[i]? with
  | none => rfl
  | some m => exact h m (List.mem_of_getElem? hi)

/-- Where every regulator answers, each rail goes where it is told. -/
theorem Weir.mem_setVolts {w : Weir} (h : ∀ m ∈ w.mute, m = false) {target v : Nat} (hv : v ∈ (w.setVolts (fun _ => target)).volts) :
    v = target := by
  simp only [Weir.setVolts, mute_getD_false h, Bool.false_eq_true, if_false, List.mem_map] at hv
  obtain ⟨e, _, he⟩ := hv
  exact he.symm

/-- The state in which a point is pinned (R525): the device runs at it with its voltage held and the throttles stopped. -/
def State.pinned (s : State) (opp : Nat) : State :=
  (s.moveOpp opp 4).setWeir (fun w => { w.setVolts (fun _ => (oppOf opp).vpin) with
    pinned := true, tp := 0, energy := 0, calm := 0, hotTp := 0, overCap := 0, fast := false, since := s.time })

theorem State.pinned_keeps (s : State) (opp : Nat) :
    (s.pinned opp).taken = s.taken ∧ (s.pinned opp).pinWait = s.pinWait ∧ (s.pinned opp).weir.opp = opp
      ∧ (s.pinned opp).weir.cap = s.weir.cap := by
  obtain ⟨htaken, hwait, hcap, _, hopp⟩ := s.moveOpp_keeps opp 4
  exact ⟨htaken, hwait, hopp, hcap⟩

theorem State.pinned_volts {s : State} (h : ∀ m ∈ s.weir.mute, m = false) {opp v : Nat} (hv : v ∈ (s.pinned opp).weir.volts) :
    v = (oppOf opp).vpin := by
  obtain ⟨_, _, _, hmute, _⟩ := s.moveOpp_keeps opp 4
  exact Weir.mem_setVolts (by rwa [hmute]) hv

/-- A cap: the point stays; a pin that it does not cover ends (R521, R526). -/
theorem State.setCap_weir (s : State) (watts : Nat) :
    (s.setCap watts).weir.cap = watts ∧ (s.setCap watts).weir.opp = s.weir.opp
      ∧ ((oppOf s.weir.opp).pmax ≤ watts → s.setCap watts = { s with weir := { s.weir with cap := watts } })
      ∧ (watts < (oppOf s.weir.opp).pmax → (s.setCap watts).weir.pinned = false) := by
  unfold State.setCap
  dsimp only
  split
  · next hover =>
    obtain ⟨hcap, hopp, hpin⟩ := State.endPin_keeps (s.setWeir (fun w => { w with cap := watts })) 5
    exact ⟨hcap, hopp, fun hle => absurd hle (Nat.not_le.2 hover), fun _ => hpin⟩
  · next hcovers => exact ⟨rfl, rfl, fun _ => rfl, fun hlt => absurd hlt hcovers⟩

/-! ### The commands (R374) -/

theorem exec_oppList {s : State} {t : Taken} {p : Nat} (h : s.asks t p { op := 0x0800, who := .part, plen := 0 } = true) :
    exec (.oppList t.fn) s = .next (s.respond t (okWords (8 :: opps.flatMap (·.words)))) := by
  change execOppList t.fn s = _
  unfold execOppList State.query
  rw [run_command_of_asks h rfl (by decide) (by decide) rfl (by simp) rfl]

/-- The checks of OPP_PIN, for a point that the cap covers while nothing throttles. -/
theorem oppPin_checks {w : Weir} {opp : Nat} (hopp : opp < 8) (hcap : (oppOf opp).pmax ≤ w.cap) (htd : ∀ l ∈ w.td, l = 0)
    (hemergency : ∀ e ∈ w.emergency, e = false) :
    ∀ k ∈ ([(decide (8 ≤ opp), stBadLength, 8),
      (decide (w.cap < (oppOf opp).pmax) || w.td.any (· != 0) || w.emergency.any id, stConflict, 8)] : List Chk), k.1 = false := by
  simpa [hopp, hcap] using ⟨htd, fun h => Bool.noConfusion (hemergency true h)⟩

theorem testBit_four_of_lt {n : Nat} (h : n < 8) : n.testBit 4 = false := Nat.testBit_lt_two_pow (by omega)

/-- OPP_PIN of a point that is pinned already changes nothing. -/
theorem exec_oppPin_again {s : State} {t : Taken} {p : Nat} (h : s.asks t p pinCmd = true) (hopp : t.w 8 < 8)
    (hcap : (oppOf (t.w 8)).pmax ≤ s.weir.cap) (htd : ∀ l ∈ s.weir.td, l = 0) (hemergency : ∀ e ∈ s.weir.emergency, e = false)
    (hpinned : s.weir.pinned = true) (hat : s.weir.opp = t.w 8) : exec (.oppPin t.fn) s = .next (s.respond t ok) := by
  change execOppPin t.fn s = _
  unfold execOppPin
  rw [run_command_of_asks h rfl (by decide) (by decide) (by rw [testBit_four_of_lt hopp]; rfl) (oppPin_checks hopp hcap htd hemergency)]
    <;> simp only [hpinned, hat, and_self, if_true]
  rfl

/-- OPP_PIN of another point pins it, and is answered at once where no tile runs (R132, R377). -/
theorem exec_oppPin {s : State} {t : Taken} {p : Nat} (h : s.asks t p pinCmd = true) (hopp : t.w 8 < 8)
    (hcap : (oppOf (t.w 8)).pmax ≤ s.weir.cap) (htd : ∀ l ∈ s.weir.td, l = 0) (hemergency : ∀ e ∈ s.weir.emergency, e = false)
    (hmute : ∀ m ∈ s.weir.mute, m = false) (hnew : ¬ (s.weir.pinned = true ∧ s.weir.opp = t.w 8)) :
    exec (.oppPin t.fn) s = .next (if s.tiles.any (fun e => e.2.running) = true then
      ({ s.pinned (t.w 8) with taken := (s.pinned (t.w 8)).taken.drop 1, pinWait := (s.pinned (t.w 8)).pinWait ++ [t] } : State)
      else (s.pinned (t.w 8)).respond t ok) := by
  have hmine : (!(t.w 8).testBit 4) = true := by rw [testBit_four_of_lt hopp]; rfl
  have hchecks := oppPin_checks hopp hcap htd hemergency
  have hrails : (List.range 6).any (fun i => s.weir.mute.getD i false && s.weir.volts.getD i 0 != (oppOf (t.w 8)).vpin) = false := by
    simp only [mute_getD_false hmute, Bool.false_and, List.any_eq_false, Bool.false_eq_true, not_false_eq_true, implies_true]
  change execOppPin t.fn s = _
  unfold execOppPin
  rw [run_command_of_asks_waits h rfl (by decide) (by decide) hmine hchecks]
  simp only [if_neg hnew, hrails, Bool.false_eq_true, if_false]
  split
  · rfl
  · next hidle =>
    rw [Bool.eq_false_iff.2 hidle]
    rfl

theorem exec_oppRelease {s : State} {t : Taken} {p : Nat} (h : s.asks t p pinCmd = true) (hrelease : t.w 8 = 16) :
    exec (.oppRelease t.fn) s = .next ((if s.weir.pinned then
      ({ s with weir := { s.weir with pinned := false, energy := 0, calm := 0, hotTp := 0 } } : State) else s).respond t ok) := by
  change execOppRelease t.fn s = _
  unfold execOppRelease
  rw [run_command_of_asks h rfl (by decide) (by decide) (by rw [hrelease]; rfl) (by simp [hrelease]) rfl]
  rfl

theorem exec_powerCap {s : State} {t : Taken} {p : Nat}
    (h : s.asks t p { op := 0x0802, who := .pf, plen := 4, masks := [0x7FF] } = true) (hlow : 600 ≤ t.w 8) (hhigh : t.w 8 ≤ 1400) :
    exec (.powerCap t.fn) s = .next ((s.setCap (t.w 8)).respond t ok) := by
  change execPowerCap t.fn s = _
  unfold execPowerCap
  rw [run_command_of_asks h rfl (by decide) (by decide) rfl (by simp [hlow, hhigh]) rfl]

/-- POWER_READ answers the mean of the last 100 samples, rounded in either direction, and the greatest sample. -/
theorem exec_powerRead {s : State} {t : Taken} {p : Nat} (h : s.asks t p { op := 0x0803, who := .part, plen := 0 } = true) :
    ∃ mean peak hot aclk : Nat, exec (.powerRead t.fn) s = .next (({ s with draws := s.draws + 1 } : State).respond t
        (okWords [mean, peak, hot, aclk]))
      ∧ (100 ≤ s.weir.samples.length → ∃ r, r < 100 ∧ mean = ((s.weir.samples.take 100).sum + r) / 100 % 2048)
      ∧ (∀ m, s.weir.samples.max? = some m → peak = m % 2048) := by
  change ∃ mean peak hot aclk : Nat, execPowerRead t.fn s = _ ∧ _
  unfold execPowerRead
  rw [run_command_of_asks h rfl (by decide) (by decide) rfl (by simp) rfl]
  refine ⟨_, _, _, _, rfl, fun hlen => ⟨s.draw.1 % 100, Nat.mod_lt _ (by decide), ?_⟩, fun m hmax => ?_⟩
  · rw [if_pos (by rw [List.length_take, Nat.min_eq_left hlen])]
  · rw [hmax]

/-- Settles O13: each command by its own equation; what the pin (`State.pinned`) and the cap (`State.setCap`) leave alone follows from
what the event records of a move and of the end of a pin leave alone. -/
theorem powerCommandsExecute : Obligations.PowerCommandsExecute := by
  unfold Obligations.PowerCommandsExecute
  intro s t p
  refine ⟨exec_oppList, fun h hopp hcap htd hemergency hmute hnew => ?pin, exec_oppPin_again, exec_oppRelease, fun h hlow hhigh => ?cap,
    exec_powerRead⟩
  case pin =>
    obtain ⟨htaken, hwait, hat, hsame⟩ := s.pinned_keeps (t.w 8)
    exact ⟨s.pinned (t.w 8), exec_oppPin h hopp hcap htd hemergency hmute hnew, htaken, hwait, hat, rfl, rfl, rfl, hsame,
      fun v => State.pinned_volts hmute⟩
  case cap => exact ⟨s.setCap (t.w 8), exec_powerCap h hlow hhigh, s.setCap_weir (t.w 8)⟩

end Sys2Proof.Machine
end

section
/-! The mapping commands MAP, UNMAP and MAP_QUERY (R279, R366), CST_WRITE and CST_READ (R151, R153, R367). -/

namespace Sys2Proof.Machine

/-! ### Ranges of pages (R366) -/

/-- The range that a mapping command names: 1 to 4,096 pages, on a page boundary, in space 0 below 2^38. -/
structure MapRange (t : Taken) : Prop where
  space : t.w 9 % 65536 < 4096
  pos   : 1 ≤ mapPages t
  most  : mapPages t ≤ 4096
  align : mapVa t % mapUnit t = 0
  fits  : mapVa t + mapBytes t ≤ 2 ^ 38

/-- The checks of a range that is too long choose the branch of one that is not. -/
theorem MapRange.not_long {t : Taken} (h : MapRange t) : ¬ (4096 < mapPages t ∨ 2 ^ 38 < mapVa t + mapBytes t) :=
  not_or.2 ⟨Nat.not_lt.2 h.most, Nat.not_lt.2 h.fits⟩

theorem MapRange.pages_ne {t : Taken} (h : MapRange t) : mapPages t ≠ 0 := Nat.one_le_iff_ne_zero.1 h.pos

theorem vaChk_false {t : Taken} (h : t.w 9 % 65536 < 4096) : (vaChk t).1 = false := decide_eq_false (Nat.not_le.2 h)

/-- An address whose words are both zero. -/
theorem Taken.addr_zero {t : Taken} {i : Nat} (h : t.w i = 0 ∧ t.w (i + 1) = 0) : t.addr i = 0 := by
  rw [Taken.addr, h.1, h.2, Nat.zero_mod, Nat.mul_zero]

/-! ### MAP -/

/-- What the tables say of MAP. -/
abbrev mapCmd : Cmd := { op := 0x0300, who := .part, plen := 20, masks := [m32, 0xFFFF, 0x7_1FFF, m32, 0xFFFF] }

/-- MAP of no page changes nothing. -/
theorem exec_map_none {s : State} {t : Taken} {p : Nat} (place : List Nat) (h : s.asks t p mapCmd = true) (hspace : t.w 9 % 65536 < 4096)
    (hzero : (t.w 10).testBit 18 = false → t.w 11 = 0 ∧ t.w 12 = 0) (hnone : mapPages t = 0) :
    exec (.map t.fn place) s = .next (s.respond t ok) := by
  change execMap t.fn place s = _
  unfold execMap
  rw [run_command_of_asks h rfl (by decide) (by decide) rfl ?checks rfl]
  case checks => simpa [hnone, vaChk_false hspace] using ⟨fun hb => (hzero hb).1, fun hb => (hzero hb).2⟩
  simp only [if_pos hnone]

/-- MAP of a free range: host pages in a row from the address named, or HBM pages at the frames found for them (R366). -/
theorem exec_map_pages {s : State} {t : Taken} {p : Nat} (place : List Nat) (h : s.asks t p mapCmd = true) (hr : MapRange t)
    (hzero : (t.w 10).testBit 18 = false → t.w 11 = 0 ∧ t.w 12 = 0) (hfree : s.rangeMapped p (mapVa t) (mapBytes t) = false)
    (halign : t.addr 11 % mapUnit t = 0) (hend : (t.w 10).testBit 18 = true → t.addr 11 + mapBytes t ≤ 2 ^ 44)
    (hframes : (t.w 10).testBit 18 = false → (s.framesFor p (mapPages t) (mapUnit t) (mapBig t) (mapVa t) place).isSome = true) :
    exec (.map t.fn place) s = .next ((s.mapIn p (mapVa t) (mapUnit t) (mapBig t) ((t.w 10).testBit 17) ((t.w 10).testBit 18) t.fn
      (if (t.w 10).testBit 18 then (List.range (mapPages t)).map (fun j => t.addr 11 + j * mapUnit t)
       else (s.framesFor p (mapPages t) (mapUnit t) (mapBig t) (mapVa t) place).getD [])).respond t ok) := by
  change execMap t.fn place s = _
  unfold execMap
  rw [run_command_of_asks h rfl (by decide) (by decide) rfl ?checks rfl] <;> simp only [actsOn_of_asks h rfl, if_neg hr.pages_ne]
  case checks =>
    rw [if_neg hr.not_long]
    simpa [-Nat.reducePow, vaChk_false hr.space, hr.most, hr.align, hr.fits, hfree, halign] using
      ⟨fun hb => (hzero hb).1, fun hb => (hzero hb).2, hend, hframes⟩

/-- MAP of host pages. -/
theorem exec_map_host {s : State} {t : Taken} {p : Nat} (place : List Nat) (h : s.asks t p mapCmd = true) (hr : MapRange t)
    (hfree : s.rangeMapped p (mapVa t) (mapBytes t) = false) (hhost : (t.w 10).testBit 18 = true)
    (halign : t.addr 11 % mapUnit t = 0) (hend : t.addr 11 + mapBytes t ≤ 2 ^ 44) :
    exec (.map t.fn place) s = .next ((s.mapIn p (mapVa t) (mapUnit t) (mapBig t) ((t.w 10).testBit 17) true t.fn
      ((List.range (mapPages t)).map (fun j => t.addr 11 + j * mapUnit t))).respond t ok) := by
  have hmap := exec_map_pages place h hr (by simp [hhost]) hfree halign (fun _ => hend) (by simp [hhost])
  rwa [hhost, if_pos rfl] at hmap

/-- MAP of HBM pages. -/
theorem exec_map_hbm {s : State} {t : Taken} {p : Nat} {place frames : List Nat} (h : s.asks t p mapCmd = true) (hr : MapRange t)
    (hfree : s.rangeMapped p (mapVa t) (mapBytes t) = false) (hhbm : (t.w 10).testBit 18 = false) (hzero : t.w 11 = 0 ∧ t.w 12 = 0)
    (hframes : s.framesFor p (mapPages t) (mapUnit t) (mapBig t) (mapVa t) place = some frames) :
    exec (.map t.fn place) s = .next
      ((s.mapIn p (mapVa t) (mapUnit t) (mapBig t) ((t.w 10).testBit 17) false t.fn frames).respond t ok) := by
  have hmap := exec_map_pages place h hr (fun _ => hzero) hfree (by rw [Taken.addr_zero hzero, Nat.zero_mod]) (by simp [hhbm])
    (by simp [hframes])
  rwa [hhbm, if_neg Bool.false_ne_true, hframes, Option.getD_some] at hmap

/-! ### UNMAP and MAP_QUERY -/

/-- What the tables say of UNMAP. -/
abbrev unmapCmd : Cmd := { op := 0x0301, who := .part, plen := 12, masks := [m32, 0xFFFF, 0x1_1FFF] }

/-- UNMAP of no page changes nothing. -/
theorem exec_unmap_none {s : State} {t : Taken} {p : Nat} (h : s.asks t p unmapCmd = true) (hspace : t.w 9 % 65536 < 4096)
    (hnone : mapPages t = 0) : exec (.unmap t.fn) s = .next (s.respond t ok) := by
  change execUnmap t.fn s = _
  unfold execUnmap
  rw [run_command_of_asks h rfl (by decide) (by decide) rfl (by simp [hnone, vaChk_false hspace]) rfl]
  simp only [if_pos hnone]

/-- UNMAP of mapped pages of its size that nothing uses removes the entries of the range (R279, R366). -/
theorem exec_unmap_pages {s : State} {t : Taken} {p : Nat} (h : s.asks t p unmapCmd = true) (hr : MapRange t)
    (hmapped : ∀ j, j < mapPages t → ∃ g, s.pageAt p (mapVa t + j * mapUnit t) = some g ∧ g.big = mapBig t)
    (hidle : s.mapHeld p (mapVa t) (mapBytes t) = false) :
    exec (.unmap t.fn) s = .next ((s.setPart p { s.part p with pages := (s.part p).pages.filter (fun g =>
      decide (65536 * g.1 < mapVa t) || decide (mapVa t + mapBytes t ≤ 65536 * g.1)) }).respond t ok) := by
  change execUnmap t.fn s = _
  unfold execUnmap
  rw [run_command_of_asks h rfl (by decide) (by decide) rfl ?checks rfl] <;> simp only [actsOn_of_asks h rfl, if_neg hr.pages_ne]
  case checks =>
    rw [if_neg hr.not_long]
    refine List.forall_mem_cons.2 ⟨vaChk_false hr.space, List.forall_mem_append.2 ⟨?range, ?pages⟩⟩
    case range => simp [-Nat.reducePow, hr.align, hr.most, hr.fits]
    case pages =>
      refine List.forall_mem_cons.2 ⟨List.any_eq_false.2 fun j hj => ?_, List.forall_mem_singleton.2 hidle⟩
      obtain ⟨g, hg, hbig⟩ := hmapped j (List.mem_range.1 hj)
      simp [hg, hbig]

theorem exec_mapQuery {s : State} {t : Taken} {p : Nat}
    (h : s.asks t p { op := 0x0302, who := .part, plen := 8, masks := [m32, 0xFFFF] } = true) (hspace : t.w 9 % 65536 < 4096)
    (hfits : mapVa t < 2 ^ 38) :
    exec (.mapQuery t.fn) s = .next (s.respond t (okWords
      [(s.mapEntry p (mapVa t)).1 % 2 ^ 32, (s.mapEntry p (mapVa t)).1 / 2 ^ 32, (s.mapEntry p (mapVa t)).2])) := by
  change execMapQuery t.fn s = _
  unfold execMapQuery State.query
  rw [run_command_of_asks h rfl (by decide) (by decide) rfl (by simp [-Nat.reducePow, vaChk_false hspace, hfits]) rfl]
  simp only [actsOn_of_asks h rfl]

/-! ### Channel Scale Tables (R151, R153, R367) -/

/-- Entries written in a row change the table alone. -/
theorem State.foldl_setCstEntry (l : List Nat) (d first : Nat) (v : Nat → BitVec 64) (s : State) :
    l.foldl (fun s i => s.setCstEntry d (first + i) (v i)) s =
      { s with cst := l.foldl (fun m i => SMap.set State.cstReset m (d * 131072 + (first + i)) (v i)) s.cst } := by
  induction l generalizing s with
  | nil => rfl
  | cons i l ih => rw [List.foldl_cons, ih, List.foldl_cons]; rfl

/-- The checks of a range of entries that the partition owns within the table. -/
theorem cstChks_false {s : State} {t : Taken} {p : Nat} (hcount : t.w 10 ≤ 506) (hfits : t.w 9 + t.w 10 ≤ 131072)
    (hown : ∀ i, i < t.w 10 → (s.part p).hasCst (t.w 8 % 4) (t.w 9 + i) = true) : ∀ k ∈ s.cstChks t p, k.1 = false := by
  have howned : (List.range (Nat.min (cstCount t) 1024)).any (fun i =>
      decide (cstFirst t + i < 131072) && !(s.part p).hasCst (cstDie t) (cstFirst t + i)) = false := by
    rw [List.any_eq_false]
    intro i hi
    have hlt : i < t.w 10 := Nat.lt_of_lt_of_le (List.mem_range.1 hi) (Nat.min_le_left _ _)
    simp [cstFirst, cstDie, hown i hlt]
  have hlong : decide (506 < cstCount t) = false := decide_eq_false (Nat.not_lt.2 hcount)
  have hpast : decide (131072 < cstFirst t + cstCount t) = false := decide_eq_false (Nat.not_lt.2 hfits)
  exact List.forall_mem_cons.2 ⟨howned, List.forall_mem_cons.2 ⟨hlong, List.forall_mem_singleton.2 (by rw [hpast, Bool.and_false])⟩⟩

/-- A table whose lock no self-test holds (R153). -/
theorem State.cstLocked_false {s : State} {die : Nat}
    (h : ∀ a r act, (s.lock (4 * 256 + die)).holder = some a → a.kind = .maint r act → act ≠ 4) : s.cstLocked die = false := by
  unfold State.cstLocked
  cases hholder : (s.lock (4 * 256 + die)).holder with
  | none => rfl
  | some a =>
    cases hkind : a.kind with
    | maint r act => simp [hkind, h a r act hholder hkind]
    | link n action lane => simp [hkind]
    | stage bank image => simp [hkind]

/-- A condition that is looked at only where there are entries. -/
theorem and_false_of_pos {n : Nat} {b : Bool} (h : n ≠ 0 → b = false) : (n != 0 && b) = false := by
  by_cases hn : n = 0
  · simp [hn]
  · simp [h hn]

/-- The value of the entry that stands at word 12 + 2i of CST_WRITE. -/
theorem Taken.w64_entry (t : Taken) (i : Nat) : t.w64 (12 + 2 * i) = t.w (12 + 2 * i) + 2 ^ 32 * t.w (13 + 2 * i) := by
  rw [Taken.w64, show 12 + 2 * i + 1 = 13 + 2 * i by omega]

/-- CST_WRITE of entries of the partition, with zeros where an entry has no bits, writes them where no self-test has the table and no
tile of the die runs for the partition. -/
theorem exec_cstWrite {s : State} {t : Taken} {p : Nat}
    (h : s.asks t p { op := 0x0310, who := .part, plen := 16 + 8 * t.w 10, masks := [3, 0x1_FFFF, 0x3FF, 0] } = true)
    (hcount : t.w 10 ≤ 506) (hfits : t.w 9 + t.w 10 ≤ 131072)
    (hentries : ∀ i, i < t.w 10 → t.w (13 + 2 * i) % 65536 = 0 ∧ (s.part p).hasCst (t.w 8 % 4) (t.w 9 + i) = true)
    (hlock : t.w 10 ≠ 0 → ∀ a r act, (s.lock (4 * 256 + t.w 8 % 4)).holder = some a → a.kind = .maint r act → act ≠ 4)
    (hidle : t.w 10 ≠ 0 → s.tiles.any (fun e => e.2.running && e.2.part == p && dieOf e.1 == t.w 8 % 4) = false) :
    ∃ u : State, exec (.cstWrite t.fn) s = .next (u.respond t ok)
      ∧ u.cst = (List.range (t.w 10)).foldl (fun m i => SMap.set State.cstReset m (t.w 8 % 4 * 131072 + (t.w 9 + i))
          (BitVec.ofNat 64 (t.w (12 + 2 * i) + 2 ^ 32 * t.w (13 + 2 * i)))) s.cst
      ∧ u.tiles = s.tiles ∧ u.hbm = s.hbm ∧ u.parts = s.parts ∧ u.rel.log = s.rel.log := by
  have hlen : 16 + 8 * t.w 10 < 4096 := by omega
  change ∃ u : State, execCstWrite t.fn s = _ ∧ _
  unfold execCstWrite
  rw [run_command_of_asks h rfl (by norm_num) hlen rfl ?checks rfl]
  case checks =>
    rw [actsOn_of_asks h rfl]
    refine List.forall_mem_append.2 ⟨List.forall_mem_append.2 ⟨?zeros, ?owned⟩, ?free⟩
    case zeros =>
      intro k hk
      obtain ⟨i, hi, rfl⟩ := List.mem_map.1 hk
      have hlt : i < t.w 10 := Nat.lt_of_lt_of_le (List.mem_range.1 hi) (Nat.min_le_left _ _)
      simp [(hentries i hlt).1]
    case owned => exact cstChks_false hcount hfits (fun i hi => (hentries i hi).2)
    case free =>
      exact List.forall_mem_cons.2 ⟨and_false_of_pos (fun hn => State.cstLocked_false (hlock hn)),
        List.forall_mem_singleton.2 (and_false_of_pos hidle)⟩
  simp only [State.foldl_setCstEntry, Taken.w64_entry]
  exact ⟨_, rfl, rfl, rfl, rfl, rfl, rfl⟩

theorem exec_cstRead {s : State} {t : Taken} {p : Nat}
    (h : s.asks t p { op := 0x0311, who := .part, plen := 12, masks := [3, 0x1_FFFF, 0x3FF] } = true)
    (hcount : t.w 10 ≤ 506) (hfits : t.w 9 + t.w 10 ≤ 131072)
    (hown : ∀ i, i < t.w 10 → (s.part p).hasCst (t.w 8 % 4) (t.w 9 + i) = true) :
    exec (.cstRead t.fn) s = .next (s.respond t (okWords ((List.range (t.w 10)).flatMap (fun i =>
      [(s.cstEntry (t.w 8 % 4) (t.w 9 + i)).toNat % 2 ^ 32, (s.cstEntry (t.w 8 % 4) (t.w 9 + i)).toNat / 2 ^ 32])))) := by
  have hchecks := cstChks_false hcount hfits hown
  rw [← actsOn_of_asks h rfl] at hchecks
  change execCstRead t.fn s = _
  unfold execCstRead State.query
  rw [run_command_of_asks h rfl (by decide) (by decide) rfl hchecks rfl]
  rfl

/-- Settles O6: each command by its own equation, with the range of MAP and UNMAP as `MapRange`. -/
theorem memoryCommandsExecute : Obligations.MemoryCommandsExecute := by
  unfold Obligations.MemoryCommandsExecute
  intro s t p
  refine ⟨fun place h hspace hzero => ⟨exec_map_none place h hspace hzero, fun hpos hmost halign hfits hfree => ?map⟩, exec_unmap_none,
    fun h hspace hpos hmost halign hfits => exec_unmap_pages h ⟨hspace, hpos, hmost, halign, hfits⟩, exec_mapQuery, exec_cstWrite,
    exec_cstRead⟩
  case map =>
    have hr : MapRange t := ⟨hspace, hpos, hmost, halign, hfits⟩
    exact ⟨fun hhost ⟨ha, hend⟩ => exec_map_host place h hr hfree hhost ha hend,
      fun _ hhbm => exec_map_hbm h hr hfree hhbm (hzero hhbm)⟩

end Sys2Proof.Machine
end

section
/-! REQUANT and MOVE COPY as commands (R153, R238): an entry with an uncorrectable error ends the launch of the REQUANT that fetches it,
and a COPY within the own Basin moves its bytes. -/

namespace Sys2Proof.Machine

/-- An instruction of its row that stands at its tile's program counter issues. -/
theorem State.run_issueWith {s : State} {ph : Nat} {w : Word128} {mine : Bool} {run : State → Tile → State × TRes}
    (hs : s.standsAt ph w = true) (hmine : mine = true) :
    s.run (fun s => s.when mine (·.issueWith ph w run)) = .next (s.issueWith ph w run) := by
  rw [State.run_live (Bool.and_eq_true_iff.1 hs).1, State.when, if_pos hmine]

/-- What stands at its tile's program counter may issue there. -/
theorem canIssue_of_standsAt {s : State} {ph : Nat} {w : Word128} (hs : s.standsAt ph w = true) : (s.tile ph).canIssue w = true :=
  (Bool.and_eq_true_iff.1 hs).2

/-- REQUANT of an entry with an uncorrectable error that its tile does not have in its cache loses the tile and ends its launch (R153). -/
theorem exec_requant_badEntry {s : State} {ph i : Nat} {w : Word128} {t' : Tile} {rd wr : List Range} (hs : s.standsAt ph w = true)
    (hop : opcode w = 0x10) (hreq : tileREQUANT (s.tctx ph) (s.tile ph) w = .ok t' rd wr)
    (hbad : s.badEntryRead ph (s.tile ph) w = some i) :
    exec (.requant ph w) s = .next ((s.loseTile ph 4 (dieOf ph) i).failTile ph stUncorrectable 0 (s.tile ph).pc) := by
  change execRequant ph w s = _
  rw [execRequant, State.run_issueWith hs (beq_iff_eq.2 hop),
    State.issueWith_fail (canIssue_of_standsAt hs) (by simp only [hreq, hbad]; rfl)]

/-- REQUANT that fetches sound entries and that nothing hinders is accepted. -/
theorem exec_requant {s : State} {ph : Nat} {w : Word128} {t' : Tile} {rd wr : List Range} (hs : s.standsAt ph w = true)
    (hop : opcode w = 0x10) (hreq : tileREQUANT (s.tctx ph) (s.tile ph) w = .ok t' rd wr)
    (hsound : s.badEntryRead ph (s.tile ph) w = none) (hu : (s.tile ph).unhindered t' rd wr = true) :
    exec (.requant ph w) s = .next (s.accept ph t' rd wr) := by
  change execRequant ph w s = _
  rw [execRequant, State.run_issueWith hs (beq_iff_eq.2 hop),
    State.issueWith_ok (canIssue_of_standsAt hs) (by simp only [hreq, hsound]; rfl) hu]

/-- COPY that nothing hinders is accepted. -/
theorem exec_moveCopy {s s1 : State} {ph : Nat} {w : Word128} {t' : Tile} {rd wr : List Range} (hs : s.standsAt ph w = true)
    (hmode : isMove 0 w = true) (hcopy : tileCOPY w s ph (s.tile ph) = (s1, .ok t' rd wr))
    (hu : (s.tile ph).unhindered t' rd wr = true) : exec (.moveCopy ph w) s = .next (s1.accept ph t' rd wr) := by
  change execMoveCopy ph w s = _
  rw [execMoveCopy, State.run_issueWith hs hmode, State.issueWith_ok (canIssue_of_standsAt hs) hcopy hu]

/-- An own address lies in the space it is an address of. -/
theorem daSpace_of_ownAddr {t : Tile} {a space : Nat} (h : t.ownAddr a space = true) : daSpace a = space := by
  simp only [Tile.ownAddr, Bool.and_eq_true, beq_iff_eq] at h
  exact h.1.1.1

/-- An end of a COPY in the Basin may be used. -/
theorem ownEnd_basin {da : Nat} (h : daSpace da = 1) (t : Tile) (len : Nat) (write : Bool) : ownEnd t da len write = none := by
  simp [ownEnd, h]

/-- COPY within the own Basin puts the bytes of its source at its destination (R238). -/
theorem tileCOPY_basin {s : State} {ph : Nat} {t : Tile} {w : Word128} (hfields : moveFields w = true) (hlen : moveLen w ≠ 0)
    (hsrc : t.ownAddr (moveSrc t w) 1 = true) (hdst : t.ownAddr (moveDst t w) 1 = true)
    (hread : s.closedTo ph (moveSrc t w) (moveLen w) false = false) (hwrite : s.closedTo ph (moveDst t w) (moveLen w) true = false) :
    tileCOPY w s ph t = (s, .ok (t.write 1 (daOff (moveDst t w)) (t.basin.bytes (daOff (moveSrc t w)) (moveLen w)))
      [⟨1, daOff (moveSrc t w), daOff (moveSrc t w) + moveLen w⟩] [⟨1, daOff (moveDst t w), daOff (moveDst t w) + moveLen w⟩]) := by
  have hs := daSpace_of_ownAddr hsrc
  have hd := daSpace_of_ownAddr hdst
  simp [tileCOPY, hfields, hlen, hsrc, hdst, hread, hwrite, hs, hd, ownEnd_basin, Tile.ownPut, Tile.ownBytes, ownRange]

/-- Settles O25: REQUANT by whether an entry it fetches is bad, COPY by its issue and by its effect within the Basin. -/
theorem requantAndCopyIssue : Obligations.RequantAndCopyIssue := by
  unfold Obligations.RequantAndCopyIssue
  intro s ph w t' rd wr hs
  exact ⟨fun hop hreq => ⟨fun _ => exec_requant_badEntry hs hop hreq, exec_requant hs hop hreq⟩,
    fun _ => exec_moveCopy hs, fun _ => tileCOPY_basin⟩

end Sys2Proof.Machine
end

section
/-! The instructions that work on their own tile as commands (R217, R237, R257): effect, or the end of the launch. -/

namespace Sys2Proof.Machine

/-! ### Issue of one instruction -/

/-- The three outcomes of an instruction of a row that works on its tile alone, where the row's condition holds: the effect, the end as
illegal, the end as failing (R217, R257, R258). -/
def IssuesAs (s : State) (ph : Nat) (i : Instr) (f : Tile → TRes) : Prop :=
  (∀ t' rd wr, f (s.tile ph) = .ok t' rd wr → (s.tile ph).unhindered t' rd wr = true →
    (t'.moved rd wr).running = true → (t'.moved rd wr).settled = true →
    ∃ u : State, exec i s = .next u ∧ u.tile ph = t'.moved rd wr ∧ (∀ o, o ≠ ph → u.tile o = s.tile o)
      ∧ { u with tiles := s.tiles, tele := s.tele } = s)
  ∧ (∀ r, f (s.tile ph) = .illegal r → exec i s = .next (s.failTile ph stBadOpcode r (s.tile ph).pc))
  ∧ (∀ st, f (s.tile ph) = .fail st → exec i s = .next (s.failTile ph st 0 (s.tile ph).pc))

/-- A row that changes nothing but its tile issues as its effect says, whatever guard stands before the effect. -/
theorem issuesAs_of_run {s : State} {ph : Nat} {w : Word128} {i : Instr} {f : Tile → TRes} {mine : Bool}
    {run : State → Tile → State × TRes} (hi : exec i s = s.run (fun s => s.when mine (·.issueWith ph w run)))
    (hs : s.standsAt ph w = true) (hmine : mine = true) (hrun : run s (s.tile ph) = (s, f (s.tile ph))) : IssuesAs s ph i f := by
  have hcan := canIssue_of_standsAt hs
  have hexec : exec i s = .next (s.issueWith ph w run) := by rw [hi, State.run_issueWith hs hmine]
  refine ⟨fun t' rd wr hf hu hr hg => ?_, fun r hf => ?_, fun st hf => ?_⟩
  · have hissue : exec i s = s.run (·.issue ph w true f) := by
      rw [hexec, State.run_live (Bool.and_eq_true_iff.1 hs).1, State.issue, State.when_true,
        State.issueWith_ok hcan (by rw [hrun, hf]) hu, State.issueWith_ok hcan (by rw [hf]) hu]
    rw [hissue]
    exact State.run_issue hs hf hu hr hg
  · rw [hexec, State.issueWith_illegal hcan (by rw [hrun, hf])]
  · rw [hexec, State.issueWith_fail hcan (by rw [hrun, hf])]

theorem issuesAs_of_issue {s : State} {ph : Nat} {w : Word128} {i : Instr} {f : Tile → TRes} {mine : Bool}
    (hi : exec i s = s.run (·.issue ph w mine f)) (hs : s.standsAt ph w = true) (hmine : mine = true) : IssuesAs s ph i f :=
  issuesAs_of_run hi hs hmine rfl

/-! ### The modes of MOVE whose addresses are open to the kernel (R238) -/

theorem State.moveGuard_open {s : State} {ph dlen : Nat} {w : Word128} {t : Tile} (f : State × TRes)
    (hsrc : s.closedTo ph (moveSrc t w) (moveLen w) false = false) (hdst : s.closedTo ph (moveDst t w) dlen true = false) :
    s.moveGuard ph t w dlen f = f := by
  simp [State.moveGuard, hsrc, hdst]

theorem issuesAs_moveMerge {s : State} {ph : Nat} {w : Word128} (hs : s.standsAt ph w = true) (hmode : isMove 1 w = true)
    (hsrc : s.closedTo ph (moveSrc (s.tile ph) w) (moveLen w) false = false)
    (hdst : s.closedTo ph (moveDst (s.tile ph) w) (moveLen w) true = false) :
    IssuesAs s ph (.moveMerge ph w) (tileMERGE · w false) :=
  issuesAs_of_run rfl hs hmode (State.moveGuard_open _ hsrc hdst)

theorem issuesAs_moveMergeStandard {s : State} {ph : Nat} {w : Word128} (hs : s.standsAt ph w = true) (hmode : isMove 2 w = true)
    (hsrc : s.closedTo ph (moveSrc (s.tile ph) w) (moveLen w) false = false)
    (hdst : s.closedTo ph (moveDst (s.tile ph) w) (moveLen w / 64 * 128) true = false) :
    IssuesAs s ph (.moveMergeStandard ph w) (tileMERGE · w true) :=
  issuesAs_of_run rfl hs hmode (State.moveGuard_open _ hsrc hdst)

theorem issuesAs_moveStatus {s : State} {ph : Nat} {w : Word128} (hs : s.standsAt ph w = true) (hmode : isMove 3 w = true)
    (hdst : s.closedTo ph (moveDst (s.tile ph) w) (moveLen w) true = false) :
    IssuesAs s ph (.moveStatus ph w) (tileSTATUS · w) :=
  issuesAs_of_run rfl hs hmode (by simp [hdst])

/-- Settles O24: every row but the MOVE modes is `State.issue` of its effect; the MOVE modes are so behind a guard that open addresses
pass. -/
theorem tileInstructionsIssue : Obligations.TileInstructionsIssue := by
  unfold Obligations.TileInstructionsIssue
  intro s ph w i mine f near hmem hs hmine
  have plain {i : Instr} {mine : Bool} {f : Tile → TRes} (hi : exec i s = s.run (·.issue ph w mine f)) :
      mine = true → IssuesAs s ph i f := issuesAs_of_issue hi hs
  refine (?rows : ∀ e ∈ _, e.2.1 = true → IssuesAs s ph e.1 e.2.2) (i, mine, f) hmem hmine
  simp only [List.forall_mem_cons, near, Bool.and_eq_true, Bool.not_eq_true']
  refine ⟨plain rfl, plain rfl, plain rfl, plain rfl, plain rfl, plain rfl, plain rfl,
    fun ⟨hmode, hsrc, hdst⟩ => issuesAs_moveMerge hs hmode hsrc hdst,
    fun ⟨hmode, hsrc, hdst⟩ => issuesAs_moveMergeStandard hs hmode hsrc hdst,
    fun ⟨hmode, hdst⟩ => issuesAs_moveStatus hs hmode hdst,
    plain rfl, plain rfl, plain rfl, plain rfl, plain rfl, plain rfl, plain rfl, plain rfl, plain rfl, plain rfl,
    plain rfl, plain rfl, plain rfl, plain rfl, plain rfl, plain rfl, plain rfl, plain rfl, plain rfl, plain rfl,
    List.forall_mem_nil _⟩

end Sys2Proof.Machine
end

section
/-! The CONTROL instructions as commands (R250 to R255): each that its fields allow leaves its tile as the row says. -/

namespace Sys2Proof.Machine

/-! ### Issue of one CONTROL instruction -/

/-- A command that leaves its tile as `u`, with no other tile and nothing but counters changed, where `u` runs and has somewhere to go on. -/
def TileGoes (s : State) (ph : Nat) (c : Instr) (u : Tile) : Prop :=
  u.running = true → u.settled = true →
    ∃ v : State, exec c s = .next v ∧ v.tile ph = u ∧ (∀ o, o ≠ ph → v.tile o = s.tile o) ∧ { v with tiles := s.tiles, tele := s.tele } = s

/-- A row of the CONTROL slot that names no failure makes its tile what its effect says. -/
theorem tileGoes_of_control {s : State} {ph op : Nat} {w : Word128} {c : Instr} {mine : Bool} {f : Tile → Tile ⊕ (Word16 × Nat)} {u : Tile}
    (hc : exec c s = .next (if s.live then s.control ph w op mine f else s)) (hs : s.standsAt ph w = true) (hop : opcode w = op) (hmine : mine = true)
    (hf : f (s.tile ph) = .inl u) : TileGoes s ph c u := by
  intro hrun hsettled
  subst hmine
  obtain ⟨k, hk⟩ := State.control_ok hop (canIssue_of_standsAt hs) hf hrun hsettled
  have htile (o : Nat) : State.tile { s.setTile ph u with tele := k } o = if o = ph then u else s.tile o :=
    State.tile_setTile_running s hrun ph o
  refine ⟨_, hc.trans (by rw [if_pos (Bool.and_eq_true_iff.1 hs).1]), ?_⟩
  rw [hk]
  exact ⟨(htile ph).trans (if_pos rfl), fun o ho => (htile o).trans (if_neg ho), rfl⟩

/-! ### SETA (R250) -/

theorem tileGoes_seta {s : State} {ph : Nat} {w : Word128} (hs : s.standsAt ph w = true) (hop : opcode w = 0x22)
    (hfields : onlyFields w 0x7F_FFFF 0xFFFF_FFFF 0 0 = true) :
    TileGoes s ph (.seta ph w) ((s.tile ph).setAreg (fld w 0 8 4) (setaResult (s.tile ph) w)).advance :=
  tileGoes_of_control rfl hs hop rfl (by simp [hfields])

/-! ### LOOP (R251) -/

/-- A LOOP that names a free counter, with room on the stack and its end within the code and the body around it, is legal: what it does
turns on its count alone. -/
theorem tileLOOP_legal {t : Tile} {w : Word128} (hfields : onlyFields w 0x3FFF 0xFFFF_FFFF 0x7FF 0xFFFF = true)
    (hctr : ∀ l ∈ t.loops, l.ctr ≠ fld w 0 8 2) (hdepth : t.loops.length < 4) (hend : t.pc + fld w 2 0 11 + 1 < t.ninstr)
    (hinner : ∀ l ∈ t.loops.head?, t.pc + fld w 2 0 11 + 1 ≤ l.last) :
    tileLOOP t w = if (t.areg (fld w 0 10 4) + imm48 w).toInt ≤ 0 then
        .inl (loopEnd (t.pc + fld w 2 0 11 + 1) t.loops { t with lastIdx := t.pc, issued := t.issued + 1 })
      else .inl { t with
        lastIdx := t.pc, pc := t.pc + 1, issued := t.issued + 1,
        ctrs := SMap.set 0 t.ctrs (fld w 0 8 2) (t.areg (fld w 0 10 4) + imm48 w).toInt.toNat,
        loops := { ctr := fld w 0 8 2, first := t.pc + 1, last := t.pc + fld w 2 0 11 + 1,
                   left := (t.areg (fld w 0 10 4) + imm48 w).toInt.toNat, inc1 := fld w 3 0 4, str1 := fld w 3 4 4,
                   inc2 := fld w 3 8 4, str2 := fld w 3 12 4 } :: t.loops } := by
  have hend' : ¬ t.ninstr ≤ t.pc + fld w 2 0 11 + 1 := Nat.not_le.2 hend
  have hdepth' : ¬ 4 ≤ t.loops.length := Nat.not_le.2 hdepth
  cases hl : t.loops with
  | nil => simp [tileLOOP, hfields, hl, hend']
  | cons l ls =>
    rw [hl] at hctr hdepth' hinner
    have hfree : ((l :: ls).any (fun l => l.ctr == fld w 0 8 2)) = false := by simpa using hctr
    have hwithin : ¬ l.last < t.pc + fld w 2 0 11 + 1 := Nat.not_lt.2 (hinner l rfl)
    simp [-List.any_cons, -List.length_cons, tileLOOP, hfields, hl, hfree, hend', hdepth', hwithin]

/-! ### BRANCH (R252) -/

theorem tileBRANCH_passed {t : Tile} {w : Word128} (hfields : onlyFields w 0x7_FFFF 0xFFFF_FFFF 0xFFFF 0 = true)
    (hcond : fld w 0 8 3 ≠ 7) (hnot : branchTaken t w = false) : tileBRANCH t w = .inl t.advance := by
  simp [tileBRANCH, hfields, hcond, hnot]

theorem tileBRANCH_taken {t : Tile} {w : Word128} {n : Nat} (hfields : onlyFields w 0x7_FFFF 0xFFFF_FFFF 0xFFFF 0 = true)
    (hcond : fld w 0 8 3 ≠ 7) (htaken : branchTaken t w = true) (htarget : (t.pc : Int) + sfld w 2 0 16 = n) (hn : n < t.ninstr)
    (hbody : innermost t n = innermost t t.pc) : tileBRANCH t w = .inl { t with lastIdx := t.pc, pc := n, issued := t.issued + 1 } := by
  have hpos : ¬ (n : Int) < 0 := by omega
  have hend : ¬ (t.ninstr : Int) ≤ n := by omega
  simp [tileBRANCH, hfields, hcond, htaken, htarget, hpos, hend, hbody]

/-! ### WAIT and SIGNAL (R253, R254) -/

theorem tileGoes_waitLocal {s : State} {ph : Nat} {w : Word128} (hs : s.standsAt ph w = true) (hop : opcode w = 0x23)
    (hfields : onlyFields w 0xFF_FFFF 0x7FFF 0xFFFF_FFFF 0xFF_FFFF = true) (hmode : flag w 0 8 = true) :
    TileGoes s ph (.waitLocal ph w) (s.tile ph).advance :=
  tileGoes_of_control rfl hs hop hmode (by simp [hfields])

/-- WAIT of a counter of the partition passes it, or holds issue until it has reached the target. -/
theorem tileGoes_waitSync {s : State} {ph : Nat} {w : Word128} (hs : s.standsAt ph w = true) (hop : opcode w = 0x23)
    (hfields : onlyFields w 0xFF_FFFF 0x7FFF 0xFFFF_FFFF 0xFF_FFFF = true) (hmode : flag w 0 8 = false)
    (hsync : (s.part (s.tile ph).part).hasSync (syncIndex (s.tile ph) w) = true) :
    TileGoes s ph (.waitSync ph w) (if syncValue (s.tile ph) w ≤ (s.counter (syncIndex (s.tile ph) w)).toNat then (s.tile ph).advance
      else { s.tile ph with
        wait := some { obj := syncIndex (s.tile ph) w, target := syncValue (s.tile ph) w, timeout := fld w 3 0 24 } }) := by
  have hgo (u : Tile) := tileGoes_of_control (u := u) (c := .waitSync ph w) rfl hs hop (congrArg not hmode)
  split
  next hmet => exact hgo _ (by simp [hfields, hsync, hmet])
  next hmet => exact hgo _ (by simp [hfields, hsync, hmet])

/-- SIGNAL leaves its addition to the commit of the step. -/
theorem tileGoes_signal {s : State} {ph : Nat} {w : Word128} (hs : s.standsAt ph w = true) (hop : opcode w = 0x24)
    (hfields : onlyFields w 0xFF_00FF 0x7FFF 0xFFFF_FFFF 0 = true)
    (hsync : (s.part (s.tile ph).part).hasSync (syncIndex (s.tile ph) w) = true) :
    TileGoes s ph (.signal ph w) ((s.tile ph).mapStep (fun x =>
      { x with signals := x.signals ++ [(syncIndex (s.tile ph) w, BitVec.ofNat 64 (syncValue (s.tile ph) w))] })).advance :=
  tileGoes_of_control rfl hs hop rfl (by simp [hfields, hsync])

/-! ### STEP and END (R255) -/

theorem tileGoes_step {s : State} {ph : Nat} {w : Word128} (hs : s.standsAt ph w = true) (hop : opcode w = 0x25)
    (hfields : onlyFields w 0xFF 0 0 0 = true) (hroom : (s.tile ph).steps.length < 4) :
    TileGoes s ph (.step ph w) (s.tile ph).boundary.advance :=
  tileGoes_of_control rfl hs hop (by simp [hfields, hroom]) (by simp [hfields])

/-- STEP waits while it would make a fifth uncommitted step (R260). -/
theorem exec_step_waits {s : State} {ph : Nat} {w : Word128} (hs : s.standsAt ph w = true)
    (hfields : onlyFields w 0xFF 0 0 0 = true) (hfull : 4 ≤ (s.tile ph).steps.length) : exec (.step ph w) s = .next s := by
  change execStep ph w s = _
  rw [execStep, State.run_live (Bool.and_eq_true_iff.1 hs).1]
  simp [State.control, hfields, hfull]

theorem tileGoes_tileEnd {s : State} {ph : Nat} {w : Word128} (hs : s.standsAt ph w = true) (hop : opcode w = 0x26)
    (hfields : onlyFields w 0xFF 0 0 0 = true) :
    TileGoes s ph (.tileEnd ph w) { (s.tile ph).mapStep (fun x => { x with closed := true, final := true }) with
      ended := true, lastIdx := (s.tile ph).pc } :=
  tileGoes_of_control rfl hs hop rfl (by simp [hfields])

/-- Settles O27: each row's effect under its conditions, issued by `tileGoes_of_control`. -/
theorem controlInstructionsExecute : Obligations.ControlInstructionsExecute := by
  unfold Obligations.ControlInstructionsExecute
  intro s ph w hs t goes
  refine ⟨tileGoes_seta hs, fun hop hfields hctr hdepth hend hinner => ?loop, fun hop hfields hcond => ⟨fun hnot => ?passed,
    fun n htaken htarget hn hbody => ?taken⟩, fun hop hfields => ⟨tileGoes_waitLocal hs hop hfields, fun hmode hsync => ?wait⟩,
    tileGoes_signal hs, fun hop hfields => ⟨tileGoes_step hs hop hfields, exec_step_waits hs hfields⟩, tileGoes_tileEnd hs⟩
  case loop =>
    have hlegal := tileLOOP_legal hfields hctr hdepth hend hinner
    exact ⟨fun hcount => tileGoes_of_control rfl hs hop rfl (hlegal.trans (if_pos hcount)),
      fun hcount => tileGoes_of_control rfl hs hop rfl (hlegal.trans (if_neg (Int.not_le.2 hcount)))⟩
  case passed => exact tileGoes_of_control rfl hs hop rfl (tileBRANCH_passed hfields hcond hnot)
  case taken => exact tileGoes_of_control rfl hs hop rfl (tileBRANCH_taken hfields hcond htaken htarget hn hbody)
  case wait =>
    have hwait := tileGoes_waitSync hs hop hfields hmode hsync
    exact ⟨fun hmet => by rwa [if_pos hmet] at hwait, fun hunmet => by rwa [if_neg (Nat.not_le.2 hunmet)] at hwait⟩

end Sys2Proof.Machine
end

section
/-! The end of a running launch by a tile that fails (R257 to R259). -/

namespace Sys2Proof.Machine

/-- The state without its tiles and the model's own counter. -/
def State.besideTiles (s : State) : State := { s with tiles := [], draws := 0 }

theorem State.draw_modTile_besideTiles (s : State) (ph : Nat) (f : Tile → Tile) :
    (s.draw.2.modTile ph f).besideTiles = s.besideTiles := rfl

/-- Stopping tiles changes tiles, and the model's own counter, alone. -/
theorem State.stopTiles_besideTiles (s : State) (part : Nat) : (s.stopTiles part).besideTiles = s.besideTiles := by
  unfold State.stopTiles
  generalize s.runTiles part = l
  induction l generalizing s with
  | nil => rfl
  | cons ph l ih => exact (ih _).trans (s.draw_modTile_besideTiles ph _)

/-- What ends in a launch: its state, and what its status record of the failure names. -/
def Launch.failed (l : Launch) (status : Word16) (reason ltile instr : Nat) : Launch :=
  { l with ph := .ended, status := status, reason := reason, ltile := ltile, instr := instr }

theorem State.endLaunch_besideTiles (s : State) (l : Launch) (status : Word16) (reason ltile instr : Nat) :
    (s.endLaunch l status reason ltile instr).besideTiles =
      (s.modLaunch l.queue l.seq (·.failed status reason ltile instr)).besideTiles :=
  State.stopTiles_besideTiles _ _

/-- A launch ends in the list of launches, and no sync object changes. -/
theorem State.endLaunch_fields (s : State) (l : Launch) (status : Word16) (reason ltile instr : Nat) :
    (s.endLaunch l status reason ltile instr).launches = (s.modLaunch l.queue l.seq (·.failed status reason ltile instr)).launches
      ∧ (s.endLaunch l status reason ltile instr).sync = s.sync :=
  have h := State.endLaunch_besideTiles s l status reason ltile instr
  ⟨(congrArg State.launches h :), (congrArg State.sync h :)⟩

theorem State.failTile_running {s : State} {ph : Nat} {l : Launch} (h : s.runningOf (s.tile ph).part = some l) (status : Word16)
    (reason instr : Nat) : s.failTile ph status reason instr = s.endLaunch l status reason (s.tile ph).ltile instr := by
  simp only [State.failTile, h]

/-- A changed launch is in the list. -/
theorem State.mem_modLaunch {s : State} {l : Launch} (h : l ∈ s.launches) (f : Launch → Launch) :
    f l ∈ (s.modLaunch l.queue l.seq f).launches :=
  List.mem_map.2 ⟨l, h, if_pos ⟨rfl, rfl⟩⟩

/-- A launch of another identity stays in the list as it is. -/
theorem State.mem_modLaunch_other {s : State} {m : Launch} {q : Nat} {seq : BitVec 32} (h : m ∈ s.launches)
    (hne : ¬ (m.queue = q ∧ m.seq = seq)) (f : Launch → Launch) : m ∈ (s.modLaunch q seq f).launches :=
  List.mem_map.2 ⟨m, h, if_neg hne⟩

/-- Settles O30: the failure ends the one running launch of the partition, and stopping its tiles changes no launch. -/
theorem failingTileEndsItsLaunch : Obligations.FailingTileEndsItsLaunch := by
  unfold Obligations.FailingTileEndsItsLaunch
  intro s ph reason instr status l hl
  have hmem : l ∈ s.launches := List.mem_of_find?_eq_some hl
  obtain ⟨hlaunches, hsync⟩ := State.endLaunch_fields s l status reason (s.tile ph).ltile instr
  rw [State.failTile_running hl, hlaunches]
  exact ⟨⟨_, State.mem_modLaunch hmem _, rfl, rfl, rfl, rfl, rfl, rfl, rfl⟩, fun m hm hne => State.mem_modLaunch_other hm hne _, hsync⟩

end Sys2Proof.Machine
end

section
/-! Writes that reach HBM and host memory: where they land depends on no tile, and they touch none (R239, R275, R276). -/

namespace Sys2Proof.Machine

/-! ### Places of space 0 (R276) -/

/-- A place in HBM or host memory. -/
def Place.outside : Place → Bool
  | .tile .. => false
  | _ => true

theorem State.place_space0 {da : Nat} (h : daSpace da = 0) (s : State) (a : Agent) (n : Nat) (write : Bool) :
    s.place a da n write = s.translate a.part da write := by
  simp [State.place, h]

/-- What space 0 translates lies below 2^38 and outside every tile. -/
theorem State.translate_some {s : State} {part va : Nat} {write : Bool} {p : Place} (h : s.translate part va write = some p) :
    va % 2 ^ 44 < 2 ^ 38 ∧ p.outside = true := by
  unfold State.translate at h
  split at h
  · cases h
  next hlow =>
    refine ⟨Nat.not_le.1 hlow, ?_⟩
    split at h
    · cases h
    · dsimp only at h
      split at h
      · cases h
      · split at h <;> (obtain rfl := Option.some.inj h; rfl)

/-- The 64 KiB block after one that space 0 translates is of space 0. -/
theorem daSpace_add {da k : Nat} (h : daSpace da = 0) (hlow : da % 2 ^ 44 < 2 ^ 38) (hk : k ≤ 65536) : daSpace (da + k) = 0 := by
  unfold daSpace at *
  omega

/-- The places of a range of space 0 lie outside every tile, whatever the tiles are. -/
theorem State.cut64k_places {s : State} {a : Agent} {write : Bool} (ts : SMap Tile) {fuel da n : Nat} {ps : List (Place × Nat)}
    (hspace : daSpace da = 0) (h : (cut64k fuel da n).mapM (fun p => (s.place a p.1 p.2 write).map (·, p.2)) = some ps) :
    (∀ p ∈ ps, p.1.outside = true)
      ∧ (cut64k fuel da n).mapM (fun p => (State.place { s with tiles := ts } a p.1 p.2 write).map (·, p.2)) = some ps := by
  induction fuel generalizing da n ps with
  | zero =>
    obtain rfl := Option.some.inj h
    exact ⟨by simp, rfl⟩
  | succ fuel ih =>
    by_cases hn : n = 0
    · simp only [cut64k, hn, if_true] at h ⊢
      obtain rfl := Option.some.inj h
      exact ⟨by simp, rfl⟩
    · simp only [cut64k, if_neg hn, List.mapM_cons, State.place_space0 hspace, Option.bind_eq_bind, Option.bind_eq_some_iff,
        Option.map_eq_some_iff, Option.pure_def, Option.some.injEq] at h
      obtain ⟨_, ⟨p, hp, rfl⟩, rest, hrest, rfl⟩ := h
      obtain ⟨hlow, hout⟩ := State.translate_some hp
      obtain ⟨houts, hsame⟩ := ih (daSpace_add hspace hlow ((Nat.min_le_right _ _).trans (Nat.sub_le _ _))) hrest
      refine ⟨List.forall_mem_cons.2 ⟨hout, houts⟩, ?_⟩
      have hp' : State.translate { s with tiles := ts } a.part da write = some p := hp
      simp only [cut64k, if_neg hn, List.mapM_cons, State.place_space0 hspace, hp', hsame]
      rfl

/-! ### Writes outside the tiles -/

theorem State.countHbm_tele (s : State) (event pa n : Nat) : ∃ k, s.countHbm event pa n = { s with tele := k } := by
  unfold State.countHbm
  split
  · exact ⟨s.tele, rfl⟩
  · exact State.foldl_count_eq _ (fun l => State.unitStack (State.stackOf (64 * l))) (fun _ => event) (fun _ => 1) (fun _ => 1)
      (fun _ => 0) s

/-- A write outside the tiles is the same whatever the tiles and the counters are, and leaves the tiles. -/
theorem State.put_outside {p : Place} (hp : p.outside = true) (s : State) (ts : SMap Tile) (c : Tele) (bs : List Byte) :
    ∃ k, State.put { s with tiles := ts, tele := c } p bs = { s.put p bs with tiles := ts, tele := k } := by
  cases p with
  | tile sp ph off => cases hp
  | hbm pa =>
    obtain ⟨k, hk⟩ := State.countHbm_tele { s with tiles := ts, tele := c } 2 pa bs.length
    obtain ⟨k', hk'⟩ := State.countHbm_tele s 2 pa bs.length
    refine ⟨k, ?_⟩
    simp only [State.put]
    rw [hk, hk']
  | host fn a =>
    refine ⟨c, ?_⟩
    cases hb : (s.func fn).bme
    · have hb' : (State.func { s with tiles := ts, tele := c } fn).bme = false := hb
      simp only [State.put, hb, hb', Bool.false_eq_true, if_false]
    · have hb' : (State.func { s with tiles := ts, tele := c } fn).bme = true := hb
      simp only [State.put, hb, hb', if_true]

theorem State.putAll_outside {ps : List (Place × Nat)} (hps : ∀ p ∈ ps, p.1.outside = true) (s : State) (ts : SMap Tile) (c : Tele)
    (bs : List Byte) :
    ∃ k, State.putAll { s with tiles := ts, tele := c } ps bs = { s.putAll ps bs with tiles := ts, tele := k } := by
  induction ps generalizing s c bs with
  | nil => exact ⟨c, rfl⟩
  | cons p ps ih =>
    obtain ⟨hp, hps⟩ := List.forall_mem_cons.1 hps
    obtain ⟨k, hk⟩ := State.put_outside hp s ts c (bs.take p.2)
    obtain ⟨k', hk'⟩ := ih hps (s.put p.1 (bs.take p.2)) k (bs.drop p.2)
    exact ⟨k', by rw [State.putAll, hk, hk', State.putAll]⟩

theorem State.barOf_writeBar_outside {ps : List (Place × Nat)} (hps : ∀ p ∈ ps, p.1.outside = true) (s : State) (ts : SMap Tile) :
    State.barOf (State.writeBar { s with tiles := ts }) ps = State.barOf s.writeBar ps := by
  induction ps with
  | nil => rfl
  | cons p ps ih =>
    obtain ⟨hp, hps⟩ := List.forall_mem_cons.1 hps
    have hbar : State.writeBar { s with tiles := ts } p.1 p.2 = s.writeBar p.1 p.2 := by
      cases hplace : p.1 with
      | tile sp ph off => rw [hplace] at hp; cases hp
      | hbm pa => rfl
      | host fn a => rfl
    simp only [State.barOf, hbar, ih hps]

/-- A state whose HBM and host memory are those of `s2`, while sync objects and remote requests are those of `s`. -/
structure State.LandedAs (u s2 s : State) : Prop where
  hbm : u.hbm = s2.hbm
  hostMem : u.hostMem = s2.hostMem
  sync : u.sync = s.sync
  reqs : u.reqs = s.reqs

/-- A write through an address of space 0 that nothing forbids lands, and it lands alike whatever the tiles are; they stay. -/
theorem State.store_space0 {s : State} {a : Agent} {da : Nat} {bs : List Byte} (hspace : daSpace da = 0)
    (hcan : s.canWrite a da bs.length = true) :
    ∃ s2, s.store a da bs = .ok s2
      ∧ ∀ ts, ∃ u, State.store { s with tiles := ts } a da bs = .ok u ∧ u.LandedAs s2 s ∧ u.tiles = ts := by
  unfold State.canWrite at hcan
  cases hplaces : s.places a da bs.length true with
  | none => simp [hplaces] at hcan
  | some ps =>
    have hbar : State.barOf s.writeBar ps = none := by simpa [hplaces] using hcan
    have hbeside := State.putAll_besideEvents s ps bs
    refine ⟨s.putAll ps bs, by simp only [State.store, hplaces, hbar], fun ts => ?_⟩
    obtain ⟨hout, hsame⟩ := State.cut64k_places ts hspace hplaces
    obtain ⟨k, hk⟩ := State.putAll_outside hout s ts s.tele bs
    have hplaces' : State.places { s with tiles := ts } a da bs.length true = some ps := hsame
    have hbar' := (State.barOf_writeBar_outside hout s ts).trans hbar
    exact ⟨{ s.putAll ps bs with tiles := ts, tele := k }, by simp only [State.store, hplaces', hbar', hk],
      ⟨rfl, rfl, (congrArg State.sync hbeside :), (congrArg State.reqs hbeside :)⟩, rfl⟩

end Sys2Proof.Machine
end

section
/-! The commit of the oldest step of a tile (R239, R254, R260, R271). -/

namespace Sys2Proof.Machine

/-! ### A tile that runs, after a change -/

theorem State.tile_modTile_running {s : State} {i : Nat} {f : Tile → Tile} (h : (f (s.tile i)).running = true) (j : Nat) :
    (s.modTile i f).tile j = if j = i then f (s.tile i) else s.tile j := State.tile_setTile_running s h i j

theorem State.tile_modTile_self {s : State} {i : Nat} {f : Tile → Tile} (h : (f (s.tile i)).running = true) :
    (s.modTile i f).tile i = f (s.tile i) := (State.tile_modTile_running h i).trans (if_pos rfl)

/-! ### Part 1 of a commit: records, digests, checkpoints (R260, R261) -/

/-- A folded stream changes the digests, or counts one more that is not tracked. -/
theorem Tile.foldDigest_eq (t : Tile) (f : Nat × List Byte) : ∃ d n, t.foldDigest f = { t with digests := d, untracked := n } := by
  unfold Tile.foldDigest
  split
  · exact ⟨_, _, rfl⟩
  · split <;> exact ⟨_, _, rfl⟩

theorem Tile.foldl_foldDigest_eq (l : List (Nat × List Byte)) (t : Tile) :
    ∃ d n, l.foldl Tile.foldDigest t = { t with digests := d, untracked := n } := by
  induction l generalizing t with
  | nil => exact ⟨_, _, rfl⟩
  | cons f l ih =>
    obtain ⟨d, n, h⟩ := t.foldDigest_eq f
    obtain ⟨d', n', h'⟩ := ih { t with digests := d, untracked := n }
    exact ⟨d', n', by rw [List.foldl_cons, h, h']⟩

/-- The groups with a checkpoint of a step start anew from it (R261). -/
def Tile.checkpointed (num : Nat) (t : Tile) (c : Nat × Nat × Nat) : Tile :=
  if (t.group c.1).isFree then t
  else t.setGroup c.1 { t.group c.1 with origin := num + 1, anchored := true, ckpt := some ⟨1, c.2.1, c.2.1 + c.2.2⟩ }

theorem Tile.foldl_checkpointed_eq (num : Nat) (l : List (Nat × Nat × Nat)) (t : Tile) :
    ∃ g, l.foldl (Tile.checkpointed num) t = { t with groups := g } := by
  induction l generalizing t with
  | nil => exact ⟨_, rfl⟩
  | cons c l ih =>
    obtain ⟨g, h⟩ : ∃ g, Tile.checkpointed num t c = { t with groups := g } := by
      unfold Tile.checkpointed
      split <;> exact ⟨_, rfl⟩
    obtain ⟨g', h'⟩ := ih { t with groups := g }
    exact ⟨g', by rw [List.foldl_cons, h, h']⟩

/-- A tile that has taken a step's flags and records, its streams and its checkpoints. -/
def Tile.recorded (x : StepRec) (t : Tile) : Tile :=
  x.ckpts.foldl (Tile.checkpointed x.num) (x.folds.foldl Tile.foldDigest { t with status := t.status.absorb x })

theorem State.commitFirst_eq (s : State) (ph : Nat) (x : StepRec) : s.commitFirst ph x = s.modTile ph (Tile.recorded x) := rfl

/-- What a commit records changes the status record, the digests and the groups alone. -/
theorem Tile.recorded_eq (x : StepRec) (t : Tile) :
    ∃ d n g, t.recorded x = { t with status := t.status.absorb x, digests := d, untracked := n, groups := g } := by
  obtain ⟨d, n, hd⟩ := Tile.foldl_foldDigest_eq x.folds { t with status := t.status.absorb x }
  obtain ⟨g, hg⟩ := Tile.foldl_checkpointed_eq x.num x.ckpts { t with status := t.status.absorb x, digests := d, untracked := n }
  exact ⟨d, n, g, by rw [Tile.recorded, hd, hg]⟩

/-- What `recorded` leaves of a tile, field by field. -/
@[simp] theorem Tile.recorded_fields (x : StepRec) (t : Tile) :
    (t.recorded x).status = t.status.absorb x ∧ (t.recorded x).running = t.running ∧ (t.recorded x).part = t.part
      ∧ (t.recorded x).basin = t.basin ∧ (t.recorded x).badBasin = t.badBasin ∧ (t.recorded x).badAux = t.badAux
      ∧ (t.recorded x).steps = t.steps := by
  obtain ⟨d, n, g, h⟩ := t.recorded_eq x
  rw [h]
  and_intros <;> rfl

/-- The oldest uncommitted step of a tile changed. -/
def Tile.mapOldest (f : StepRec → StepRec) (t : Tile) : Tile :=
  { t with steps := match t.steps with | [] => [] | x :: xs => f x :: xs }

theorem State.modOldest_eq (s : State) (ph : Nat) (f : StepRec → StepRec) : s.modOldest ph f = s.modTile ph (Tile.mapOldest f) := rfl

@[simp] theorem Tile.mapOldest_fields (f : StepRec → StepRec) (t : Tile) :
    (t.mapOldest f).status = t.status ∧ (t.mapOldest f).running = t.running ∧ (t.mapOldest f).part = t.part
      ∧ (t.mapOldest f).basin = t.basin ∧ (t.mapOldest f).badBasin = t.badBasin ∧ (t.mapOldest f).badAux = t.badAux := by
  and_intros <;> rfl

theorem Tile.steps_mapOldest {t : Tile} {x : StepRec} {rest : List StepRec} (h : t.steps = x :: rest) (f : StepRec → StepRec) :
    (t.mapOldest f).steps = f x :: rest := by
  rw [Tile.mapOldest, h]

/-- The state in which a commit has done its first part, and which keeps the step from being discarded (R271). -/
def State.commitBegun (s : State) (ph : Nat) (x : StepRec) : State :=
  (s.commitFirst ph x).modOldest ph (fun y => { y with sent := true })

theorem State.commitBegun_sync (s : State) (ph : Nat) (x : StepRec) : (s.commitBegun ph x).sync = s.sync := rfl

/-- A step whose commit has begun. -/
def StepRec.begun (x : StepRec) : StepRec := { x with sent := true }

/-- The tile of a commit that has begun: what it has recorded, and the mark on its step. -/
theorem State.tile_commitBegun {s : State} {ph : Nat} (hrun : (s.tile ph).running = true) (x : StepRec) :
    (s.commitBegun ph x).tile ph = Tile.mapOldest StepRec.begun ((s.tile ph).recorded x) := by
  have hfirst : (s.commitFirst ph x).tile ph = (s.tile ph).recorded x := by
    rw [State.commitFirst_eq, State.tile_modTile_self (by simp [hrun])]
  rw [← hfirst]
  exact State.tile_modTile_self (f := Tile.mapOldest StepRec.begun) (by rw [hfirst]; simp [hrun])

theorem State.steps_commitBegun {s : State} {ph : Nat} {x : StepRec} {rest : List StepRec} (hrun : (s.tile ph).running = true)
    (hsteps : (s.tile ph).steps = x :: rest) : ((s.commitBegun ph x).tile ph).steps = x.begun :: rest := by
  rw [State.tile_commitBegun hrun, Tile.steps_mapOldest (by simpa using hsteps)]

theorem State.running_commitBegun {s : State} {ph : Nat} (hrun : (s.tile ph).running = true) (x : StepRec) :
    ((s.commitBegun ph x).tile ph).running = true := by
  simp [State.tile_commitBegun hrun, hrun]

/-! ### Part 2: deferred writes (R239) -/

theorem le_foldl {α : Type} {f : Nat → α → Nat} (h : ∀ n a, n ≤ f n a) (l : List α) (k : Nat) : k ≤ l.foldl f k := by
  induction l generalizing k with
  | nil => exact Nat.le_refl k
  | cons a l ih => exact Nat.le_trans (h k a) (ih _)

/-- A commit may always try one write. -/
theorem State.owed_succ (x : StepRec) : ∃ n, State.owed x = n + 1 := by
  have h : 1 ≤ State.owed x := le_foldl (fun n _ => Nat.le_trans (Nat.le_add_right n _) (Nat.le_add_right _ 2)) x.deferred 1
  exact ⟨State.owed x - 1, by omega⟩

theorem State.landDeferred_none {s : State} {ph : Nat} {y : StepRec} {ys : List StepRec} (hsteps : (s.tile ph).steps = y :: ys)
    (hnone : y.deferred = []) (n : Nat) : s.landDeferred ph n = s := by
  cases n with
  | zero => rfl
  | succ n => simp only [State.landDeferred, hsteps, hnone]

theorem State.landDeferred_landed {s s' : State} {ph : Nat} {y : StepRec} {ys : List StepRec} {d : Deferred} {ds : List Deferred}
    {r : Option Deferred} (hsteps : (s.tile ph).steps = y :: ys) (hdef : y.deferred = d :: ds)
    (hland : s.landOne ph y.num d = .landed s' r) (n : Nat) :
    s.landDeferred ph (n + 1) = (s'.modOldest ph (fun x => { x with deferred := r.toList ++ ds })).landDeferred ph n := by
  simp only [State.landDeferred, hsteps, hdef, hland]

theorem State.landDeferred_fails {s : State} {ph : Nat} {y : StepRec} {ys : List StepRec} {d : Deferred} {ds : List Deferred}
    {st : Word16} (hsteps : (s.tile ph).steps = y :: ys) (hdef : y.deferred = d :: ds) (hland : s.landOne ph y.num d = .fails st)
    (n : Nat) :
    s.landDeferred ph (n + 1) = (s.modTile ph (fun t => { t with steps := t.steps.drop 1 })).failTile ph st 0 d.idx := by
  simp only [State.landDeferred, hsteps, hdef, hland]

/-- A tile without damaged lines reads its own memory. -/
theorem Tile.damage_none {t : Tile} (hbasin : t.badBasin = []) (haux : t.badAux = []) (rd : List Range) : t.damage rd = none := by
  simp [Tile.damage, hbasin, haux]

/-- A tile whose footprint takes one more range. -/
def Tile.reads (f : Foot) (t : Tile) : Tile := { t with foot := t.foot ++ [f] }

theorem Tile.reads_eq (f : Foot) : Tile.reads f = fun t => { t with foot := t.foot ++ [f] } := rfl

/-- The footprint of a deferred write's source in the Basin. -/
def Deferred.basinFoot (d : Deferred) (num : Nat) : Foot := ⟨⟨1, daOff d.src.toNat, daOff d.src.toNat + d.len⟩, false, num⟩

theorem State.landOne_of_store {s s' : State} {ph num : Nat} {d : Deferred} (hsrc : daSpace d.src.toNat = 1)
    (hdst : daSpace d.dst.toNat = 0) (hbasin : (s.tile ph).badBasin = []) (haux : (s.tile ph).badAux = [])
    (hstore : (s.modTile ph (Tile.reads (d.basinFoot num))).store ((s.modTile ph (Tile.reads (d.basinFoot num))).kernelAgent ph)
      d.dst.toNat ((s.tile ph).basin.bytes (daOff d.src.toNat) d.len) = .ok s') :
    s.landOne ph num d = .landed s' none := by
  have hne : ¬ daSpace d.dst.toNat = 5 := by omega
  simp only [Deferred.basinFoot, Tile.reads_eq] at hstore
  simp [State.landOne, hsrc, hne, Tile.damage_none hbasin haux, Tile.ownBytes, hstore]

/-- A deferred write from the Basin to HBM or host memory that nothing forbids lands whole, as it would before the tiles `ts` came: the
source joins the footprint. -/
theorem State.landOne_space0 {s : State} {ts : SMap Tile} {t : Tile} {ph num : Nat} {d : Deferred} {part : Nat}
    (ht : State.tile { s with tiles := ts } ph = t) (hrun : t.running = true) (hpart : t.part = part) (hsrc : daSpace d.src.toNat = 1)
    (hdst : daSpace d.dst.toNat = 0) (hbasin : t.badBasin = []) (haux : t.badAux = [])
    (hcan : s.canWrite { part := part, fn := 0 } d.dst.toNat d.len = true) :
    ∃ u s2 : State, State.landOne { s with tiles := ts } ph num d = .landed u none
      ∧ s.store { part := part, fn := 0 } d.dst.toNat (t.basin.bytes (daOff d.src.toNat) d.len) = .ok s2
      ∧ u.LandedAs s2 s ∧ u.tile ph = t.reads (d.basinFoot num) := by
  have hlen : (t.basin.bytes (daOff d.src.toNat) d.len).length = d.len := by simp [Mem.bytes]
  obtain ⟨s2, hstore, hany⟩ := State.store_space0 (bs := t.basin.bytes (daOff d.src.toNat) d.len) hdst (hlen.symm ▸ hcan)
  have hread : (State.modTile { s with tiles := ts } ph (Tile.reads (d.basinFoot num))).tile ph = t.reads (d.basinFoot num) := by
    rw [State.tile_modTile_self (by rw [ht]; exact hrun), ht]
  have hagent : (State.modTile { s with tiles := ts } ph (Tile.reads (d.basinFoot num))).kernelAgent ph = { part := part, fn := 0 } := by
    rw [State.kernelAgent, hread, ← hpart]
    rfl
  obtain ⟨u, hout, hmem, htiles⟩ := hany (State.modTile { s with tiles := ts } ph (Tile.reads (d.basinFoot num))).tiles
  refine ⟨u, s2, State.landOne_of_store hsrc hdst (by rw [ht, hbasin]) (by rw [ht, haux]) ?_, hstore, hmem, ?_⟩
  · rw [hagent, ht]
    exact hout
  · rw [State.tile, htiles]
    exact hread

/-- A step whose deferred writes have all landed. -/
def StepRec.paid (y : StepRec) : StepRec := { y with deferred := [] }

/-- A step that owes one such write has none left once it has landed. -/
theorem State.landDeferred_space0 {s : State} {ts : SMap Tile} {t : Tile} {ph : Nat} {d : Deferred} {part : Nat} {y : StepRec}
    {rest : List StepRec} (ht : State.tile { s with tiles := ts } ph = t) (hrun : t.running = true) (hsteps : t.steps = y :: rest)
    (hone : y.deferred = [d]) (hpart : t.part = part) (hsrc : daSpace d.src.toNat = 1) (hdst : daSpace d.dst.toNat = 0)
    (hbasin : t.badBasin = []) (haux : t.badAux = []) (hcan : s.canWrite { part := part, fn := 0 } d.dst.toNat d.len = true) (n : Nat) :
    ∃ u s2 : State, State.landDeferred { s with tiles := ts } ph (n + 1) = u
      ∧ s.store { part := part, fn := 0 } d.dst.toNat (t.basin.bytes (daOff d.src.toNat) d.len) = .ok s2
      ∧ u.LandedAs s2 s ∧ (u.tile ph).running = true ∧ (u.tile ph).basin = t.basin ∧ (u.tile ph).steps = y.paid :: rest := by
  obtain ⟨u, s2, hland, hstore, hmem, hu⟩ := State.landOne_space0 (num := y.num) ht hrun hpart hsrc hdst hbasin haux hcan
  have hdone : (u.modOldest ph StepRec.paid).tile ph = Tile.mapOldest StepRec.paid (t.reads (d.basinFoot y.num)) := by
    rw [State.modOldest_eq, State.tile_modTile_self (by rw [hu]; exact hrun), hu]
  have hsteps' : ((u.modOldest ph StepRec.paid).tile ph).steps = y.paid :: rest := by
    rw [hdone]
    exact Tile.steps_mapOldest (t := t.reads _) hsteps _
  refine ⟨u.modOldest ph StepRec.paid, s2, ?_, hstore, ⟨hmem.hbm, hmem.hostMem, hmem.sync, hmem.reqs⟩, ?_, ?_, hsteps'⟩
  · rw [State.landDeferred_landed (by rw [ht]; exact hsteps) hone hland]
    exact State.landDeferred_none hsteps' rfl n
  · rw [hdone]; exact hrun
  · rw [hdone]; rfl

/-! ### Part 3: the step is gone (R84, R260) -/

/-- A tile whose oldest step has been committed. -/
def Tile.committed (y : StepRec) (t : Tile) : Tile :=
  Tile.journalDrop { t with steps := t.steps.drop 1, replays := 0, groups := if y.final then [] else t.groups }

/-- A commit that makes no signal changes its tile, and beside it counters alone. -/
theorem State.commitLast_eq {y : StepRec} (hsig : y.signals = []) (s : State) (ph : Nat) :
    ∃ k, s.commitLast ph y = { s.modTile ph (Tile.committed y) with tele := k } := by
  have hnone : y.signals.foldl (fun s g => s.syncAdd g.1 g.2.toNat) s = s := by rw [hsig]; rfl
  rw [State.commitLast, hnone]
  exact ⟨_, rfl⟩

theorem State.commitLast_kept {y : StepRec} (hsig : y.signals = []) (s : State) (ph : Nat) :
    (s.commitLast ph y).hbm = s.hbm ∧ (s.commitLast ph y).hostMem = s.hostMem ∧ (s.commitLast ph y).sync = s.sync := by
  obtain ⟨k, hk⟩ := State.commitLast_eq hsig s ph
  rw [hk]
  exact ⟨rfl, rfl, rfl⟩

theorem State.tile_commitLast {s : State} {ph : Nat} {y : StepRec} (hsig : y.signals = []) (hrun : (s.tile ph).running = true) :
    (s.commitLast ph y).tile ph = (s.tile ph).committed y := by
  obtain ⟨k, hk⟩ := State.commitLast_eq hsig s ph
  rw [hk]
  exact State.tile_modTile_self (f := Tile.committed y) hrun

/-! ### A failure leaves no step where there was none (R259) -/

theorem State.steps_stopTiles_nil {s : State} {ph : Nat} (h : (s.tile ph).steps = []) (part : Nat) :
    ((s.stopTiles part).tile ph).steps = [] := by
  unfold State.stopTiles
  generalize s.runTiles part = l
  induction l generalizing s with
  | nil => exact h
  | cons o l ih =>
    rw [List.foldl_cons]
    refine ih ?_
    have hended : (s.draw.2.tile o).discard s.draw.1 ≠ {} := fun he => Bool.noConfusion (congrArg Tile.ended he : true = false)
    dsimp only
    rw [State.modTile, State.tile_setTile_ne _ hended]
    split
    next hph =>
      subst hph
      exact (congrArg (List.filter StepRec.sent) h :)
    · exact h

theorem State.steps_failTile_nil {s : State} {ph : Nat} (h : (s.tile ph).steps = []) (o : Nat) (status : Word16) (reason instr : Nat) :
    ((s.failTile o status reason instr).tile ph).steps = [] := by
  unfold State.failTile
  split
  · exact h
  · exact State.steps_stopTiles_nil (s := s.modLaunch _ _ _) h _

/-! ### The row STEP_COMMIT -/

section Commit
variable {s : State} {ph : Nat} {x : StepRec} {rest : List StepRec} (hlive : s.live = true) (hrun : (s.tile ph).running = true)
  (hstopped : (s.tile ph).stopped = false) (hparked : (s.tile ph).parked = false) (hsteps : (s.tile ph).steps = x :: rest)
include hlive hsteps

theorem exec_stepCommit_open (hopen : x.closed = false) : exec (.stepCommit ph) s = .next s := by
  change execStepCommit ph s = _
  rw [execStepCommit, State.run_live hlive]
  simp [hsteps, hopen]

include hrun hstopped hparked

/-- A commit that begins lands what it can; what is left of the step decides whether it ends. -/
theorem exec_stepCommit_begun (hclosed : x.closed = true) (hsent : x.sent = false) {s2 : State}
    (hland : (s.commitBegun ph x).landDeferred ph (State.owed x) = s2) :
    ((s2.tile ph).steps = [] → exec (.stepCommit ph) s = .next s2)
    ∧ (∀ y ys, (s2.tile ph).steps = y :: ys → y.num = x.num → y.deferred = [] → s2.reqs = [] →
        exec (.stepCommit ph) s = .next (s2.commitLast ph y)) := by
  unfold State.commitBegun at hland
  refine ⟨fun hgone => ?_, fun y ys hleft hnum hdone hreqs => ?_⟩
  all_goals
    change execStepCommit ph s = _
    rw [execStepCommit, State.run_live hlive]
    simp only [hsteps, hrun, hstopped, hparked, hclosed, hsent, Bool.not_true, Bool.or_self, Bool.false_eq_true, if_false, hland]
  · simp only [hgone]
  · simp [hleft, hnum, hdone, hreqs]

/-- A step that owes no write ends at once. -/
theorem exec_stepCommit_nothing (hclosed : x.closed = true) (hsent : x.sent = false) (hnone : x.deferred = []) (hreqs : s.reqs = []) :
    exec (.stepCommit ph) s = .next ((s.commitBegun ph x).commitLast ph x.begun) := by
  have hleft := State.steps_commitBegun hrun hsteps
  exact (exec_stepCommit_begun hlive hrun hstopped hparked hsteps hclosed hsent (State.landDeferred_none hleft hnone _)).2 _ _
    hleft rfl hnone hreqs

/-- A deferred write that is all a step without signals owes lands, and the step is gone: HBM and host memory hold what the write leaves. -/
theorem exec_stepCommit_lands (hclosed : x.closed = true) (hsent : x.sent = false) (hreqs : s.reqs = []) {d : Deferred}
    (hone : x.deferred = [d]) (hsig : x.signals = []) (hsrc : daSpace d.src.toNat = 1) (hdst : daSpace d.dst.toNat = 0)
    (hbasin : (s.tile ph).badBasin = []) (haux : (s.tile ph).badAux = [])
    (hcan : s.canWrite (s.kernelAgent ph) d.dst.toNat d.len = true) :
    ∃ u s2 : State, exec (.stepCommit ph) s = .next u
      ∧ s.store (s.kernelAgent ph) d.dst.toNat ((s.tile ph).basin.bytes (daOff d.src.toNat) d.len) = .ok s2
      ∧ u.hbm = s2.hbm ∧ u.hostMem = s2.hostMem ∧ (u.tile ph).steps = rest ∧ (u.tile ph).basin = (s.tile ph).basin ∧ u.sync = s.sync := by
  have htile := State.tile_commitBegun hrun x
  have hleft := State.steps_commitBegun hrun hsteps
  rw [htile] at hleft
  obtain ⟨n, hn⟩ := State.owed_succ x
  obtain ⟨u, s2, hland, hstore, hmem, hrunu, hbasinu, hstepsu⟩ := State.landDeferred_space0 (s := s) (ts := (s.commitBegun ph x).tiles)
    (part := (s.tile ph).part) htile (by simp [hrun]) hleft hone (by simp) hsrc hdst (by simp [hbasin]) (by simp [haux]) hcan n
  simp only [Tile.mapOldest_fields, Tile.recorded_fields] at hstore hbasinu
  have hland' : (s.commitBegun ph x).landDeferred ph (State.owed x) = u := by rw [hn]; exact hland
  obtain ⟨hhbm, hhost, hsync⟩ := State.commitLast_kept (y := x.begun.paid) hsig u ph
  have hlast := State.tile_commitLast (y := x.begun.paid) hsig hrunu
  refine ⟨u.commitLast ph x.begun.paid, s2, (exec_stepCommit_begun hlive hrun hstopped hparked hsteps hclosed hsent hland').2 _ _ hstepsu
    rfl rfl (hmem.reqs.trans hreqs), hstore, hhbm.trans hmem.hbm, hhost.trans hmem.hostMem, ?_, ?_, hsync.trans hmem.sync⟩
  · rw [hlast]; exact congrArg (List.drop 1) hstepsu
  · rw [hlast]; exact hbasinu

/-- A step without writes and signals is gone at once, and with the step of END every group (R84). -/
theorem exec_stepCommit_silent (hclosed : x.closed = true) (hsent : x.sent = false) (hnone : x.deferred = []) (hsig : x.signals = [])
    (hreqs : s.reqs = []) :
    ∃ u : State, exec (.stepCommit ph) s = .next u ∧ (u.tile ph).steps = rest ∧ (u.tile ph).replays = 0 ∧ u.sync = s.sync
      ∧ (x.final = true → (u.tile ph).groups = []) ∧ (u.tile ph).basin = (s.tile ph).basin := by
  have htile := State.tile_commitBegun hrun x
  have hleft := State.steps_commitBegun hrun hsteps
  obtain ⟨-, -, hsync⟩ := State.commitLast_kept (y := x.begun) hsig (s.commitBegun ph x) ph
  have hlast := State.tile_commitLast (y := x.begun) hsig (State.running_commitBegun hrun x)
  refine ⟨_, exec_stepCommit_nothing hlive hrun hstopped hparked hsteps hclosed hsent hnone hreqs, ?_, ?_, hsync.trans (s.commitBegun_sync ph x), fun hfinal => ?_, ?_⟩
  · rw [hlast]; exact congrArg (List.drop 1) hleft
  · rw [hlast]; rfl
  · rw [hlast]; exact if_pos hfinal
  · rw [hlast, htile]
    change ((s.tile ph).recorded x).basin = _
    simp

/-- A write that may not land ends the launch with its status, where no step is left behind it (R239, R259). -/
theorem exec_stepCommit_fails (hclosed : x.closed = true) (hsent : x.sent = false) (hlast : rest = []) {d : Deferred}
    {more : List Deferred} {st : Word16} (hdef : x.deferred = d :: more) (hfails : (s.commitBegun ph x).landOne ph x.num d = .fails st) :
    exec (.stepCommit ph) s =
      .next (((s.commitBegun ph x).modTile ph (fun t => { t with steps := t.steps.drop 1 })).failTile ph st 0 d.idx) := by
  have hleft := State.steps_commitBegun hrun hsteps
  obtain ⟨n, hn⟩ := State.owed_succ x
  have hland : (s.commitBegun ph x).landDeferred ph (State.owed x) =
      ((s.commitBegun ph x).modTile ph (fun t => { t with steps := t.steps.drop 1 })).failTile ph st 0 d.idx := by
    rw [hn, State.landDeferred_fails hleft hdef hfails]
  refine (exec_stepCommit_begun hlive hrun hstopped hparked hsteps hclosed hsent hland).1 (State.steps_failTile_nil ?_ _ _ _ _)
  have htile := State.tile_modTile_self (f := fun t : Tile => { t with steps := t.steps.drop 1 }) (State.running_commitBegun hrun x)
  rw [htile, hlast.symm]
  exact congrArg (List.drop 1) hleft

end Commit

/-- Settles O28: an open step stays; a closed one runs the parts of R260 in turn, of which the second decides: it owes nothing, it lands
(`exec_stepCommit_lands`), or it fails (`exec_stepCommit_fails`). -/
theorem stepCommits : Obligations.StepCommits := by
  unfold Obligations.StepCommits
  intro s ph x rest hlive hrun hstopped hparked hsteps
  refine ⟨exec_stepCommit_open hlive hsteps, fun hclosed hsent => ⟨?status,
    exec_stepCommit_nothing hlive hrun hstopped hparked hsteps hclosed hsent,
    exec_stepCommit_silent hlive hrun hstopped hparked hsteps hclosed hsent, ?lands, ?fails⟩⟩
  case status =>
    change ((s.commitBegun ph x).tile ph).status = _
    simp [State.tile_commitBegun hrun]
  case lands =>
    intro d hone hsig hreqs src dst hsrc hdst hbasin haux hcan
    exact exec_stepCommit_lands hlive hrun hstopped hparked hsteps hclosed hsent hreqs hone hsig hsrc hdst hbasin haux hcan
  case fails =>
    intro d more st hdef hlast hfails
    exact exec_stepCommit_fails hlive hrun hstopped hparked hsteps hclosed hsent hlast hdef hfails

end Sys2Proof.Machine
end

section
/-! Kernel launches: validation, start, completion and the launch limit (R267 to R270, R311, R315, R332, R475). -/

namespace Sys2Proof.Machine

/-! ### Validation (R267, R268, R315, R332) -/

/-- The fields without which the header cannot be read stand. -/
theorem State.launchFields_ok {s : State} {a : Agent} {p : Packet} (hhead : ∀ k ∈ s.headerChecks p, k.1 = false)
    (hmask : withinMasks p.words State.launchMasks = true) (hslots : word p.words 11 % 512 ≤ 256)
    (hread : s.readable a (addr48 p.words 4) 64 false = true) : s.launchFields a p = stOk := by
  have hok : headerOk p.words = true := by simpa [State.headerChecks] using hhead (!headerOk p.words, stBadOpcode) (by simp [State.headerChecks])
  exact firstFail_none (by simp [hok, hmask, hslots, hread])

/-- A KERNEL_LAUNCH whose header, slots and addresses stand becomes a launch that waits. -/
theorem exec_kernelLaunch {s s1 s2 : State} {p : Packet} {hb lb : List Byte} (hpres : s.presents p 1 = true) {a : Agent}
    (ha : a = { part := s.queuePart p.queue, fn := (s.queue p.queue).owner })
    (hmask : withinMasks p.words State.launchMasks = true) (hslots : word p.words 11 % 512 ≤ 256)
    (hread : s.readable a (addr48 p.words 4) 64 false = true) (hload : s.load a (addr48 p.words 4) 64 = .ok (s1, hb))
    (hheader : s1.headerStatus a.part (bytesWords 16 hb) = stOk)
    (hlist : if word p.words 11 % 512 = 0 then s2 = s1 ∧ lb = [] else
      s1.readable a (addr48 p.words 12) (word p.words 11 % 512) false = true
        ∧ s1.load a (addr48 p.words 12) (word p.words 11 % 512) = .ok (s2, lb))
    (hslot : s2.slotStatus a.part (bytesWords 16 hb) (word p.words 11 / 65536) (lb.map (·.toNat)) = stOk)
    (haddr : s2.addressStatus a p.words (bytesWords 16 hb) = stOk) :
    exec (.kernelLaunch p.queue p.seq) s = .next (s2.addLaunch p a.part a.fn (bytesWords 16 hb) (lb.map (·.toNat))) := by
  obtain ⟨hlive, hfront, hhead⟩ := presents_cases hpres
  have hfields := State.launchFields_ok hhead hmask hslots hread
  have hsig := firstFail_none hhead
  change execKernelLaunch p.queue p.seq s = _
  rw [execKernelLaunch, State.run_live hlive]
  simp only [hfront]
  subst ha
  unfold State.validateLaunch
  simp only [hfields, hload, hheader, hsig]
  by_cases hn : word p.words 11 % 512 = 0
  · rw [if_pos hn] at hlist
    obtain ⟨rfl, rfl⟩ := hlist
    simp only [List.map_nil] at hslot
    simp [stOk, hn, hslot, haddr]
  · rw [if_neg hn] at hlist
    obtain ⟨hreadable, hlist⟩ := hlist
    simp [stOk, hn, hreadable, hlist, hslot, haddr]

/-! ### Start (R269, R311) -/

/-- A read through a device address changes counters and the model's own counter alone. -/
theorem State.fetch_eq (s : State) (p : Place) (n : Nat) : ∃ k d, (s.fetch p n).1 = { s with tele := k, draws := d } := by
  cases p with
  | hbm pa =>
    obtain ⟨k, hk⟩ := s.countHbm_tele 1 pa n
    exact ⟨k, s.draws, hk⟩
  | host fn a => exact ⟨s.tele, s.draws, rfl⟩
  | tile sp ph off =>
    simp only [State.fetch]
    split
    · exact ⟨s.tele, s.draws, rfl⟩
    · split
      · exact ⟨s.tele, s.draws, rfl⟩
      · exact ⟨s.tele, s.draws + 1, rfl⟩

theorem State.fetchAll_eq (s : State) (ps : List (Place × Nat)) : ∃ k d, (s.fetchAll ps).1 = { s with tele := k, draws := d } := by
  induction ps generalizing s with
  | nil => exact ⟨s.tele, s.draws, rfl⟩
  | cons p ps ih =>
    obtain ⟨k, d, h⟩ := s.fetch_eq p.1 p.2
    obtain ⟨k', d', h'⟩ := ih (s.fetch p.1 p.2).1
    exact ⟨k', d', by rw [State.fetchAll, h', h]⟩

theorem State.load_eq {s s1 : State} {a : Agent} {da n : Nat} {bs : List Byte} (h : s.load a da n = .ok (s1, bs)) :
    ∃ k d, s1 = { s with tele := k, draws := d } := by
  unfold State.load at h
  split at h
  · cases h
  · split at h
    · cases h
    · obtain ⟨k, d, hk⟩ := s.fetchAll_eq ‹_›
      exact ⟨k, d, (congrArg Prod.fst (Except.ok.inj h)).symm.trans hk⟩

/-- What waits for a partition's launch to end, where nothing does. -/
theorem State.dropDue_none {s : State} (h : s.rel.dueTiles = []) (part : Nat) : s.dropDue part = s := by
  have hrel : ({ s.rel with dueTiles := [] } : Rel) = s.rel := by rw [← h]
  simp only [State.dropDue, h, List.filter_nil, List.foldl_nil, hrel]

theorem launch?_some {s : State} {q : Nat} {seq : BitVec 32} {l : Launch} (h : s.launch? q seq = some l) :
    l ∈ s.launches ∧ l.queue = q ∧ l.seq = seq := by
  have hid := List.find?_some h
  simp only [Bool.and_eq_true, beq_iff_eq] at hid
  exact ⟨List.mem_of_find?_eq_some h, hid⟩

/-- LAUNCH_START of a launch that may start, and that no packet restores. -/
theorem exec_launchStart {s s0 : State} {q : Nat} {seq : BitVec 32} {l : Launch} (hlive : s.live = true)
    (hl : s.launch? q seq = some l) (hs0 : (if s.tilesFree l.part then s.dropDue l.part else s) = s0) (hstart : s0.startable l = true)
    (hrestore : l.restore = none) : exec (.launchStart q seq) s = .next (s0.startLaunch l) := by
  change execLaunchStart q seq s = _
  rw [execLaunchStart, State.run_live hlive]
  simp only [hl, hs0, hstart, State.when_true, hrestore]

/-- A state whose launch of an identity runs, put on its tiles: each starts, and then each looks at its first instruction. -/
def State.startOn (s : State) (l : Launch) (tiles : List Nat) (a7 : Nat) (code : SMap Word128) (images : List (Nat × List Byte)) : State :=
  tiles.foldl State.settle (tiles.zipIdx.foldl (fun s e => s.startTile l a7 code images e)
    ((s.firstInputs l.part).modLaunch l.queue l.seq (fun x => { x with ph := .running, started := true, readErr := false })))

/-- A start whose reads succeed puts the launch on its tiles. -/
theorem State.startLaunch_reads {s s1 s2 s3 : State} {l : Launch} {code data args : List Byte}
    (hcst : (s.tilesOf l.part l.nltile).any (fun t => s.rel.cstOut.contains (dieOf t)) = false)
    (hcode : s.load { part := l.part, fn := l.fn } (l.binaddr + l.codeoff) (16 * l.ninstr) = .ok (s1, code))
    (hdata : s1.load { part := l.part, fn := l.fn } (l.binaddr + l.dataoff) l.datalen = .ok (s2, data))
    (hargs : s2.load { part := l.part, fn := l.fn } l.argaddr l.arglen = .ok (s3, args)) :
    ∃ a7 images, s.startLaunch l = s3.startOn l (s.tilesOf l.part l.nltile) a7 (codeOf code) images := by
  unfold State.startLaunch
  simp only [hcst, Bool.false_eq_true, if_false, hcode, hdata, hargs]
  exact ⟨_, _, rfl⟩

/-- The state holds a launch of an identity that has started. -/
def State.HasStarted (q : Nat) (seq : BitVec 32) (s : State) : Prop := ∃ m ∈ s.launches, m.queue = q ∧ m.seq = seq ∧ m.started = true

/-- A change of launches that keeps identities and what has started. -/
theorem State.HasStarted.modLaunch {q : Nat} {seq : BitVec 32} {s : State} (h : s.HasStarted q seq) (n : Nat) (k : BitVec 32)
    {f : Launch → Launch} (hf : ∀ m, (f m).queue = m.queue ∧ (f m).seq = m.seq ∧ (f m).started = m.started) :
    (s.modLaunch n k f).HasStarted q seq := by
  obtain ⟨m, hm, hq, hseq, hstarted⟩ := h
  refine ⟨_, List.mem_map.2 ⟨m, hm, rfl⟩, ?_⟩
  obtain ⟨hfq, hfs, hfst⟩ := hf m
  split
  · exact ⟨hfq.trans hq, hfs.trans hseq, hfst.trans hstarted⟩
  · exact ⟨hq, hseq, hstarted⟩

theorem State.HasStarted.settle {q : Nat} {seq : BitVec 32} {s : State} (h : s.HasStarted q seq) (ph : Nat) :
    (s.settle ph).HasStarted q seq := by
  have fails (status : Word16) (reason instr : Nat) : (s.failTile ph status reason instr).HasStarted q seq := by
    cases hl : s.runningOf (s.tile ph).part with
    | none => simpa only [State.failTile, hl] using h
    | some l =>
      rw [State.failTile_running hl, State.HasStarted, (State.endLaunch_fields ..).1]
      exact h.modLaunch _ _ (fun m => ⟨rfl, rfl, rfl⟩)
  unfold State.settle
  dsimp only
  split
  · exact h
  · split
    · exact fails _ _ _
    · split
      · exact fails _ _ _
      · exact h

theorem State.HasStarted.startTile {q : Nat} {seq : BitVec 32} {s : State} (h : s.HasStarted q seq) (l : Launch) (a7 : Nat)
    (code : SMap Word128) (images : List (Nat × List Byte)) (e : Nat × Nat) : (s.startTile l a7 code images e).HasStarted q seq := h

theorem State.HasStarted.foldl {α : Type} {q : Nat} {seq : BitVec 32} {f : State → α → State}
    (hf : ∀ s a, s.HasStarted q seq → (f s a).HasStarted q seq) (l : List α) {s : State} (h : s.HasStarted q seq) :
    (l.foldl f s).HasStarted q seq := by
  induction l generalizing s with
  | nil => exact h
  | cons a l ih => exact ih (hf s a h)

theorem State.firstInputs_fields (s : State) (part : Nat) :
    (s.firstInputs part).launches = s.launches ∧ (s.firstInputs part).tiles = s.tiles := by
  unfold State.firstInputs
  split <;> exact ⟨rfl, rfl⟩

/-- A launch that is put on tiles has started, whatever its first instructions are. -/
theorem State.startOn_hasStarted {s : State} {l : Launch} (hl : l ∈ s.launches) (tiles : List Nat) (a7 : Nat) (code : SMap Word128)
    (images : List (Nat × List Byte)) : (s.startOn l tiles a7 code images).HasStarted l.queue l.seq := by
  have hmem : l ∈ (s.firstInputs l.part).launches := (s.firstInputs_fields l.part).1.symm ▸ hl
  refine State.HasStarted.foldl (fun _ ph h => h.settle ph) _ (State.HasStarted.foldl (fun _ e h => h.startTile l a7 code images e) _ ?_)
  exact ⟨_, State.mem_modLaunch hmem _, rfl, rfl, rfl⟩

/-- The sequencer of a tile at launch start (R269). -/
theorem Tile.started_fields (t : Tile) (part ltile nltile a3 a7 : Nat) (mode : BitVec 32) (aux : Nat) (code : SMap Word128) (ninstr : Nat) :
    let u := t.started part ltile nltile a3 a7 mode aux code ninstr
    u.running = true ∧ u.pc = 0 ∧ u.ninstr = ninstr ∧ u.part = part ∧ u.ltile = ltile ∧ u.code = code ∧ u.mode = mode := by
  and_intros <;> rfl

/-- The one tile of a launch whose first instruction the table names runs it from the start. -/
theorem State.tile_startOn_single {l : Launch} {code : SMap Word128} (hn : 0 < l.ninstr) (hfirst : definedInstr (SMap.get 0 code 0) = true)
    (s : State) (ph a7 : Nat) (images : List (Nat × List Byte)) :
    let u := (s.startOn l [ph] a7 code images).tile ph
    u.running = true ∧ u.pc = 0 ∧ u.ninstr = l.ninstr ∧ u.part = l.part ∧ u.ltile = 0 ∧ u.code = code ∧ u.mode = l.mode := by
  let b := (s.firstInputs l.part).modLaunch l.queue l.seq (fun x => { x with ph := .running, started := true, readErr := false })
  let t := images.foldl (fun t i => if i.2.isEmpty then t else t.foreignWrite 1 i.1 i.2) (b.tile ph)
  have hfields := t.started_fields l.part 0 l.nltile b.a3 a7 l.mode l.auxdem code l.ninstr
  have htile : (b.startTile l a7 code images (ph, 0)).tile ph = t.started l.part 0 l.nltile b.a3 a7 l.mode l.auxdem code l.ninstr :=
    State.tile_modTile_self hfields.1
  have hsettled : ((b.startTile l a7 code images (ph, 0)).tile ph).settled = true := by
    obtain ⟨-, hpc, hninstr, -, -, hcode, -⟩ := hfields
    rw [htile]
    simp only [Tile.settled, Tile.instrAt, hpc, hninstr, hcode, hfirst, decide_eq_true hn, Bool.and_self, Bool.or_true]
  have hall : s.startOn l [ph] a7 code images = b.startTile l a7 code images (ph, 0) := State.settle_settled hsettled
  rw [hall, htile]
  exact hfields

/-- LAUNCH_START of a launch whose reads succeed: it has started, and a single tile whose first instruction the table names runs it. -/
theorem exec_launchStart_reads {s s1 s2 s3 : State} {q : Nat} {seq : BitVec 32} {l : Launch} {code data args : List Byte}
    (hlive : s.live = true) (hl : s.launch? q seq = some l) (hdue : s.rel.dueTiles = []) (hstart : s.startable l = true)
    (hrestore : l.restore = none) (hcst : (s.tilesOf l.part l.nltile).any (fun t => s.rel.cstOut.contains (dieOf t)) = false)
    (hcode : s.load { part := l.part, fn := l.fn } (l.binaddr + l.codeoff) (16 * l.ninstr) = .ok (s1, code))
    (hdata : s1.load { part := l.part, fn := l.fn } (l.binaddr + l.dataoff) l.datalen = .ok (s2, data))
    (hargs : s2.load { part := l.part, fn := l.fn } l.argaddr l.arglen = .ok (s3, args)) :
    ∃ u : State, exec (.launchStart q seq) s = .next u ∧ u.HasStarted q seq
      ∧ (∀ ph, s.tilesOf l.part l.nltile = [ph] → 0 < l.ninstr → definedInstr (SMap.get 0 (codeOf code) 0) = true →
          (u.tile ph).running = true ∧ (u.tile ph).pc = 0 ∧ (u.tile ph).ninstr = l.ninstr ∧ (u.tile ph).part = l.part
            ∧ (u.tile ph).ltile = 0 ∧ (u.tile ph).code = codeOf code ∧ (u.tile ph).mode = l.mode) := by
  obtain ⟨hmem, rfl, rfl⟩ := launch?_some hl
  have hs0 : (if s.tilesFree l.part then s.dropDue l.part else s) = s := by rw [State.dropDue_none hdue, ite_self]
  obtain ⟨a7, images, hon⟩ := State.startLaunch_reads hcst hcode hdata hargs
  refine ⟨_, exec_launchStart hlive hl hs0 hstart hrestore, ?_⟩
  have hmem3 : l ∈ s3.launches := by
    obtain ⟨_, _, rfl⟩ := State.load_eq hcode
    obtain ⟨_, _, rfl⟩ := State.load_eq hdata
    obtain ⟨_, _, rfl⟩ := State.load_eq hargs
    exact hmem
  rw [hon]
  exact ⟨State.startOn_hasStarted hmem3 _ _ _ _, fun ph hone hn hfirst => by rw [hone]; exact State.tile_startOn_single hn hfirst s3 ph a7 images⟩

/-! ### Completion (R270, R475) and the launch limit (R315) -/

theorem exec_launchComplete_collected {s : State} {q : Nat} {seq : BitVec 32} {l : Launch} (hlive : s.live = true)
    (hl : s.launch? q seq = some l) (hcollected : l.collected = true) : exec (.launchComplete q seq) s = .next (s.closeLaunch l) := by
  change execLaunchComplete q seq s = _
  rw [execLaunchComplete, State.run_live hlive]
  simp only [hl, hcollected, if_true]

/-- A launch whose tiles have committed their last step is collected, and closed as far as its records let it. -/
theorem exec_launchComplete_done {s : State} {q : Nat} {seq : BitVec 32} {l : Launch} (hlive : s.live = true)
    (hl : s.launch? q seq = some l) (hcollected : l.collected = false) (hdone : s.launchDone l = true) :
    ∃ u : State, exec (.launchComplete q seq) s = .next u
      ∧ (u = s.collect l ∨ ∃ l1, (s.collect l).launch? q seq = some l1 ∧ u = (s.collect l).closeLaunch l1) := by
  change ∃ u : State, execLaunchComplete q seq s = .next u ∧ _
  rw [execLaunchComplete, State.run_live hlive]
  simp only [hl, hcollected, hdone, Bool.false_eq_true, if_false, if_true]
  cases hl1 : (s.collect l).launch? q seq with
  | none => exact ⟨_, rfl, .inl rfl⟩
  | some l1 => exact ⟨_, rfl, .inr ⟨l1, rfl, rfl⟩⟩

/-- Once no record of a launch waits for the log, its packet has ended with the launch's result. -/
theorem State.closeLaunch_packet {s : State} {l : Launch} (hrecords : l.records.any (fun r => (s.queue l.queue).dlv && s.held l.queue r) = false)
    (hrestore : l.restore = none) {x : Packet} (hx : x ∈ (s.closeLaunch l).packets) (hq : x.queue = l.queue) (hseq : x.seq = l.seq) :
    x.work = .done ∧ x.status = l.status ∧ x.reason = l.reason ∧ x.ltile = l.ltile ∧ x.instr = l.instr := by
  have hclose : s.closeLaunch l = s.modPacket l.queue l.seq (fun p =>
      { p with work := .done, status := l.status, reason := l.reason, ltile := l.ltile, instr := l.instr }) := by
    rw [State.closeLaunch, hrecords, hrestore]
    rfl
  rw [hclose] at hx
  obtain ⟨p, -, rfl⟩ := List.mem_map.1 hx
  by_cases hid : p.queue = l.queue ∧ p.seq = l.seq
  · rw [if_pos hid]
    exact ⟨rfl, rfl, rfl, rfl, rfl⟩
  · rw [if_neg hid] at hq hseq
    exact absurd ⟨hq, hseq⟩ hid

theorem exec_ltimeoutExpiry {s : State} {q : Nat} {seq : BitVec 32} {l : Launch} (hlive : s.live = true)
    (hl : s.launch? q seq = some l) (hrun : l.ph = .running) (hlimit : l.ltimeout ≠ 0) :
    exec (.ltimeoutExpiry q seq) s = .next (s.endLaunch l stTimeout 0 0 0) := by
  change execLtimeoutExpiry q seq s = _
  rw [execLtimeoutExpiry, State.run_live hlive]
  simp [hl, hrun, bne_iff_ne.2 hlimit]

/-- Settles O17: validation takes its last branch where every stage stands (`exec_kernelLaunch`), a start whose reads succeed reaches
the tiles (`exec_launchStart_reads`), and completion and limit are the rows' own branches. -/
theorem launchesExecute : Obligations.LaunchesExecute := by
  unfold Obligations.LaunchesExecute
  intro s
  refine ⟨?validate, ?rows⟩
  case validate =>
    intro p s1 s2 hb lb hpres fn a h n slots hmask hn hread hload hheader hlist hslot haddr
    exact ⟨exec_kernelLaunch hpres (a := a) rfl hmask hn hread hload hheader hlist hslot haddr, by simp [State.addLaunch]⟩
  case rows =>
    intro q seq l hlive hl s0
    exact ⟨exec_launchStart hlive hl rfl, exec_launchComplete_done hlive hl, fun s1 s2 s3 code data args => exec_launchStart_reads hlive hl,
      fun hcollected => ⟨exec_launchComplete_collected hlive hl hcollected,
        fun hrecords hrestore x => State.closeLaunch_packet hrecords hrestore⟩,
      exec_ltimeoutExpiry hlive hl⟩

end Sys2Proof.Machine
end

section
/-! Writes of one 64 KiB block through a device address: they land at the block's place, which for a mapped page of space 0 is in HBM
(R275, R276, R296). -/

namespace Sys2Proof.Machine

/-- A range within one 64 KiB block is one piece. -/
theorem pieces_one_block {da n : Nat} (hn : n ≠ 0) (hblock : da % 65536 + n ≤ 65536) : pieces da n = [(da, n)] := by
  have hmin : Nat.min n (65536 - da % 65536) = n := Nat.min_eq_left (by omega)
  have hrest (fuel a : Nat) : cut64k fuel a 0 = [] := by cases fuel <;> rfl
  rw [pieces, cut64k, if_neg hn, hmin]
  dsimp only
  rw [Nat.sub_self, hrest]

theorem State.places_one_block {s : State} {a : Agent} {da n : Nat} {write : Bool} (hn : n ≠ 0) (hblock : da % 65536 + n ≤ 65536) :
    s.places a da n write = (s.place a da n write).map (fun p => [(p, n)]) := by
  rw [State.places, pieces_one_block hn hblock]
  cases hp : s.place a da n write <;> simp [hp]

/-- A write within one block whose place is closed to the agent is not permitted (R275). -/
theorem State.store_one_block_error {s : State} {a : Agent} {da : Nat} {bs : List Byte} (hbs : bs ≠ [])
    (hblock : da % 65536 + bs.length ≤ 65536) (hplace : s.place a da bs.length true = none) :
    s.store a da bs = .error (.status stNotPermitted) := by
  have hn : bs.length ≠ 0 := mt List.length_eq_zero_iff.1 hbs
  rw [State.store, State.places_one_block hn hblock, hplace, Option.map_none]

/-- A write within one block that nothing forbids is the write at its place. -/
theorem State.store_one_block_ok {s : State} {a : Agent} {da : Nat} {bs : List Byte} {p : Place} (hbs : bs ≠ [])
    (hblock : da % 65536 + bs.length ≤ 65536) (hplace : s.place a da bs.length true = some p)
    (hbar : s.writeBar p bs.length = none) : s.store a da bs = .ok (s.put p bs) := by
  have hn : bs.length ≠ 0 := mt List.length_eq_zero_iff.1 hbs
  simp only [State.store, State.places_one_block hn hblock, hplace, Option.map_some, State.barOf, hbar, State.putAll, List.take_length]

/-- Lines without an uncorrectable error bar no write of HBM (R296). -/
theorem State.writeBar_hbm_good {s : State} {pa n : Nat} (hgood : ∀ l ∈ State.linesOf pa n, l ∉ s.rel.badHbm) :
    s.writeBar (.hbm pa) n = none := by
  have hnone : (State.linesOf pa n).any (fun l => s.rel.badHbm.contains l && State.partLine pa n l) = false :=
    List.any_eq_false.2 fun l hl => by simp [hgood l hl]
  rw [State.writeBar, hnone, if_neg Bool.false_ne_true]

/-- A write of HBM changes its bytes, the uncorrectable lines and the counters alone. -/
theorem State.put_hbm (s : State) (pa : Nat) (bs : List Byte) :
    ∃ rel tele, s.put (.hbm pa) bs = { s with hbm := s.hbm.setBytes pa bs, rel := rel, tele := tele } := by
  obtain ⟨tele, htele⟩ := State.countHbm_tele s 2 pa bs.length
  exact ⟨_, tele, by rw [State.put, htele]⟩

/-- Settles O56: the range is one block of space 0, so its place is the page's (`State.store_one_block_ok`), and a write of HBM changes its
bytes (`State.put_hbm`). -/
theorem storesToHbmLand : Obligations.StoresToHbmLand := by
  unfold Obligations.StoresToHbmLand
  intro s a va pa bs hwf hbs hblock hva
  have hspace : daSpace va = 0 := by unfold daSpace; omega
  have hplace := State.place_space0 hspace s a bs.length true
  constructor
  · intro hpage hgood
    obtain ⟨rel, tele, hput⟩ := s.put_hbm pa bs
    refine ⟨_, State.store_one_block_ok hbs hblock (hplace.trans hpage) (State.writeBar_hbm_good hgood), ?_⟩
    rw [hput]
    exact ⟨Mem.bytes_setBytes hwf pa bs, fun b hb => Mem.byte_setBytes_outside hwf hb, rfl, rfl, rfl, rfl⟩
  · intro hnone
    exact State.store_one_block_error hbs hblock (hplace.trans hnone)

end Sys2Proof.Machine
end

section
/-! Boundary scan (R593): each TAP of the chain takes its instruction and selects its data register, and touches no other TAP's. -/

namespace Sys2Proof.Machine

/-! ### Folds that write one place per turn -/

/-- A fold whose every turn writes its own place of a list keeps the list's length. -/
theorem length_foldl_range_set {σ α : Type} {g : σ → List α} {f : σ → Nat → σ} (hf : ∀ t k, ∃ w, g (f t k) = (g t).set k w) (n : Nat)
    (t : σ) : (g ((List.range n).foldl f t)).length = (g t).length := by
  induction n with
  | zero => rfl
  | succ n ih =>
    obtain ⟨w, hw⟩ := hf ((List.range n).foldl f t) n
    rw [List.range_succ, List.foldl_append, List.foldl_cons, List.foldl_nil, hw, List.length_set, ih]

/-- After such a fold a place holds what its own turn has written. -/
theorem getElem?_foldl_range_set {σ α : Type} {g : σ → List α} {f : σ → Nat → σ} (hf : ∀ t k, ∃ w, g (f t k) = (g t).set k w)
    {i : Nat} {v : α} (hi : ∀ t, g (f t i) = (g t).set i v) {n : Nat} (hn : i < n) {t : σ} (hlen : i < (g t).length) :
    (g ((List.range n).foldl f t))[i]? = some v := by
  induction n with
  | zero => omega
  | succ n ih =>
    rw [List.range_succ, List.foldl_append, List.foldl_cons, List.foldl_nil]
    rcases Nat.lt_succ_iff_lt_or_eq.1 hn with hlt | rfl
    · obtain ⟨w, hw⟩ := hf ((List.range n).foldl f t) n
      rw [hw, List.getElem?_set_ne (Nat.ne_of_gt hlt), ih hlt]
    · rw [hi, List.getElem?_set_self (by rwa [length_foldl_range_set hf])]

/-- A fold whose turns write every place of a list leaves the list of what they have written. -/
theorem foldl_range_set_eq {σ α : Type} {g : σ → List α} {f : σ → Nat → σ} {vs : List α}
    (hf : ∀ t k, ∃ w, g (f t k) = (g t).set k w) (hvs : ∀ t k (hk : k < vs.length), g (f t k) = (g t).set k vs[k]) {t : σ}
    (hlen : (g t).length = vs.length) : g ((List.range vs.length).foldl f t) = vs := by
  refine List.ext_getElem? fun i => ?_
  by_cases hi : i < vs.length
  · rw [getElem?_foldl_range_set hf (fun t => hvs t i hi) hi (hlen ▸ hi), List.getElem?_eq_getElem hi]
  · rw [List.getElem?_eq_none (by rw [length_foldl_range_set hf, hlen]; omega), List.getElem?_eq_none (by omega)]

/-! ### One TAP -/

@[simp] theorem Tap.setCells_ir (t : Tap) (i : Nat) (c : List Bool) : (t.setCells i c).ir = t.ir := by
  unfold Tap.setCells; split_ifs <;> rfl

@[simp] theorem Tap.setCells_dr (t : Tap) (i : Nat) (c : List Bool) : (t.setCells i c).dr = t.dr := by
  unfold Tap.setCells; split_ifs <;> rfl

/-- A TAP's instruction register takes the code, and no other TAP's changes. -/
theorem Tap.instruct_ir (t : Tap) (i : Nat) (code : BitVec 8) (id : BitVec 32) (balls data : List Bool) :
    (t.instruct i code id balls data).ir = t.ir.set i code := by
  dsimp only [Tap.instruct]
  rw [apply_ite Tap.ir, Tap.setCells_ir, ite_self]

/-- The data register that an instruction selects, as it captures it: the boundary cells, the die's code, or the one bit of BYPASS. -/
def Tap.captured (t : Tap) (i : Nat) (code : BitVec 8) (id : BitVec 32) (balls : List Bool) : List Bool :=
  if code.toNat = 0 || code.toNat = 2 then if i = 0 ∨ i = 5 then captureBalls (t.cells i) balls else t.cells i
  else if code.toNat = 1 then (List.range 32).map id.getLsbD else [false]

theorem Tap.instruct_dr (t : Tap) (i : Nat) (code : BitVec 8) (id : BitVec 32) (balls data : List Bool) :
    (t.instruct i code id balls data).dr = t.dr.set i (t.captured i code id balls) := by
  dsimp only [Tap.instruct]
  rw [apply_ite Tap.dr, Tap.setCells_dr, ite_self, Tap.captured]

theorem Tap.captured_idcode {code : BitVec 8} (h : code.toNat = 1) (t : Tap) (i : Nat) (id : BitVec 32) (balls : List Bool) :
    t.captured i code id balls = (List.range 32).map id.getLsbD := by
  simp [Tap.captured, h]

theorem Tap.captured_bypass (t : Tap) (i : Nat) (id : BitVec 32) (balls : List Bool) : t.captured i 0xFF id balls = [false] := rfl

/-! ### The chain of six -/

/-- One TAP of the chain takes its code, or BYPASS while PORST# is deasserted. -/
def State.instructTap (s : State) (codes : List (BitVec 8)) (balls : List Bool) (data : List (List Bool)) (t : Tap) (i : Nat) : Tap :=
  t.instruct i (if s.boot.porst then codes.getD i 0xFF else 0xFF) (idcode s.fuses.stepping i)
    (if i = 0 then balls.take 34 else balls.drop 34) (data.getD i [])

/-- The chain after an instruction for each of its TAPs. -/
def State.instructedTaps (s : State) (codes : List (BitVec 8)) (balls : List Bool) (data : List (List Bool)) : Tap :=
  (List.range 6).foldl (s.instructTap codes balls data) s.tap

theorem exec_tapInstruction {codes : List (BitVec 8)} (hcodes : codes.length = 6) (balls : List Bool) (data : List (List Bool)) (s : State) :
    exec (.tapInstruction codes balls data) s = .next { s with tap := s.instructedTaps codes balls data } := by
  change execTapInstruction codes balls data s = _
  rw [execTapInstruction, if_neg (not_not_intro hcodes)]
  rfl

theorem State.instructTap_ir (s : State) (codes : List (BitVec 8)) (balls : List Bool) (data : List (List Bool)) (t : Tap) (i : Nat) :
    (s.instructTap codes balls data t i).ir = t.ir.set i (if s.boot.porst then codes.getD i 0xFF else 0xFF) :=
  Tap.instruct_ir ..

theorem State.instructTap_dr (s : State) (codes : List (BitVec 8)) (balls : List Bool) (data : List (List Bool)) (t : Tap) (i : Nat) :
    (s.instructTap codes balls data t i).dr = t.dr.set i (t.captured i (if s.boot.porst then codes.getD i 0xFF else 0xFF)
      (idcode s.fuses.stepping i) (if i = 0 then balls.take 34 else balls.drop 34)) :=
  Tap.instruct_dr ..

section
variable {s : State} {codes : List (BitVec 8)} (balls : List Bool) (data : List (List Bool))

/-- With PORST# asserted every TAP holds the code given to it. -/
theorem State.instructedTaps_ir_porst (hporst : s.boot.porst = true) (hcodes : codes.length = 6) (hir : s.tap.ir.length = 6) :
    (s.instructedTaps codes balls data).ir = codes := by
  rw [State.instructedTaps, ← hcodes]
  refine foldl_range_set_eq (fun t k => ⟨_, s.instructTap_ir ..⟩) (fun t k hk => ?_) (hir.trans hcodes.symm)
  rw [State.instructTap_ir, hporst, if_pos rfl, List.getD_eq_getElem _ _ hk]

/-- A TAP that IDCODE is given to shifts out its die's code. -/
theorem State.instructedTaps_dr_idcode (hporst : s.boot.porst = true) (hdr : s.tap.dr.length = 6) {i : Nat} (hi : i < 6)
    (hcode : (codes.getD i 0).toNat = 1) (hcodes : codes.length = 6) :
    (s.instructedTaps codes balls data).dr.getD i [] = (List.range 32).map (idcode s.fuses.stepping i).getLsbD := by
  have hgiven : (codes.getD i 0xFF).toNat = 1 := by
    rw [List.getD_eq_getElem _ _ (hcodes ▸ hi)] at hcode ⊢
    exact hcode
  rw [List.getD_eq_getElem?_getD, State.instructedTaps,
    getElem?_foldl_range_set (fun t k => ⟨_, s.instructTap_dr codes balls data t k⟩) (fun t => ?_) hi (hdr ▸ hi), Option.getD_some]
  rw [State.instructTap_dr, hporst, if_pos rfl, Tap.captured_idcode hgiven]

/-- With PORST# deasserted every TAP is in BYPASS, whatever it is given. -/
theorem State.instructedTaps_bypass (hporst : s.boot.porst = false) (hir : s.tap.ir.length = 6) (hdr : s.tap.dr.length = 6) :
    (s.instructedTaps codes balls data).ir = List.replicate 6 0xFF
      ∧ (s.instructedTaps codes balls data).dr = List.replicate 6 [false] := by
  constructor
  · refine foldl_range_set_eq (vs := List.replicate 6 0xFF) (fun t k => ⟨_, s.instructTap_ir ..⟩) (fun t k hk => ?_) hir
    rw [State.instructTap_ir, hporst, if_neg Bool.false_ne_true, List.getElem_replicate]
  · refine foldl_range_set_eq (vs := List.replicate 6 [false]) (fun t k => ⟨_, s.instructTap_dr ..⟩) (fun t k hk => ?_) hdr
    rw [State.instructTap_dr, hporst, if_neg Bool.false_ne_true, List.getElem_replicate, Tap.captured_bypass]

end

end Sys2Proof.Machine
end

section
/-! Precise sampling (R566, R567): the sampler of a tile takes a record, or counts it lost. -/

namespace Sys2Proof.Machine

/-- The sampler after it has been offered a record: lost where its four places are taken or the buffer has none free, else staged. -/
def Sampler.offered (sm : Sampler) (r : List (BitVec 32)) : Sampler :=
  if 4 ≤ sm.staged.length ∨ sm.samplen / 32 ≤ sm.buffer.length + sm.staged.length then { sm with lost := Nat.min (sm.lost + 1) 0xFFFF }
  else { sm with staged := sm.staged ++ [r] }

theorem Sampler.offered_full {sm : Sampler}
    (h : 4 ≤ sm.staged.length ∨ sm.samplen / 32 ≤ sm.buffer.length + sm.staged.length) (r : List (BitVec 32)) :
    sm.offered r = { sm with lost := Nat.min (sm.lost + 1) 0xFFFF } := if_pos h

theorem Sampler.offered_free {sm : Sampler} (hstaged : sm.staged.length < 4)
    (hbuffer : sm.buffer.length + sm.staged.length < sm.samplen / 32) (r : List (BitVec 32)) :
    sm.offered r = { sm with staged := sm.staged ++ [r] } := if_neg (by omega)

/-- A sample lands in the buffer later, not when it is taken. -/
theorem Sampler.offered_buffer (sm : Sampler) (r : List (BitVec 32)) : (sm.offered r).buffer = sm.buffer := by
  unfold Sampler.offered
  split <;> rfl

/-- A tile whose sampler has been offered a record. -/
def Tile.sampled (t : Tile) (r : List (BitVec 32)) : Tile := { t with sampler := t.sampler.offered r }

/-- On a running tile the sampler is offered a record of eight words of an instruction of the launch. -/
theorem exec_preciseSample {s : State} {tile instr : Nat} {l : Launch} (hlive : s.live = true)
    (hl : s.runningOf (s.tile tile).part = some l) (hrun : (s.tile tile).running = true) (hstop : (s.tile tile).stopped = false)
    (hperiod : (s.tile tile).sampler.period ≠ 0) (hinstr : instr < (s.tile tile).ninstr) (row passes : Nat) (replayed : Bool) :
    ∃ r : List (BitVec 32), r.length = 8
      ∧ exec (.preciseSample tile instr row passes replayed) s = .next (s.setTile tile ((s.tile tile).sampled r)) := by
  have hguard : ((s.tile tile).running && !(s.tile tile).stopped && (s.tile tile).sampler.period != 0
      && decide (instr < (s.tile tile).ninstr)) = true := by simp [hrun, hstop, hperiod, hinstr]
  refine ⟨?r, ?length, ?exec⟩
  case exec =>
    change execPreciseSample tile instr row passes replayed s = _
    rw [execPreciseSample, State.run_live hlive]
    dsimp only
    rw [hl]
    dsimp only
    rw [hguard, State.when_true, Tile.sampled, Sampler.offered]
    split
    · rfl
    · rfl
  case length => rfl

/-- Records leave the staging for the buffer, the first with the count of those lost before it. -/
theorem Sampler.land_single {sm : Sampler} {r : List (BitVec 32)} (h : sm.staged = [r]) :
    sm.land = { sm with buffer := sm.buffer ++ [r.set 7 (r.getD 7 0 + BitVec.ofNat 32 sm.lost)], staged := [], lost := 0 } := by
  rw [Sampler.land, h]

/-- Settles O54: a fold over the chain writes each TAP's place once (`foldl_range_set_eq`), the sampler is offered a record
(`exec_preciseSample`), what is staged lands, and a refresh is the identity. -/
theorem testAndSamplingAct : Obligations.TestAndSamplingAct := by
  unfold Obligations.TestAndSamplingAct
  intro s
  refine ⟨?taps, ?sample, ?land, ?refresh⟩
  case taps =>
    intro codes balls data hcodes hir hdr
    exact ⟨_, exec_tapInstruction hcodes balls data s, rfl,
      fun hporst => ⟨State.instructedTaps_ir_porst balls data hporst hcodes hir,
        fun i hi hcode => State.instructedTaps_dr_idcode balls data hporst hdr hi hcode hcodes⟩,
      fun hporst => State.instructedTaps_bypass balls data hporst hir hdr⟩
  case sample =>
    intro tile instr row passes replayed l hlive hl hrun hstop hperiod hinstr
    obtain ⟨r, hlen, hexec⟩ := exec_preciseSample hlive hl hrun hstop hperiod hinstr row passes replayed
    have htile (o : Nat) := State.tile_setTile_running s (t := (s.tile tile).sampled r) hrun tile o
    have hself : ((s.setTile tile ((s.tile tile).sampled r)).tile tile).sampler = (s.tile tile).sampler.offered r := by
      rw [htile, if_pos rfl, Tile.sampled]
    refine ⟨_, hexec, rfl, fun o ho => by rw [htile, if_neg ho], ?_⟩
    rw [hself]
    refine ⟨Sampler.offered_buffer _ r, fun hstaged hbuffer => ?_, fun hfull => ?_⟩
    · rw [Sampler.offered_free hstaged hbuffer]
      exact ⟨rfl, r, hlen, rfl⟩
    · rw [Sampler.offered_full hfull]
      exact ⟨rfl, rfl⟩
  case land =>
    intro sm r hstaged _
    rw [Sampler.land_single hstaged]
    exact ⟨rfl, rfl, rfl⟩
  case refresh => exact fun _ _ => rfl

end Sys2Proof.Machine
end

section
/-! The queue, sync-object and slot commands (R302, R306, R307, R312, R318, R325, R326, R328, R331, R363, R364). -/

namespace Sys2Proof.Machine

/-! ### Queues (R302, R306, R307, R312, R318) -/

/-- What the tables say of the queue commands whose only parameter is a queue number. -/
abbrev queueCmd (op : Nat) : Cmd := { op := op, who := .part, plen := 4, masks := [0x3FFF] }

/-- The check of a created queue of the partition, a submission queue where the command needs one. -/
theorem queueChk_false {s : State} {t : Taken} {p : Nat} {sub : Bool} (hpage : (s.part p).hasPage (t.w 8 % 2 ^ 14 / 512) = true)
    (hcreated : (s.queue (t.w 8 % 2 ^ 14)).created = true) (hsub : sub = true → (s.queue (t.w 8 % 2 ^ 14)).qtype = 0) :
    (s.queueChk t p sub).1 = false := by
  simpa [-Nat.reducePow, State.queueChk, hpage, hcreated] using hsub

theorem exec_qCreate {s : State} {t : Taken} {p : Nat}
    (h : s.asks t p { op := 0x0200, who := .part, plen := 36, masks := ctxMasks } = true)
    (hctx : ∀ k ∈ s.ctxChks (ctxQueue t) t.fn p, k.1 = false) (hpage : (s.part p).hasPage (t.w 8 / 512) = true)
    (hown : s.pageOwner (t.w 8 / 512) = some t.fn) (hfree : (s.queue (t.w 8)).created = false)
    (hevent : (ctxQueue t).qtype = 3 → s.eventQueue t.fn = none) :
    exec (.qCreate t.fn) s = .next ((s.setQueue (t.w 8) { ctxQueue t with st := .active, owner := t.fn }).respond t ok) := by
  change execQCreate t.fn s = _
  unfold execQCreate
  rw [run_command_of_asks h rfl (by decide) (by decide) rfl ?checks rfl]
  case checks =>
    rw [actsOn_of_asks h rfl]
    exact List.forall_mem_append.2 ⟨hctx, by simpa [hpage, hown, hfree] using hevent⟩

theorem exec_qModify {s : State} {t : Taken} {p : Nat}
    (h : s.asks t p { op := 0x0201, who := .part, plen := 36, masks := ctxMasks } = true)
    (hctx : ∀ k ∈ s.ctxChks (ctxQueue t) (s.queue (t.w 8)).owner p, k.1 = false)
    (hpage : (s.part p).hasPage (t.w 8 % 2 ^ 14 / 512) = true) (hcreated : (s.queue (t.w 8 % 2 ^ 14)).created = true)
    (htype : (ctxQueue t).qtype = (s.queue (t.w 8)).qtype) (hlog2 : (ctxQueue t).log2 = (s.queue (t.w 8)).log2)
    (hbase : (ctxQueue t).base = (s.queue (t.w 8)).base) (hidle : (s.queue (t.w 8)).qtype = 0 → s.running (t.w 8) = false) :
    exec (.qModify t.fn) s = .next ((s.modQueue (t.w 8) (fun q => { q with
      prio := (ctxQueue t).prio, haltOnErr := (ctxQueue t).haltOnErr, cq := (ctxQueue t).cq, dlq := (ctxQueue t).dlq,
      dlv := (ctxQueue t).dlv, vector := (ctxQueue t).vector, vecv := (ctxQueue t).vecv, coalcnt := (ctxQueue t).coalcnt,
      coaltime := (ctxQueue t).coaltime })).respond t ok) := by
  change execQModify t.fn s = _
  unfold execQModify
  rw [run_command_of_asks h rfl (by decide) (by decide) rfl ?checks rfl]
  case checks =>
    rw [actsOn_of_asks h rfl]
    exact List.forall_mem_cons.2 ⟨queueChk_false hpage hcreated nofun,
      List.forall_mem_append.2 ⟨hctx, by simpa [htype, hlog2, hbase] using hidle⟩⟩

theorem exec_qDestroy {s : State} {t : Taken} {p : Nat} (h : s.asks t p (queueCmd 0x0202) = true)
    (hpage : (s.part p).hasPage (t.w 8 % 2 ^ 14 / 512) = true) (hcreated : (s.queue (t.w 8 % 2 ^ 14)).created = true)
    (hnamed : s.named (t.w 8) = false) (hidle : (s.queue (t.w 8)).qtype = 0 → s.running (t.w 8) = false) :
    exec (.qDestroy t.fn) s = .next ((s.dropQueue (t.w 8)).respond t ok) := by
  change execQDestroy t.fn s = _
  unfold execQDestroy
  rw [run_command_of_asks h rfl (by decide) (by decide) rfl ?checks rfl]
  case checks =>
    rw [actsOn_of_asks h rfl]
    exact List.forall_mem_cons.2 ⟨queueChk_false hpage hcreated nofun, List.forall_mem_singleton.2 (by simpa [hnamed] using hidle)⟩

theorem exec_qQuery {s : State} {t : Taken} {p : Nat} (h : s.asks t p (queueCmd 0x0203) = true)
    (hpage : (s.part p).hasPage (t.w 8 % 2 ^ 14 / 512) = true) (hcreated : (s.queue (t.w 8 % 2 ^ 14)).created = true) :
    exec (.qQuery t.fn) s = .next (s.respond t (okWords
      ((s.queue (t.w 8)).context ++ [(s.queue (t.w 8)).hostIdx, (s.queue (t.w 8)).devIdx]))) := by
  change execQQuery t.fn s = _
  unfold execQQuery State.query
  rw [run_command_of_asks h rfl (by decide) (by decide) rfl ?checks rfl]
  case checks =>
    rw [actsOn_of_asks h rfl]
    exact List.forall_mem_singleton.2 (queueChk_false hpage hcreated nofun)

theorem exec_qResume {s : State} {t : Taken} {p : Nat} (h : s.asks t p (queueCmd 0x0204) = true)
    (hpage : (s.part p).hasPage (t.w 8 % 2 ^ 14 / 512) = true) (hcreated : (s.queue (t.w 8 % 2 ^ 14)).created = true)
    (htype : (s.queue (t.w 8 % 2 ^ 14)).qtype = 0) (hhalted : (s.queue (t.w 8)).st = .halted) :
    exec (.qResume t.fn) s = .next ((s.modQueue (t.w 8) (fun q => { q with st := .active })).respond t ok) := by
  change execQResume t.fn s = _
  unfold execQResume
  rw [run_command_of_asks h rfl (by decide) (by decide) rfl ?checks rfl]
  case checks =>
    rw [actsOn_of_asks h rfl]
    exact List.forall_mem_cons.2 ⟨queueChk_false hpage hcreated (fun _ => htype), List.forall_mem_singleton.2 (by simp [hhalted])⟩

theorem exec_qAbort {s : State} {t : Taken} {p : Nat} (h : s.asks t p (queueCmd 0x0205) = true)
    (hpage : (s.part p).hasPage (t.w 8 % 2 ^ 14 / 512) = true) (hcreated : (s.queue (t.w 8 % 2 ^ 14)).created = true)
    (htype : (s.queue (t.w 8 % 2 ^ 14)).qtype = 0) :
    exec (.qAbort t.fn) s = .next ((s.abortQueue (t.w 8)).respond t (okWords
      [(s.abortable (t.w 8)).length, (s.queue (t.w 8)).used + (s.queue (t.w 8)).fetched.length])) := by
  change execQAbort t.fn s = _
  unfold execQAbort
  rw [run_command_of_asks h rfl (by decide) (by decide) rfl ?checks rfl]
  case checks =>
    rw [actsOn_of_asks h rfl]
    exact List.forall_mem_singleton.2 (queueChk_false hpage hcreated (fun _ => htype))

/-- The bytes that a save of the running launch of a queue needs (R318, R483); none where no launch runs. -/
def State.saveBytes (s : State) (q : Nat) (basin : Bool) : Nat :=
  match s.runningFrom q with
  | some l => ctxSize l basin
  | none => 0

theorem exec_ctxSize {s : State} {t : Taken} {p : Nat}
    (h : s.asks t p { op := 0x0206, who := .part, plen := 4, masks := [0x7FFF] } = true)
    (hpage : (s.part p).hasPage (t.w 8 % 2 ^ 14 / 512) = true) (hcreated : (s.queue (t.w 8 % 2 ^ 14)).created = true)
    (htype : (s.queue (t.w 8 % 2 ^ 14)).qtype = 0) :
    exec (.ctxSize t.fn) s = .next (s.respond t (okWords
      [s.saveBytes (t.w 8 % 2 ^ 14) ((t.w 8).testBit 14) % 2 ^ 32, s.saveBytes (t.w 8 % 2 ^ 14) ((t.w 8).testBit 14) / 2 ^ 32])) := by
  change execCtxSize t.fn s = _
  unfold execCtxSize State.query
  rw [run_command_of_asks h rfl (by decide) (by decide) rfl ?checks rfl]
  case checks =>
    rw [actsOn_of_asks h rfl]
    exact List.forall_mem_singleton.2 (queueChk_false hpage hcreated (fun _ => htype))
  rfl

/-! ### Sync objects (R325, R326, R328) -/

/-- The check of a sync object of the partition. -/
theorem syncChk_false {s : State} {t : Taken} {p : Nat} (hsync : (s.part p).hasSync (t.w 8 % 2 ^ 15) = true) :
    (s.syncChk t p).1 = false := by
  rw [State.syncChk, hsync, Bool.not_true]

theorem exec_syncReset {s : State} {t : Taken} {p : Nat} (h : s.asks t p (syncCmd 0x0210) = true)
    (hsync : (s.part p).hasSync (t.w 8 % 2 ^ 15) = true) (hheld : s.syncHeld (t.w 8) = false) :
    exec (.syncReset t.fn) s = .next ((s.setCounter (t.w 8) (BitVec.ofNat 64 (t.w64 9))).respond t ok) := by
  change execSyncReset t.fn s = _
  unfold execSyncReset
  rw [run_command_of_asks h rfl (by decide) (by decide) rfl ?checks rfl]
  case checks =>
    rw [actsOn_of_asks h rfl]
    exact List.forall_mem_cons.2 ⟨syncChk_false hsync, List.forall_mem_singleton.2 hheld⟩

theorem exec_syncRead {s : State} {t : Taken} {p : Nat}
    (h : s.asks t p { op := 0x0211, who := .part, plen := 4, masks := [0x7FFF] } = true)
    (hsync : (s.part p).hasSync (t.w 8 % 2 ^ 15) = true) :
    exec (.syncRead t.fn) s = .next (s.respond t (okWords
      [(s.counter (t.w 8)).toNat % 2 ^ 32, (s.counter (t.w 8)).toNat / 2 ^ 32])) := by
  change execSyncRead t.fn s = _
  unfold execSyncRead State.query
  rw [run_command_of_asks h rfl (by decide) (by decide) rfl ?checks rfl]
  case checks =>
    rw [actsOn_of_asks h rfl]
    exact List.forall_mem_singleton.2 (syncChk_false hsync)

theorem exec_syncSignalCmd {s : State} {t : Taken} {p : Nat} (h : s.asks t p (syncCmd 0x0212) = true)
    (hsync : (s.part p).hasSync (t.w 8 % 2 ^ 15) = true) :
    exec (.syncSignalCmd t.fn) s = .next ((s.syncAdd (t.w 8) (t.w64 9)).respond t ok) := by
  change execSyncSignalCmd t.fn s = _
  unfold execSyncSignalCmd
  rw [run_command_of_asks h rfl (by decide) (by decide) rfl ?checks rfl]
  case checks =>
    rw [actsOn_of_asks h rfl]
    exact List.forall_mem_singleton.2 (syncChk_false hsync)

/-- SYNC_ARM replaces what is armed on the object, and fires at once where the threshold is met already. -/
theorem exec_syncArm {s : State} {t : Taken} {p : Nat} (h : s.asks t p armCmd = true) (harm : (t.w 8).testBit 15 = false)
    (hsync : (s.part p).hasSync (t.w 8 % 2 ^ 15) = true) :
    exec (.syncArm t.fn) s = .next ((({ s with arms := (s.disarm (t.w 8 % 2 ^ 15)).arms
        ++ [(t.w 8 % 2 ^ 15, ({ fn := t.fn, threshold := BitVec.ofNat 64 (t.w64 9) } : Arm))] } : State).fireArms p
      (t.w 8 % 2 ^ 15)).respond t ok) := by
  change execSyncArm t.fn s = _
  unfold execSyncArm
  rw [run_command_of_asks h rfl (by decide) (by decide) (by rw [harm]; rfl) ?checks rfl] <;> rw [actsOn_of_asks h rfl]
  case checks => exact List.forall_mem_singleton.2 (syncChk_false hsync)
  rfl

theorem exec_syncDisarm {s : State} {t : Taken} {p : Nat} (h : s.asks t p armCmd = true) (hdisarm : (t.w 8).testBit 15 = true)
    (hsync : (s.part p).hasSync (t.w 8 % 2 ^ 15) = true) (hlow : t.w 9 = 0) (hhigh : t.w 10 = 0) :
    exec (.syncDisarm t.fn) s = .next ((s.disarm (t.w 8 % 2 ^ 15)).respond t ok) := by
  change execSyncDisarm t.fn s = _
  unfold execSyncDisarm
  rw [run_command_of_asks h rfl (by decide) (by decide) hdisarm ?checks rfl]
  case checks =>
    rw [actsOn_of_asks h rfl]
    exact List.forall_mem_cons.2 ⟨syncChk_false hsync, by simp [hlow, hhigh]⟩

/-! ### Sequence slots (R331) -/

theorem exec_slotWrite {s : State} {t : Taken} {p : Nat} (h : s.asks t p { op := 0x0220, who := .part, plen := 68, masks :=
      [0xFF, 1, m32, m32, m32, m32, m32, 0xFFFF, 0xFFFF, m32, m32, m32, m32, m32, m32, m32, m32] } = true)
    (hslot : (s.part p).hasSlot (t.w 8) = true)
    (hsync : (t.w 16).testBit 15 = true → (s.part p).hasSync (t.w 16 % 2 ^ 15) = true) (hnamed : ∀ l ∈ s.launches, t.w 8 ∉ l.slots) :
    exec (.slotWrite t.fn) s = .next ((s.setSlot (t.w 8) (Slot.ofWords (fun i => t.w (9 + i)))).respond t ok) := by
  have hunnamed : s.slotNamed (t.w 8) = false := by simpa [State.slotNamed] using hnamed
  change execSlotWrite t.fn s = _
  unfold execSlotWrite
  rw [run_command_of_asks h rfl (by decide) (by decide) rfl ?checks rfl]
  case checks =>
    rw [actsOn_of_asks h rfl]
    simpa [-Nat.reducePow, hslot, hunnamed] using hsync

theorem exec_slotRead {s : State} {t : Taken} {p : Nat}
    (h : s.asks t p { op := 0x0221, who := .part, plen := 4, masks := [0xFF] } = true) (hslot : (s.part p).hasSlot (t.w 8) = true) :
    exec (.slotRead t.fn) s = .next (s.respond t (okWords (s.slot (t.w 8)).words)) := by
  change execSlotRead t.fn s = _
  unfold execSlotRead State.query
  rw [run_command_of_asks h rfl (by decide) (by decide) rfl ?checks rfl]
  case checks =>
    rw [actsOn_of_asks h rfl]
    simp [hslot]

/-- Settles O5: each command by its own equation; its checks are those of the queue (`queueChk_false`), of the sync object
(`syncChk_false`) or of the slot, and all hold. -/
theorem queueSyncAndSlotCommandsExecute : Obligations.QueueSyncAndSlotCommandsExecute := by
  unfold Obligations.QueueSyncAndSlotCommandsExecute
  exact ⟨fun s t p => ⟨exec_qCreate, exec_qModify, exec_qDestroy, exec_qQuery, exec_qResume, exec_qAbort, exec_ctxSize⟩,
    fun s t p => ⟨exec_syncReset, exec_syncRead, exec_syncSignalCmd, exec_syncArm, exec_syncDisarm, exec_slotWrite, exec_slotRead⟩⟩

end Sys2Proof.Machine
end

section
/-! Additions to sync objects (R325, R327): what the events, thresholds and resumptions of one leave alone, its sum, and its waiters. -/

namespace Sys2Proof.Machine

/-! ### Events (R324) -/

theorem State.eventPart_besideEvents (s : State) (part code source : Nat) (status : Word16) (d0 d1 : Nat) :
    (s.eventPart part code source status d0 d1).besideEvents = s.besideEvents :=
  foldl_besideEvents (fun s f => State.eventTo_besideEvents s f code source status d0 d1) _ s

/-! ### Counters and packets -/

/-- What sync objects and their waiting packets show: the counters and the dispatched packets. -/
def State.signals (s : State) : SMap (BitVec 64) × List Packet := (s.sync, s.packets)

theorem State.signals_of_besideEvents {s u : State} (h : u.besideEvents = s.besideEvents) : u.signals = s.signals :=
  (congrArg State.signals h :)

theorem State.interval_signals (s : State) (part kind qual len : Nat) : (s.interval part kind qual len).signals = s.signals := by
  obtain ⟨ps, h⟩ := s.interval_eq part kind qual len
  rw [h]
  rfl

/-- Thresholds that fire write events and disarm. -/
theorem State.fireArms_signals (s : State) (part obj : Nat) : (s.fireArms part obj).signals = s.signals := by
  have hevents (v : Nat) (l : List (Nat × Arm)) (u : State) :
      (l.foldl (fun s a => s.eventPart part 0x0203 obj stOk v a.2.threshold.toNat) u).signals = u.signals :=
    State.signals_of_besideEvents (foldl_besideEvents (fun s _ => s.eventPart_besideEvents ..) l u)
  unfold State.fireArms
  dsimp only
  exact (hevents _ _ _).trans rfl

theorem State.resumed_signals (s : State) (part n : Nat) : (s.resumed part n).signals = s.signals := by
  induction n generalizing s with
  | zero => rfl
  | succ n ih => exact (ih _).trans (State.interval_signals ..)

theorem State.failTile_signals (s : State) (ph : Nat) (status : Word16) (reason instr : Nat) :
    (s.failTile ph status reason instr).signals = s.signals := by
  cases hl : s.runningOf (s.tile ph).part with
  | none => simp only [State.failTile, hl]
  | some l =>
    rw [State.failTile_running hl]
    exact (congrArg State.signals (s.endLaunch_besideTiles l status reason (s.tile ph).ltile instr) :)

theorem State.settle_signals (s : State) (ph : Nat) : (s.settle ph).signals = s.signals := by
  unfold State.settle
  dsimp only
  split
  · rfl
  · split
    · exact s.failTile_signals ph _ _ _
    · split
      · exact s.failTile_signals ph _ _ _
      · rfl

theorem State.foldl_settle_signals {α : Type} (l : List α) (ph : α → Nat) (s : State) :
    (l.foldl (fun s e => s.settle (ph e)) s).signals = s.signals := by
  induction l generalizing s with
  | nil => rfl
  | cons e l ih => exact (ih _).trans (s.settle_signals _)

/-! ### The addition -/

/-- The packet after a counter it may wait on has reached a value. -/
def Packet.woken (p : Packet) (obj : Nat) (v : BitVec 64) : Packet :=
  match p.work with
  | .wait o target => if o = obj ∧ target.toNat ≤ v.toNat then { p with work := .done, status := stOk, detail := v.toNat } else p
  | _ => p

/-- A packet that still waits on the object has a target that the value does not reach. -/
theorem Packet.lt_of_woken_wait {p : Packet} {obj : Nat} {v target : BitVec 64} (h : (p.woken obj v).work = .wait obj target) :
    v.toNat < target.toNat := by
  unfold Packet.woken at h
  split at h
  · next o u hwork =>
    split at h
    · cases h
    · next hnot =>
      rw [hwork] at h
      cases h
      exact Nat.lt_of_not_le fun hle => hnot ⟨rfl, hle⟩
  · next hwork => exact absurd h (hwork obj target)

/-- The value that an addition leaves: the sum, or 2^64 − 1 where it would pass it (R325). -/
def State.addedCounter (s : State) (obj amount : Nat) : BitVec 64 := BitVec.ofNat 64 (Nat.min ((s.counter obj).toNat + amount) (2 ^ 64 - 1))

theorem State.toNat_addedCounter (s : State) (obj amount : Nat) :
    (s.addedCounter obj amount).toNat = Nat.min ((s.counter obj).toNat + amount) (2 ^ 64 - 1) :=
  Nat.mod_eq_of_lt (Nat.lt_of_le_of_lt (Nat.min_le_right _ _) (by decide))

/-- An addition writes its object's counter and then wakes its waiters. -/
theorem State.syncAdd_signals (s : State) (obj amount : Nat) :
    (s.syncAdd obj amount).signals = ((s.setCounter obj (s.addedCounter obj amount)).sync,
      s.packets.map (·.woken obj ((s.setCounter obj (s.addedCounter obj amount)).counter obj))) := by
  have hbefore (u : State) (hu : u.signals = (s.setCounter obj (s.addedCounter obj amount)).signals) (part : Nat) :
      ((u.fireArms part obj).wake obj).signals = ((s.setCounter obj (s.addedCounter obj amount)).sync,
        s.packets.map (·.woken obj ((s.setCounter obj (s.addedCounter obj amount)).counter obj))) := by
    obtain ⟨hsync, hpackets⟩ := Prod.mk.inj ((u.fireArms_signals part obj).trans hu)
    have hcounter : (u.fireArms part obj).counter obj = (s.setCounter obj (s.addedCounter obj amount)).counter obj :=
      congrArg (SMap.get 0 · obj) hsync
    refine Prod.ext hsync ?_
    rw [← hcounter]
    exact congrArg (List.map _) hpackets
  unfold State.syncAdd
  dsimp only
  rw [State.foldl_settle_signals, State.resumed_signals]
  split
  · exact hbefore _ (State.signals_of_besideEvents (State.eventPart_besideEvents ..)) _
  · exact hbefore _ rfl _

theorem State.counter_syncAdd {s : State} (h : SMap.wf 0 s.sync = true) (obj amount o : Nat) :
    (s.syncAdd obj amount).counter o = if o = obj then s.addedCounter obj amount else s.counter o := by
  have hsync : (s.syncAdd obj amount).sync = (s.setCounter obj (s.addedCounter obj amount)).sync :=
    congrArg Prod.fst (s.syncAdd_signals obj amount)
  rw [State.counter, hsync]
  exact State.counter_setCounter h obj o _

/-- Settles O31: the addition's counter reads as the saturated sum (`State.counter_syncAdd`), and a packet that still waits has a target
beyond it (`Packet.lt_of_woken_wait`). -/
theorem syncAdditionSaturates : Obligations.SyncAdditionSaturates := by
  unfold Obligations.SyncAdditionSaturates
  intro s obj amount hwf
  refine ⟨?sum, fun o ho => ?others, fun p hp target hwait => ?waiters⟩
  case sum => rw [State.counter_syncAdd hwf, if_pos rfl, State.toNat_addedCounter]
  case others => rw [State.counter_syncAdd hwf, if_neg ho]
  case waiters =>
    obtain ⟨hsync, hpackets⟩ := Prod.mk.inj (s.syncAdd_signals obj amount)
    have hcounter : (s.syncAdd obj amount).counter obj = (s.setCounter obj (s.addedCounter obj amount)).counter obj :=
      congrArg (SMap.get 0 · obj) hsync
    rw [hpackets] at hp
    obtain ⟨x, _, rfl⟩ := List.mem_map.1 hp
    rw [hcounter]
    exact Packet.lt_of_woken_wait hwait

end Sys2Proof.Machine
end

section
/-! SYNC_SIGNAL, SYNC_WAIT, FENCE, DIGEST_MARK and DMA packets (R316, R317, R381). -/

namespace Sys2Proof.Machine

/-- The checks of a packet whose header stands: those of its type decide. -/
theorem packetChecks_ok {s : State} {p : Packet} {cs : List (Bool × Word16)} (hhead : ∀ k ∈ s.headerChecks p, k.1 = false)
    (h : ∀ k ∈ cs, k.1 = false) : firstFail (s.headerChecks p ++ cs) = stOk :=
  firstFail_none (List.forall_mem_append.2 ⟨hhead, h⟩)

/-! ### SYNC_SIGNAL and SYNC_WAIT -/

/-- The allowed bits of a SYNC_SIGNAL. -/
abbrev signalMasks : List Nat := [0x7FF, m32, 0x7FFF, m32, 0x0FFF_FFFF, m32, m32]

/-- A SYNC_SIGNAL to an object of the partition adds to it and is done. -/
theorem exec_syncSignal_local {s : State} {p : Packet} (hpres : s.presents p 3 = true)
    (hmask : withinMasks p.words signalMasks = true) (hlocal : (word p.words 4).testBit 15 = false)
    (hdev : bits (word p.words 4) 16 12 = 0) (hsync : (s.part (s.queuePart p.queue)).hasSync (word p.words 4 % 2 ^ 15) = true) :
    exec (.syncSignal p.queue p.seq) s =
      .next ((s.syncAdd (word p.words 4 % 2 ^ 15) (word64 p.words 5)).finish p.queue p.seq stOk 0) := by
  obtain ⟨hlive, hfront, hhead⟩ := presents_cases hpres
  change execSyncSignal p.queue p.seq s = _
  rw [execSyncSignal, State.run_live hlive]
  simp only [hfront]
  rw [packetChecks_ok hhead (by simp [-Nat.reducePow, hmask, hlocal, hdev, hsync])]
  simp [-Nat.reducePow, hlocal]

/-- A SYNC_SIGNAL to another device becomes a request whose answer ends it. -/
theorem exec_syncSignal_remote {s : State} {p : Packet} (hpres : s.presents p 3 = true)
    (hmask : withinMasks p.words signalMasks = true) (hremote : (word p.words 4).testBit 15 = true)
    (hcan : s.canRequest (bits (word p.words 4) 16 12) = true) :
    exec (.syncSignal p.queue p.seq) s = .next ((s.modPacket p.queue p.seq (fun x => { x with work := .remote })).request
      (bits (word p.words 4) 16 12) 2 (word p.words 4 % 2 ^ 15) (word64 p.words 5) [] (.packet p.queue p.seq) p.queue) := by
  obtain ⟨hlive, hfront, hhead⟩ := presents_cases hpres
  change execSyncSignal p.queue p.seq s = _
  rw [execSyncSignal, State.run_live hlive]
  simp only [hfront]
  rw [packetChecks_ok hhead (by simp [hmask, hremote])]
  simp [-Nat.reducePow, hremote, hcan]

/-- A SYNC_WAIT whose target is reached is done; another waits for it. -/
theorem exec_syncWait {s : State} {p : Packet} (hpres : s.presents p 4 = true)
    (hmask : withinMasks p.words [0x7FF, m32, 0x7FFF, m32, 0x7FFF, m32, m32, m32] = true)
    (hsync : (s.part (s.queuePart p.queue)).hasSync (word p.words 4 % 2 ^ 15) = true) :
    exec (.syncWait p.queue p.seq) s = .next (if word64 p.words 5 ≤ (s.counter (word p.words 4 % 2 ^ 15)).toNat then
        s.finish p.queue p.seq stOk (s.counter (word p.words 4 % 2 ^ 15)).toNat
      else s.modPacket p.queue p.seq (fun x => { x with work := .wait (word p.words 4 % 2 ^ 15) (BitVec.ofNat 64 (word64 p.words 5)) })) := by
  obtain ⟨hlive, hfront, hhead⟩ := presents_cases hpres
  change execSyncWait p.queue p.seq s = _
  rw [execSyncWait, State.run_live hlive]
  simp only [hfront]
  rw [packetChecks_ok hhead (by simp [-Nat.reducePow, hmask, hsync])]
  rfl

theorem exec_syncWaitTimeout {s : State} {p : Packet} {obj : Nat} {target : BitVec 64} (hlive : s.live = true)
    (hpacket : s.packet? p.queue p.seq = some p) (hwait : p.work = .wait obj target) (hlimit : word p.words 7 ≠ 0) :
    exec (.syncWaitTimeout p.queue p.seq) s = .next (s.finish p.queue p.seq stTimeout (s.counter obj).toNat) := by
  change execSyncWaitTimeout p.queue p.seq s = _
  rw [execSyncWaitTimeout, State.run_live hlive]
  simp only [hpacket, hwait, if_neg hlimit]

/-! ### FENCE and DIGEST_MARK -/

theorem exec_fence {s : State} {p : Packet} (hpres : s.presents p 5 = true)
    (hmask : withinMasks p.words [0x7FF, m32, 0x7FFF, m32] = true) :
    exec (.fence p.queue p.seq) s = .next ((s.land (fun f => s.flights.any (fun g => g.queue == p.queue && f.sameLine g))).modPacket
      p.queue p.seq (fun x => { x with work := .fence })) := by
  obtain ⟨hlive, hfront, hhead⟩ := presents_cases hpres
  change execFence p.queue p.seq s = _
  rw [execFence, State.run_live hlive]
  simp only [hfront]
  rw [packetChecks_ok hhead (by simp [hmask])]
  rfl

theorem exec_digestMark {s : State} {p : Packet} (hpres : s.presents p 7 = true)
    (hmask : withinMasks p.words [0x7FF, m32, 0x7FFF, m32, m32, m32] = true) (hlog : (s.queue p.queue).dlv = true) :
    exec (.digestMark p.queue p.seq) s = .next ((s.pushRecord (s.queue p.queue).dlq (State.markRecord p)).modPacket p.queue p.seq
      (fun x => { x with work := .mark })) := by
  obtain ⟨hlive, hfront, hhead⟩ := presents_cases hpres
  change execDigestMark p.queue p.seq s = _
  rw [execDigestMark, State.run_live hlive]
  simp only [hfront]
  rw [packetChecks_ok hhead (by simp [hmask, hlog])]
  rfl

/-! ### DMA (R381) -/

/-- The allowed bits of a DMA packet. -/
abbrev dmaMasks : List Nat := [0x7FF, m32, 0x7FFF, m32, 0x1FFF, m32, 0xFFFF, 0xFFFF]

/-- The checks of a DMA packet for an engine of the partition, with descriptors that can be read, in line where there are any. -/
theorem dma_checks {s : State} {p : Packet} {a : Agent} {inMasks engine : Bool} {desc count : Nat}
    (hhead : ∀ k ∈ s.headerChecks p, k.1 = false) (hmask : inMasks = true) (hengine : engine = true)
    (hread : s.readable a desc (64 * count) false = true) (halign : count ≠ 0 → desc % 64 = 0) :
    firstFail (s.headerChecks p ++ [(!inMasks, stBadOpcode), (!engine || !s.readable a desc (64 * count) false, stNotPermitted),
      (count != 0 && desc % 64 != 0, stBadAlign)]) = stOk :=
  packetChecks_ok hhead (by simpa [hmask, hengine, hread] using halign)

/-- A DMA of no descriptor is done. -/
theorem exec_dma_none {s : State} {p : Packet} (hpres : s.presents p 2 = true) (hmask : withinMasks p.words dmaMasks = true)
    (hengine : (s.part (s.queuePart p.queue)).hasEngine (word p.words 4 % 32) = true)
    (hread : s.readable { part := s.queuePart p.queue, fn := (s.queue p.queue).owner } (addr48 p.words 5) (64 * word p.words 7) false = true)
    (hnone : word p.words 7 = 0) : exec (.dma p.queue p.seq) s = .next (s.finish p.queue p.seq stOk 0) := by
  obtain ⟨hlive, hfront, hhead⟩ := presents_cases hpres
  have hchecks := dma_checks hhead hmask hengine hread (fun hne => absurd hnone hne)
  change execDma p.queue p.seq s = _
  rw [execDma, State.run_live hlive]
  simp only [hfront]
  rw [hchecks]
  simp [hnone]

/-- The packet as its channel holds it. -/
def State.chanPkt (s : State) (p : Packet) : ChanPkt :=
  { queue := p.queue, seq := p.seq, desc := addr48 p.words 5, count := word p.words 7, idx := 0,
    pclass := bits (word p.words 4) 11 2, part := s.queuePart p.queue, fn := (s.queue p.queue).owner }

/-- A DMA of descriptors joins the queue of its channel, which takes it up where it is free. -/
theorem exec_dma {s : State} {p : Packet} (hpres : s.presents p 2 = true) (hmask : withinMasks p.words dmaMasks = true)
    (hengine : (s.part (s.queuePart p.queue)).hasEngine (word p.words 4 % 32) = true)
    (hread : s.readable { part := s.queuePart p.queue, fn := (s.queue p.queue).owner } (addr48 p.words 5) (64 * word p.words 7) false = true)
    (hsome : 1 ≤ word p.words 7) (halign : addr48 p.words 5 % 64 = 0) (hin : s.rel.sluiceOut.contains (word p.words 4 % 32) = false) :
    exec (.dma p.queue p.seq) s = .next (((s.modPacket p.queue p.seq (fun x => { x with work := .dma })).modChan
      (word p.words 4 % 32 * 64 + bits (word p.words 4) 5 6) (fun x => { x with queue := x.queue ++ [s.chanPkt p] })).serve
      (word p.words 4 % 32 * 64 + bits (word p.words 4) 5 6)) := by
  obtain ⟨hlive, hfront, hhead⟩ := presents_cases hpres
  have hchecks := dma_checks hhead hmask hengine hread (fun _ => halign)
  have hne : word p.words 7 ≠ 0 := Nat.one_le_iff_ne_zero.1 hsome
  change execDma p.queue p.seq s = _
  rw [execDma, State.run_live hlive]
  simp only [hfront]
  rw [hchecks]
  simp only [bne_self_eq_false, Bool.false_eq_true, if_false, if_neg hne, hin]
  rfl

/-- Settles O16: the checks of each packet hold (`packetChecks_ok`), so each takes its effect, by its own equation. -/
theorem simplePacketsExecute : Obligations.SimplePacketsExecute := by
  unfold Obligations.SimplePacketsExecute
  intro s p
  exact ⟨fun hpres hmask => ⟨exec_syncSignal_local hpres hmask, exec_syncSignal_remote hpres hmask⟩, exec_syncWait,
    fun obj target => exec_syncWaitTimeout, exec_fence, exec_digestMark,
    fun hpres hmask hengine hread => ⟨exec_dma_none hpres hmask hengine hread, exec_dma hpres hmask hengine hread⟩⟩

end Sys2Proof.Machine
end

section
/-! The Queue Manager: doorbells, fetch, dispatch, completion and coalescing (R303, R305, R308, R309, R310, R314, R320 to R324). -/

namespace Sys2Proof.Machine

/-! ### Records and the queues (R320 to R324) -/

/-- A write in place of a listed value, canonical store or not: a function that is the same of both values sees the same store. -/
theorem SMap.map_insert {α β : Type} {d v : α} {m : SMap α} {i : Nat} (g : α → β) (hne : SMap.get d m i ≠ d)
    (hg : g v = g (SMap.get d m i)) : (SMap.insert m i v).map (fun e => (e.1, g e.2)) = m.map (fun e => (e.1, g e.2)) := by
  induction m with
  | nil => exact absurd rfl hne
  | cons x m ih =>
    obtain ⟨k, w⟩ := x
    simp only [SMap.get, SMap.insert] at hne hg ⊢
    by_cases hik : i = k
    · simp only [if_pos hik] at hg ⊢
      rw [List.map_cons, List.map_cons, hg, hik]
    · by_cases hlt : i < k
      · simp [hik, hlt] at hne
      · simp only [if_neg hik, if_neg hlt] at hne hg ⊢
        rw [List.map_cons, List.map_cons, ih hne hg]

/-- What the choice of an event queue reads of a queue. -/
def Queue.role (q : Queue) : Bool × Nat × Nat := (q.created, q.qtype, q.owner)

/-- The numbers of the queues with their roles. -/
def State.roles (s : State) : List (Nat × Bool × Nat × Nat) := s.queues.map (fun e => (e.1, e.2.role))

theorem State.eventQueue_roles (s : State) (fn : Nat) :
    s.eventQueue fn = (s.roles.find? (fun e => e.2.1 && e.2.2.1 == 3 && e.2.2.2 == fn)).map (·.1) := by
  rw [State.roles, List.find?_map, Option.map_map]
  rfl

theorem Queue.ne_default_of_created {q : Queue} (h : q.created = true) : q ≠ {} := by
  rintro rfl; cases h

/-- A write of a created queue that keeps its role changes no role, and no other queue. -/
theorem State.setQueue_roles {s : State} {i : Nat} {c : Queue} (hcreated : (s.queue i).created = true) (hrole : c.role = (s.queue i).role) :
    (s.setQueue i c).roles = s.roles ∧ ∀ j, j ≠ i → (s.setQueue i c).queue j = s.queue j := by
  have hc : c ≠ {} := Queue.ne_default_of_created ((congrArg Prod.fst hrole).trans hcreated)
  refine ⟨?_, fun j hj => by rw [State.queue_setQueue_ne s hc, if_neg hj]⟩
  change (SMap.set {} s.queues i c).map _ = _
  rw [SMap.set, if_neg hc]
  exact SMap.map_insert Queue.role (Queue.ne_default_of_created hcreated) hrole

theorem State.put_queues (s : State) (p : Place) (bs : List Byte) : (s.put p bs).queues = s.queues := by
  cases p with
  | hbm pa =>
    obtain ⟨k, hk⟩ := s.countHbm_tele 2 pa bs.length
    exact (congrArg State.queues hk :)
  | tile sp ph off => rfl
  | host fn a =>
    unfold State.put
    dsimp only
    split <;> rfl

theorem State.putAll_queues (s : State) (ps : List (Place × Nat)) (bs : List Byte) : (s.putAll ps bs).queues = s.queues := by
  induction ps generalizing s bs with
  | nil => rfl
  | cons p ps ih => exact (ih _ _).trans (s.put_queues _ _)

theorem State.storeOrLose_queues (s : State) (a : Agent) (da : Nat) (bs : List Byte) : (s.storeOrLose a da bs).queues = s.queues := by
  unfold State.storeOrLose State.store
  cases s.places a da bs.length true with
  | none => rfl
  | some ps =>
    cases hbar : State.barOf s.writeBar ps with
    | none => simp only [hbar, State.putAll_queues]
    | some w => simp only [hbar]

theorem State.setQueue_queues_congr {s u : State} (h : u.queues = s.queues) (i : Nat) (c : Queue) :
    (u.setQueue i c).queues = (s.setQueue i c).queues :=
  congrArg (fun m => SMap.set ({} : Queue) m i c) h

/-- A record written into a ring moves the ring's own queue on. -/
theorem State.writeRecord_queues (s : State) (q : Nat) (bs : List Byte) :
    ∃ c : Queue, c.role = (s.queue q).role ∧ (s.writeRecord q bs).queues = (s.setQueue q c).queues := by
  unfold State.writeRecord
  dsimp only
  split
  · exact ⟨_, by rfl, State.setQueue_queues_congr (State.storeOrLose_queues ..) q _⟩
  · exact ⟨_, by rfl, State.setQueue_queues_congr (State.storeOrLose_queues ..) q _⟩

/-- A record bound for a ring changes no queue's role, and no other queue. -/
theorem State.pushRecord_roles (s : State) (q : Nat) (bs : List Byte) :
    (s.pushRecord q bs).roles = s.roles ∧ ∀ j, j ≠ q → (s.pushRecord q bs).queue j = s.queue j := by
  cases hcreated : (s.queue q).created with
  | false => simp [State.pushRecord, hcreated]
  | true =>
    have hset : ∃ c : Queue, c.role = (s.queue q).role ∧ (s.pushRecord q bs).queues = (s.setQueue q c).queues := by
      unfold State.pushRecord
      simp only [hcreated, Bool.not_true, Bool.false_eq_true, if_false]
      split
      · exact ⟨_, by split <;> rfl, rfl⟩
      · exact s.writeRecord_queues q bs
    obtain ⟨c, hrole, hqueues⟩ := hset
    obtain ⟨hroles, hother⟩ := State.setQueue_roles hcreated hrole
    exact ⟨(congrArg (List.map _) hqueues).trans hroles, fun j hj => (congrArg (SMap.get _ · j) hqueues).trans (hother j hj)⟩

/-- An event concerning a partition leaves a queue that is no function's event queue. -/
theorem State.eventPart_queue {s : State} {q : Nat} (h : ∀ f, s.eventQueue f ≠ some q) (part code source : Nat) (status : Word16)
    (d0 d1 : Nat) : (s.eventPart part code source status d0 d1).queue q = s.queue q := by
  unfold State.eventPart
  generalize s.boundFuncs part = l
  induction l generalizing s with
  | nil => rfl
  | cons f l ih =>
    have hstep : (s.eventTo f code source status d0 d1).roles = s.roles
        ∧ (s.eventTo f code source status d0 d1).queue q = s.queue q := by
      unfold State.eventTo
      cases hq : s.eventQueue f with
      | none => exact ⟨rfl, rfl⟩
      | some e =>
        obtain ⟨hroles, hother⟩ := s.pushRecord_roles e (s.eventBytes code source status d0 d1)
        exact ⟨hroles, hother q (fun he => h f (by rw [hq, he]))⟩
    obtain ⟨hroles, hqueue⟩ := hstep
    rw [List.foldl_cons, ih, hqueue]
    intro g
    rw [State.eventQueue_roles, hroles, ← State.eventQueue_roles]
    exact h g

theorem State.eventPart_packets (s : State) (part code source : Nat) (status : Word16) (d0 d1 : Nat) :
    (s.eventPart part code source status d0 d1).packets = s.packets :=
  (congrArg State.packets (s.eventPart_besideEvents part code source status d0 d1) :)

/-! ### Doorbells (R304, R305, R545) -/

/-- The entries of a ring whose host index is a value. -/
def Queue.filled (c : Queue) (v : Nat) : Nat := if c.qtype = 0 then c.dist v c.devIdx else c.dist c.devIdx v

/-- A doorbell value that R305 accepts for the queue's context: a created queue, no reserved bit, an index of its ring, and no more entries
than the ring holds. -/
structure Queue.Accepts (c : Queue) (value : Nat) : Prop where
  created : c.created = true
  low     : bits value 21 11 = 0
  high    : bits value 53 11 = 0
  index   : value % 2 ^ 21 < 2 * c.size
  room    : c.filled (value % 2 ^ 21) ≤ c.size

/-- The state in which a doorbell write reaches the Queue Manager: host software has stored, and the port and the manager have counted. -/
def State.rung (s : State) (stores : List Host.Cell) : State :=
  ((s.hostStores stores).count State.unitPcie 0x003 1 1 0).count State.unitQueues 0x001 1 1 0

/-- A doorbell write of a page assigned to the function reaches the Queue Manager. -/
theorem exec_dblQueueWrite {s : State} {fn q : Nat} (hlive : s.live = true) (hpresent : (s.func fn).present = true)
    (hmse : (s.func fn).mse = true) (hq : q < 16384) (hpage : s.pageOwner (q / 512) = some fn) (v : BitVec 64) (stores : List Host.Cell) :
    exec (.dblQueueWrite fn q v stores) s = .next ((s.rung stores).doorbell q v.toNat) := by
  have hreach : (((s.hostStores stores).func fn).reach && decide (q < 16384)) = true := by
    rw [decide_eq_true hq, Bool.and_true]
    exact Bool.and_eq_true_iff.2 ⟨hpresent, hmse⟩
  have howner : ((s.hostStores stores).barWrite.pageOwner (q / 512) != some fn) = false := bne_eq_false_iff_eq.2 hpage
  have hstill : (s.hostStores stores).barWrite.live = true := hlive
  change execDblQueueWrite fn q v stores s = _
  unfold execDblQueueWrite State.slotWrite
  dsimp only
  rw [hreach, State.when_true, howner, if_neg Bool.false_ne_true, hstill, State.when_true]
  rfl

theorem State.doorbell_accepted {s : State} {q value : Nat} (h : (s.queue q).Accepts value) :
    s.doorbell q value = if value % 2 ^ 21 = (s.queue q).hostIdx then s else s.bell q (value % 2 ^ 21) := by
  obtain ⟨hcreated, hlow, hhigh, hindex, hroom⟩ := h
  unfold State.doorbell
  simp only [hcreated, hlow, hhigh, Nat.not_le.2 hindex, Bool.not_true, Bool.false_eq_true, if_false, bne_self_eq_false, Bool.or_self,
    decide_false]
  exact if_neg (Nat.not_lt.2 hroom)

/-- An accepted value that is the host's index already changes nothing. -/
theorem State.doorbell_same {s : State} {q value : Nat} (h : (s.queue q).Accepts value) (heq : value % 2 ^ 21 = (s.queue q).hostIdx) :
    s.doorbell q value = s := (State.doorbell_accepted h).trans (if_pos heq)

/-- Another accepted value becomes the host's index. -/
theorem State.doorbell_moves {s : State} {q value : Nat} (h : (s.queue q).Accepts value) (hne : value % 2 ^ 21 ≠ (s.queue q).hostIdx) :
    s.doorbell q value = s.bell q (value % 2 ^ 21) := (State.doorbell_accepted h).trans (if_neg hne)

/-- A value that is not accepted writes an event and is counted, and does nothing else (R305). -/
theorem State.doorbell_rejected {s : State} {q value : Nat} (h : ¬ (s.queue q).Accepts value) :
    ∃ (part : Nat) (st : Word16), s.doorbell q value =
      (s.eventPart part 0x0202 q st value (s.queue q).hostIdx).count State.unitQueues 0x002 1 1 0 := by
  unfold State.doorbell
  dsimp only
  split
  · exact ⟨_, _, rfl⟩
  · next hcreated =>
    split
    · exact ⟨_, _, rfl⟩
    · next hvalue =>
      by_cases hroom : (s.queue q).size < (s.queue q).filled (value % 2 ^ 21)
      · exact ⟨_, _, if_pos hroom⟩
      · simp only [Bool.not_eq_true', Bool.not_eq_false, Bool.or_eq_true, bne_iff_ne, ne_eq, decide_eq_true_eq, not_or, Decidable.not_not,
          Nat.not_le] at hcreated hvalue
        obtain ⟨⟨hlow, hhigh⟩, hindex⟩ := hvalue
        exact absurd ⟨hcreated, hlow, hhigh, hindex, Nat.not_lt.1 hroom⟩ h

/-- Each new entry of a submission queue keeps the time of its doorbell. -/
theorem State.bell_submission {s : State} {q : Nat} (htype : (s.queue q).qtype = 0) (v : Nat) :
    s.bell q v = s.setQueue q { s.queue q with
      hostIdx := v, bells := (s.queue q).bells ++ List.replicate ((s.queue q).dist v (s.queue q).hostIdx) s.time } := by
  unfold State.bell
  simp only [htype, if_true]

/-- A ring for which nothing waits, and which has lost nothing, takes no record when space frees. -/
theorem State.ringFreed_idle {s : State} {q : Nat} (hwaiting : (s.queue q).waiting = []) (hlost : (s.queue q).lost = 0) :
    s.ringFreed q = s := by
  unfold State.ringFreed
  simp [hwaiting, hlost, State.drainRing]

/-- The context of a ring that the host has read up to an index; with nothing left unread, nothing is left for its vector to report. -/
def Queue.readTo (c : Queue) (v : Nat) : Queue :=
  if ({ c with hostIdx := v } : Queue).used = 0 then { c with hostIdx := v, unrep := 0 } else { c with hostIdx := v }

theorem Queue.readTo_fields (c : Queue) (v : Nat) :
    (c.readTo v).created = c.created ∧ (c.readTo v).waiting = c.waiting ∧ (c.readTo v).lost = c.lost := by
  unfold Queue.readTo
  split <;> exact ⟨rfl, rfl, rfl⟩

theorem State.bell_ring {s : State} {q : Nat} (hcreated : (s.queue q).created = true) (htype : (s.queue q).qtype ≠ 0)
    (hwaiting : (s.queue q).waiting = []) (hlost : (s.queue q).lost = 0) (v : Nat) :
    s.bell q v = s.setQueue q ((s.queue q).readTo v) := by
  obtain ⟨hsame, hwait, hlose⟩ := (s.queue q).readTo_fields v
  have hself : (s.setQueue q ((s.queue q).readTo v)).queue q = (s.queue q).readTo v := by
    rw [State.queue_setQueue_ne s (Queue.ne_default_of_created (hsame.trans hcreated)), if_pos rfl]
  have hbell : s.bell q v = (s.setQueue q ((s.queue q).readTo v)).ringFreed q := by
    unfold State.bell
    simp only [if_neg htype]
    rfl
  rw [hbell, State.ringFreed_idle]
  · rw [hself, hwait, hwaiting]
  · rw [hself, hlose, hlost]

/-! ### Fetch and dispatch (R303, R308, R309) -/

theorem State.fetchEntry_ok {s s1 : State} {q : Nat} {bs : List Byte}
    (hload : s.load (s.ringAgent (s.queue q)) ((s.queue q).entry (s.queue q).devIdx) 64 = .ok (s1, bs)) :
    s.fetchEntry q = s1.setQueue q { s.queue q with
      devIdx := (s.queue q).next (s.queue q).devIdx, pktseq := (s.queue q).pktseq + 1, retries := 0, fetchErr := false,
      bells := (s.queue q).bells.drop 1,
      fetched := (s.queue q).fetched ++ [((s.queue q).pktseq, bytesWords 16 bs, (s.queue q).bells.headD s.time)] } := by
  simp only [State.fetchEntry, hload]

/-- A fetch reads the entry at the device's index of the queue whose turn it is. -/
theorem exec_packetFetch {s s1 : State} {q : Nat} {bs : List Byte} (hlive : s.live = true) (hturn : s.turnOf q = true)
    (hload : ({ s with served := s.served.set (s.queue q).prio q } : State).load (s.ringAgent (s.queue q))
      ((s.queue q).entry (s.queue q).devIdx) 64 = .ok (s1, bs)) :
    exec (.packetFetch q) s = .next (s1.setQueue q { s.queue q with
      devIdx := (s.queue q).next (s.queue q).devIdx, pktseq := (s.queue q).pktseq + 1, retries := 0, fetchErr := false,
      bells := (s.queue q).bells.drop 1,
      fetched := (s.queue q).fetched ++ [((s.queue q).pktseq, bytesWords 16 bs, (s.queue q).bells.headD s.time)] }) := by
  change execPacketFetch q s = _
  rw [execPacketFetch, State.run_live hlive, hturn, State.when_true]
  exact congrArg Host.Outcome.next (State.fetchEntry_ok (s := { s with served := s.served.set (s.queue q).prio q }) hload)

/-- A dispatch of a defined packet hands it to firmware. -/
theorem exec_packetDispatch {s : State} {q : Nat} {seq : BitVec 32} {ws : List Nat} {bell : Nat}
    {rest : List (BitVec 32 × List Nat × Nat)} (hlive : s.live = true) (hfetched : (s.queue q).fetched = (seq, ws, bell) :: rest)
    (hready : s.dispatchable q = true) (hroom : s.packets.length < 1024)
    (hprio : ∀ e ∈ s.queues, e.2.prio ≤ (s.queue q).prio ∨ s.dispatchable e.1 = false) (hdefined : definedPacket ws = true) :
    exec (.packetDispatch q) s = .next ((({ s.setQueue q { s.queue q with fetched := rest } with
      packets := s.packets ++ [{ queue := q, seq := seq, words := ws, tdisp := s.time, work := .inbox, status := stOk }] } : State).count
      State.unitQueues 0x003 1 1 0).interval (s.queuePart q) 0x01 (pType ws) (s.time - bell)) := by
  have hguard : (s.dispatchable q && decide (s.packets.length < dispatchLimit)
      && s.queues.all (fun e => decide (e.2.prio ≤ (s.queue q).prio) || !s.dispatchable e.1)) = true := by
    rw [hready, Bool.true_and, Bool.and_eq_true]
    exact ⟨decide_eq_true hroom, List.all_eq_true.2 (by simpa using hprio)⟩
  change execPacketDispatch q s = _
  rw [execPacketDispatch, State.run_live hlive]
  dsimp only
  rw [hguard, State.when_true]
  simp only [hfetched, hdefined, if_true]

/-! ### Completion and coalescing (R310, R314, R321, R322) -/

/-- A packet that is done completes. -/
theorem exec_packetComplete {s : State} {q : Nat} {seq : BitVec 32} {p : Packet} (hlive : s.live = true)
    (hpacket : s.packet? q seq = some p) (hdone : p.work = .done) : exec (.packetComplete q seq) s = .next (s.complete p) := by
  have hends : s.endsNow p = some p := by simp only [State.endsNow, hdone]
  change execPacketComplete q seq s = _
  rw [execPacketComplete, State.run_live hlive]
  simp [hpacket, hends, hdone]

theorem State.pushRecord_packets (s : State) (q : Nat) (bs : List Byte) : (s.pushRecord q bs).packets = s.packets :=
  (congrArg State.packets (s.pushRecord_besideEvents q bs) :)

theorem State.interval_packets (s : State) (part kind qual len : Nat) : (s.interval part kind qual len).packets = s.packets :=
  congrArg Prod.snd (s.interval_signals part kind qual len)

/-- A packet that signals nothing and ends no launch leaves, and no other packet changes. -/
theorem State.complete_packets {s : State} {p : Packet} (hsig : pSig p.words = false) (hlaunch : s.launchEnded p = none) :
    (s.complete p).packets = s.packets.filter (fun x => !(x.queue == p.queue && x.seq == p.seq)) := by
  unfold State.complete
  simp only [hsig, hlaunch, Bool.and_false, Bool.false_eq_true, if_false]
  simp only [apply_ite State.packets, State.interval_packets, State.eventPart_packets, State.pushRecord_packets, State.modQueue_fields,
    ite_self]

theorem exec_coaltimeExpiry {s : State} {q : Nat} (hlive : s.live = true) (hcreated : (s.queue q).created = true)
    (hvector : (s.queue q).vecv = true) (htype : (s.queue q).qtype ≠ 0) (htime : (s.queue q).coaltime ≠ 0)
    (hunrep : (s.queue q).unrep ≠ 0) :
    exec (.coaltimeExpiry q) s =
      .next ((s.setQueue q { s.queue q with unrep := 0 }).raise (s.queue q).owner (s.queue q).vector) := by
  change execCoaltimeExpiry q s = _
  rw [execCoaltimeExpiry, State.run_live hlive]
  simp only [hcreated, hvector, bne_iff_ne.2 htype, bne_iff_ne.2 htime, bne_iff_ne.2 hunrep, Bool.and_self, State.when_true]

/-- Settles O15: a doorbell reaches the Queue Manager (`exec_dblQueueWrite`), which takes or rejects its value; fetch, dispatch, completion
and COALTIME each by its own equation. -/
theorem queueManagerRuns : Obligations.QueueManagerRuns := by
  unfold Obligations.QueueManagerRuns
  intro s q hlive
  refine ⟨fun fn v stores hpresent hmse hq hpage => ?doorbell, fun hturn hcan => ?fetch, fun seq ws bell rest => exec_packetDispatch hlive,
    fun seq p hpacket hdone => ⟨exec_packetComplete hlive hpacket hdone, State.complete_packets⟩, exec_coaltimeExpiry hlive⟩
  case doorbell =>
    intro c n w sound
    have hexec : exec (.dblQueueWrite fn q v stores) s = .next (w.doorbell q v.toNat) :=
      exec_dblQueueWrite hlive hpresent hmse hq hpage v stores
    have hsound : sound ↔ (w.queue q).Accepts v.toNat :=
      ⟨fun ⟨hcreated, hlow, hhigh, hindex, hroom⟩ => ⟨hcreated, hlow, hhigh, hindex, hroom⟩,
        fun ⟨hcreated, hlow, hhigh, hindex, hroom⟩ => ⟨hcreated, hlow, hhigh, hindex, hroom⟩⟩
    rw [hexec]
    refine ⟨fun h hne htype => ?_, fun h hne htype hwaiting hlost => ?_, fun h heq => ?_, fun h => ?_⟩
    · rw [State.doorbell_moves (hsound.1 h) hne, State.bell_submission (s := w) htype]
      rfl
    · rw [State.doorbell_moves (hsound.1 h) hne, State.bell_ring (s := w) (hsound.1 h).created htype hwaiting hlost]
      rfl
    · rw [State.doorbell_same (hsound.1 h) heq]
    · obtain ⟨part, st, hdoorbell⟩ := State.doorbell_rejected (mt hsound.2 h)
      rw [hdoorbell]
      exact ⟨_, rfl, w.eventPart_packets .., fun hevent => State.eventPart_queue (s := w) hevent ..⟩
  case fetch =>
    obtain ⟨⟨s1, bs⟩, hload⟩ := State.load_of_canRead (s := { s with served := s.served.set (s.queue q).prio q }) hcan
    exact ⟨s1, bs, hload, exec_packetFetch hlive hturn hload⟩

end Sys2Proof.Machine
end

section
/-! Queries (R349, R350), and the device queries DEV_IDENTIFY, DEV_ARRAYS, REPRO_KEY, BOOT_REPORT and PART_QUERY (R355 to R357, R362,
R607). -/

namespace Sys2Proof.Machine

/-- A query that stands to be executed, whose own checks hold, answers its words and changes nothing else. -/
theorem run_query_of_asks {s : State} {t : Taken} {p : Nat} {c : Cmd} (h : s.asks t p c = true) (hop : c.op < 65536)
    (hlen : c.plen < 4096) {checks : State → Taken → Nat → List Chk} {res : State → Taken → Nat → List Nat}
    (hchecks : ∀ k ∈ checks s t ((s.actsOn t).getD 255), k.1 = false) :
    s.run (·.query t.fn c checks res) = .next (s.respond t (okWords (res s t ((s.actsOn t).getD 255)))) := by
  unfold State.query
  rw [run_command_of_asks h rfl hop hlen rfl hchecks rfl]

/-- The same for a query that acts on a partition. -/
theorem run_query_of_asks_part {s : State} {t : Taken} {p : Nat} {c : Cmd} (h : s.asks t p c = true) (hwho : c.who = .part)
    (hop : c.op < 65536) (hlen : c.plen < 4096) {checks : State → Taken → Nat → List Chk} {res : State → Taken → Nat → List Nat}
    (hchecks : ∀ k ∈ checks s t p, k.1 = false) :
    s.run (·.query t.fn c checks res) = .next (s.respond t (okWords (res s t p))) := by
  have hp := actsOn_of_asks h hwho
  rw [run_query_of_asks h hop hlen (by rwa [hp]), hp]

theorem exec_devIdentify {s : State} {t : Taken} {p : Nat} (h : s.asks t p { op := 0x0100, who := .any, plen := 0 } = true) :
    exec (.devIdentify t.fn) s = .next (s.respond t (okWords (s.identity t.fn))) := by
  change execDevIdentify t.fn s = _
  exact run_query_of_asks h (by decide) (by decide) (List.forall_mem_nil _)

theorem exec_devArrays {s : State} {t : Taken} {p : Nat} (h : s.asks t p { op := 0x0101, who := .part, plen := 0 } = true) :
    exec (.devArrays t.fn) s = .next (s.respond t (okWords
      ((List.range 8).map (fun w => (s.arraysOn.filter (fun i => i / 32 == w)).foldl (fun m i => m + 2 ^ (i % 32)) 0)
        ++ [s.arraysOn.length]))) := by
  change execDevArrays t.fn s = _
  exact run_query_of_asks h (by decide) (by decide) (List.forall_mem_nil _)

theorem exec_reproKey {s : State} {t : Taken} {p : Nat}
    (h : s.asks t p { op := 0x0102, who := .part, plen := 8, masks := [7, 7] } = true) :
    exec (.reproKey t.fn) s = .next (s.respond t (okWords
      (bytesWords 4 (s.reproKey (t.w 8) (t.w 9))
        ++ [s.fuses.stepping.toNat, s.jet.version.toNat, State.keyMode (t.w 8), t.w 9]))) := by
  change execReproKey t.fn s = _
  exact run_query_of_asks h (by decide) (by decide) (List.forall_mem_nil _)

theorem exec_bootReport {s : State} {t : Taken} {p : Nat} (h : s.asks t p { op := 0x0104, who := .pf, plen := 0 } = true) :
    exec (.bootReport t.fn) s = .next (s.respond t (okWords
      [s.boot.cause.toNat + 2 ^ 4 * s.boot.uvrail.toNat + 2 ^ 8 * s.boot.prevfail.toNat + 2 ^ 16 * s.boot.prevclass.toNat
         + 2 ^ 24 * s.boot.recovery.toNat + 2 ^ 25 * s.boot.fwbank.toNat + 2 ^ 26 * s.boot.secDamaged.toNat,
       s.boot.hbmoff.toNat, s.boot.newdis % 512 + 65536 * (s.flash.retired.length % 512), s.boot.epoch.toNat,
       s.boot.tready.toNat % 2 ^ 32, s.boot.tready.toNat / 2 ^ 32])) := by
  change execBootReport t.fn s = _
  exact run_query_of_asks h (by decide) (by decide) (List.forall_mem_nil _)

theorem exec_partQuery {s : State} {t : Taken} {p : Nat} (h : s.asks t p { op := 0x0112, who := .part, plen := 0 } = true) :
    exec (.partQuery t.fn) s = .next (s.respond t (okWords
      ((s.part p).words ++ [(s.part p).bind.length]
        ++ bytesWords 64 ((s.part p).bind.map (BitVec.ofNat 8) ++ List.replicate (256 - (s.part p).bind.length) 0)))) := by
  change execPartQuery t.fn s = _
  exact run_query_of_asks_part h rfl (by decide) (by decide) (List.forall_mem_nil _)

/-- Settles O3: each is a query that nothing but the shared checks can refuse. -/
theorem deviceQueriesAnswer : Obligations.DeviceQueriesAnswer := by
  unfold Obligations.DeviceQueriesAnswer
  exact fun s t p => ⟨exec_devIdentify, exec_devArrays, exec_reproKey, exec_bootReport, exec_partQuery⟩

end Sys2Proof.Machine
end

section
/-! Routing, the fabric ID, communicators and the remote window (R356, R368, R405, R425, R428, R433, R438, R439). -/

namespace Sys2Proof.Machine

/-! ### Routes and the fabric ID (R405, R425, R428) -/

/-- The checks of a range of entries that lies within the table. -/
theorem routeChks_false {t : Taken} (hcount : t.w 9 ≤ 506) (hfits : t.w 8 + t.w 9 ≤ 4096) : ∀ k ∈ routeChks t, k.1 = false := by
  simp [routeChks, hcount, hfits]

theorem exec_routeWrite {s : State} {t : Taken} {p : Nat}
    (h : s.asks t p { op := 0x0410, who := .pf, plen := 16 + 8 * t.w 9, masks := [0xFFF, 0x3FF, 0, 0] } = true)
    (hcount : t.w 9 ≤ 506) (hfits : t.w 8 + t.w 9 ≤ 4096)
    (hentries : ∀ i, i < t.w 9 → t.w (13 + 2 * i) < 4 ∧ ((t.w (13 + 2 * i)).testBit 0 = true → t.w (12 + 2 * i) ≠ 0)) :
    exec (.routeWrite t.fn) s = .next (({ s with routes := (List.range (t.w 9)).foldl (fun m i =>
      SMap.set 0 m (t.w 8 + i) (BitVec.ofNat 64 (t.w (12 + 2 * i) + 2 ^ 32 * t.w (13 + 2 * i)))) s.routes } : State).respond t ok) := by
  have hlen : 16 + 8 * t.w 9 < 4096 := by omega
  change execRouteWrite t.fn s = _
  unfold execRouteWrite
  rw [run_command_of_asks h rfl (by norm_num) hlen rfl ?checks rfl]
  case checks =>
    refine List.forall_mem_append.2 ⟨?entries, routeChks_false hcount hfits⟩
    intro k hk
    obtain ⟨i, hi, hk⟩ := List.mem_flatMap.1 hk
    obtain ⟨hlow, hmask⟩ := hentries i (Nat.lt_of_lt_of_le (List.mem_range.1 hi) (Nat.min_le_left _ _))
    simp only [List.mem_cons, List.not_mem_nil, or_false] at hk
    rcases hk with rfl | rfl
    · simpa using hmask
    · exact decide_eq_false (Nat.not_le.2 hlow)
  simp only [Taken.w64_entry]

theorem exec_routeRead {s : State} {t : Taken} {p : Nat}
    (h : s.asks t p { op := 0x0411, who := .part, plen := 8, masks := [0xFFF, 0x3FF] } = true) (hcount : t.w 9 ≤ 506)
    (hfits : t.w 8 + t.w 9 ≤ 4096) :
    exec (.routeRead t.fn) s = .next (s.respond t (okWords ((List.range (t.w 9)).flatMap (fun i =>
      [(s.routeMask (t.w 8 + i)).toNat % 2 ^ 32, (s.routeMask (t.w 8 + i)).toNat / 2 ^ 32])))) := by
  change execRouteRead t.fn s = _
  exact run_query_of_asks h (by decide) (by decide) (routeChks_false hcount hfits)

theorem exec_devidSet {s : State} {t : Taken} {p : Nat} (h : s.asks t p { op := 0x0412, who := .pf, plen := 4, masks := [0xFFF] } = true)
    (hfree : s.comms.any (fun c => c.2.isSome) = false) :
    exec (.devidSet t.fn) s = .next (((List.range 32).foldl (fun (u : State) n =>
        if (u.link n).st = .config then u.startConfig n else u)
      { s with devid := some (BitVec.ofNat 12 (t.w 8)) }).respond t ok) := by
  change execDevidSet t.fn s = _
  unfold execDevidSet
  rw [run_command_of_asks h rfl (by decide) (by decide) rfl (by simpa using hfree) rfl]

/-! ### Communicators (R438, R439) -/

theorem commChk_false {s : State} {t : Taken} {p : Nat} (hcomm : (s.part p).hasComm (t.w 8) = true) : (commChk s t p).1 = false := by
  rw [commChk, hcomm, Bool.not_true]

/-- COMM_CREATE of a descriptor that is read and accepted: the communicator begins to join. -/
theorem exec_commCreate {s s1 : State} {t : Taken} {p : Nat} {b : List Byte}
    (h : s.asks t p { op := 0x0420, who := .part, plen := 16, masks := [0xFF, m32, 0xFFFF, 0xFFFF] } = true)
    (hcomm : (s.part p).hasComm (t.w 8) = true) (hread : s.readable (cmdAgent t p) (t.addr 9) (t.w 11) false = true)
    (hload : s.load (cmdAgent t p) (t.addr 9) (t.w 11) = .ok (s1, b)) (hdesc : ∀ k ∈ s.commChks t p b, k.1 = false) :
    exec (.commCreate t.fn) s = .next (((s1.setComm (t.w 8) (some (s1.commOfDesc p b))).joinStep (t.w 8)).respond t ok) := by
  change execCommCreate t.fn s = _
  unfold execCommCreate
  rw [run_command_of_asks h rfl (by decide) (by decide) rfl ?checks ?now] <;> simp only [actsOn_of_asks h rfl, hload]
  case checks =>
    rw [if_pos hread]
    exact List.forall_mem_cons.2 ⟨by simp [hcomm], List.forall_mem_cons.2 ⟨by simp [hread], hdesc⟩⟩
  case now => rfl

theorem exec_commDestroy {s : State} {t : Taken} {p : Nat}
    (h : s.asks t p { op := 0x0421, who := .part, plen := 4, masks := [0xFF] } = true) (hcomm : (s.part p).hasComm (t.w 8) = true)
    (hexists : (s.comm (t.w 8)).isSome = true)
    (hidle : ∀ k ∈ s.packets, pType k.words = 6 → word k.words 4 % 256 = t.w 8 → s.queuePart k.queue ≠ p) :
    exec (.commDestroy t.fn) s = .next ((s.setComm (t.w 8) none).respond t ok) := by
  change execCommDestroy t.fn s = _
  unfold execCommDestroy
  rw [run_command_of_asks h rfl (by decide) (by decide) rfl ?checks rfl]
  case checks =>
    rw [actsOn_of_asks h rfl]
    refine List.forall_mem_cons.2 ⟨commChk_false hcomm, List.forall_mem_cons.2 ⟨?_, List.forall_mem_singleton.2 ?_⟩⟩
    · simpa [Option.isSome_iff_ne_none] using hexists
    · simpa using hidle

theorem exec_commQuery {s : State} {t : Taken} {p : Nat} {c : Comm}
    (h : s.asks t p { op := 0x0422, who := .part, plen := 4, masks := [0xFF] } = true) (hcomm : (s.part p).hasComm (t.w 8) = true)
    (hexists : s.comm (t.w 8) = some c) :
    exec (.commQuery t.fn) s = .next (s.respond t (okWords [c.st.code, c.own.getD 0xFFF, c.nmem, c.lost.length, c.gen])) := by
  change execCommQuery t.fn s = _
  unfold execCommQuery
  rw [run_query_of_asks_part h rfl (by decide) (by decide) (by simp [commChk_false hcomm, hexists])]
  simp only [hexists]

/-! ### The remote window (R368, R433) -/

theorem exec_windowSet {s : State} {t : Taken} {p : Nat}
    (h : s.asks t p { op := 0x0430, who := .pf, plen := 16, masks := [m32, 0xFFFF, 0xFFFF, m32] } = true) (hp : s.actsOn t = some p)
    (hspace : t.w 9 % 65536 < 4096) (hopen : s.allowed (cmdAgent t p) (t.addr 8) (65536 * t.w 10) true = true)
    (hsync : t.w 11 ||| (s.part p).syncgrp.toNat = (s.part p).syncgrp.toNat) (halign : t.w 10 ≠ 0 → t.addr 8 % 65536 = 0) :
    exec (.windowSet t.fn) s = .next (({ s with
      window := some { part := p, fn := t.fn, base := t.addr 8, size := t.w 10, mask := BitVec.ofNat 32 (t.w 11) } } : State).respond
        t ok) := by
  change execWindowSet t.fn s = _
  unfold execWindowSet
  rw [run_command_of_asks h rfl (by decide) (by decide) rfl ?checks rfl] <;> simp only [hp, Option.getD_some]
  case checks =>
    refine List.forall_mem_cons.2 ⟨vaChk_false hspace, ?_⟩
    simpa [hopen, hsync] using halign

/-- Settles O8: each command by its own equation; a created communicator's descriptor is the one read (`State.load_of_canRead`). -/
theorem fabricCommandsExecute : Obligations.FabricCommandsExecute := by
  unfold Obligations.FabricCommandsExecute
  intro s t p
  refine ⟨exec_routeWrite, exec_routeRead, exec_devidSet, fun h hcomm hread hcan => ?create, exec_commDestroy,
    fun c h hcomm hexists => exec_commQuery h hcomm hexists, exec_windowSet⟩
  case create =>
    obtain ⟨⟨s1, b⟩, hload⟩ := State.load_of_canRead hcan
    exact ⟨s1, b, hload, exec_commCreate h hcomm hread hload⟩

end Sys2Proof.Machine
end

section
/-! Fault-log, maintenance, scrub and error-count commands (R352, R369, R370, R498, R501, R503, R504). -/

namespace Sys2Proof.Machine

/-! ### Queries and periods (R369, R370, R498, R501) -/

theorem exec_faultRead {s : State} {t : Taken} {p : Nat}
    (h : s.asks t p { op := 0x0500, who := .part, plen := 8, masks := [0xFFFF, 0x3F] } = true) :
    exec (.faultRead t.fn) s = .next (s.respond t (okWords
      (let seen := if t.fn = 0 then s.rel.log else s.rel.log.filter (fun f => f.part == some p)
       seen.length :: ((seen.drop (t.w 8)).take (t.w 9)).flatMap (·.words)))) := by
  change execFaultRead t.fn s = _
  exact run_query_of_asks_part h rfl (by decide) (by decide) (List.forall_mem_nil _)

theorem resChk_false {t : Taken} (hres : resourceOk (resKind (t.w 8)) (resIndex (t.w 8)) = true) : (resChk t).1 = false := by
  rw [resChk, mRes, hres, Bool.not_true]

theorem actChk_false {t : Taken} (hoffer : (offers (resKind (t.w 8))).contains (t.w 9 % 8) = true) : (actChk t).1 = false := by
  rw [actChk, mRes, mAct, hoffer, Bool.not_true]

theorem exec_maintStatus {s : State} {t : Taken} {p : Nat}
    (h : s.asks t p { op := 0x0502, who := .part, plen := 4, masks := [0xFFF] } = true)
    (hres : resourceOk (resKind (t.w 8)) (resIndex (t.w 8)) = true) :
    exec (.maintStatus t.fn) s = .next (s.respond t (okWords
      [(match (s.lock (t.w 8)).holder with | some a => 1 + 2 * a.rank | none => 0)
        + 16 * (List.range 8).foldl (fun n i => if (s.lock (t.w 8)).queue.any (fun a => a.rank == i) then n + 2 ^ i else n) 0])) := by
  change execMaintStatus t.fn s = _
  exact run_query_of_asks h (by decide) (by decide) (List.forall_mem_singleton.2 (resChk_false hres))

theorem exec_maintCancel {s : State} {t : Taken} {p : Nat}
    (h : s.asks t p { op := 0x0503, who := .pf, plen := 8, masks := [0xFFF, 7] } = true)
    (hres : resourceOk (resKind (t.w 8)) (resIndex (t.w 8)) = true) (hoffer : (offers (resKind (t.w 8))).contains (t.w 9 % 8) = true)
    (hqueued : (s.lock (t.w 8)).queue.any (fun a => a.rank == t.w 9 % 8) = true) :
    exec (.maintCancel t.fn) s = .next ((s.setLock (t.w 8)
      { s.lock (t.w 8) with queue := (s.lock (t.w 8)).queue.filter (fun a => a.rank != t.w 9 % 8) }).respond t ok) := by
  change execMaintCancel t.fn s = _
  unfold execMaintCancel
  rw [run_command_of_asks h rfl (by decide) (by decide) rfl ?checks rfl]
  case checks =>
    exact List.forall_mem_cons.2 ⟨resChk_false hres, List.forall_mem_cons.2 ⟨actChk_false hoffer,
      List.forall_mem_singleton.2 (by rw [mRes, mAct, hqueued, Bool.not_true])⟩⟩
  rfl

theorem exec_scrubPeriod {s : State} {t : Taken} {p : Nat} (h : s.asks t p { op := 0x0504, who := .pf, plen := 4, masks := [0xFF] } = true)
    (hhbm : t.w 8 % 16 ≤ 8) (hsram : t.w 8 / 16 ≤ 8) :
    exec (.scrubPeriod t.fn) s = .next (({ s with rel := { s.rel with
      scrubHbm := if t.w 8 % 16 = 0 then 8 else t.w 8 % 16, scrubSram := if t.w 8 / 16 = 0 then 8 else t.w 8 / 16 } } : State).respond t ok) := by
  change execScrubPeriod t.fn s = _
  unfold execScrubPeriod
  rw [run_command_of_asks h rfl (by decide) (by decide) rfl (List.forall_mem_singleton.2 (by simp [hhbm, hsram])) rfl]

theorem exec_errCounts {s : State} {t : Taken} {p : Nat}
    (h : s.asks t p { op := 0x0505, who := .part, plen := 4, masks := [0xFFF] } = true)
    (hres : resourceOk (resKind (t.w 8)) (resIndex (t.w 8)) = true) :
    exec (.errCounts t.fn) s = .next (s.respond t (okWords
      (let c : ErrCount := SMap.get {} s.rel.counts (mRes t)
       let l := s.link (resIndex (mRes t))
       [if resKind (mRes t) = 2 then l.fecs else c.corrected, c.uncorr, c.residue,
         if resKind (mRes t) = 2 then l.replays else c.replays].flatMap (fun v => [v.toNat % 2 ^ 32, v.toNat / 2 ^ 32])))) := by
  change execErrCounts t.fn s = _
  unfold execErrCounts
  rw [run_query_of_asks h (by decide) (by decide) (by simp [resChk_false hres])]
  by_cases hlink : resKind (mRes t) = 2
  · simp only [if_pos hlink]
  · simp only [if_neg hlink]

/-! ### The locks of maintenance (R352, R504) -/

/-- A request whose lock is free holds it and starts. -/
theorem State.requestMaint_free {s : State} {res : Nat} (hfree : s.lockBusy res = false) (a : Act) (enq : Bool) :
    s.requestMaint a res enq = ((s.setLock res { s.lock res with holder := some a }).beginMaint res, stOk, 0) := by
  simp [State.requestMaint, hfree]

/-- A request that finds its lock held and asks to wait is queued, where its activity is not queued already. -/
theorem State.requestMaint_queued {s : State} {res : Nat} {a : Act} (hbusy : s.lockBusy res = true)
    (hnew : (s.lock res).queue.any (fun x => x.rank == a.rank) = false) :
    s.requestMaint a res true =
      (s.setLock res { s.lock res with queue := (s.lock res).queue ++ [a] }, stBusy, s.lockPos res a.rank) := by
  simp only [State.requestMaint, hbusy, hnew, Bool.not_true, Bool.and_false, Bool.false_eq_true, if_false, if_true]

/-- A request that finds its lock held and does not ask to wait changes nothing. -/
theorem State.requestMaint_held {s : State} {res : Nat} (hbusy : s.lockBusy res = true) (a : Act) :
    s.requestMaint a res false = (s, stBusy, s.lockPos res a.rank) := by
  simp only [State.requestMaint, hbusy, Bool.not_true, Bool.false_and, Bool.false_eq_true, if_false]

/-! ### MAINT_REQUEST (R370, R503, R506) -/

/-- What MAINT_REQUEST for an activity asks of the lock of its resource. -/
abbrev maintAct (t : Taken) (act : Nat) : Act := { fn := some t.fn, opcode := t.opcode, seq := t.seq, kind := .maint (t.w 8) act }

/-- What MAINT_REQUEST answers to what became of its request. -/
def maintAns (st : Word16) (qpos : Nat) : Ans := { st := st, err := if st = stOk then 0x3FF else 8, qpos := qpos }

/-- Each of the five rows is MAINT_REQUEST for its activity. -/
theorem exec_of_maintRow {fn act : Nat} {c : Instr} (s : State)
    (hrow : (act, c) ∈ [(0, Instr.maintRepair fn), (1, Instr.maintLaneSparing fn), (2, Instr.maintEqualisation fn),
      (3, Instr.maintScrub fn), (4, Instr.maintSelfTest fn)]) : exec c s = s.run (·.maintRequest fn act) := by
  simp only [List.mem_cons, Prod.mk.injEq, List.not_mem_nil, or_false] at hrow
  rcases hrow with ⟨rfl, rfl⟩ | ⟨rfl, rfl⟩ | ⟨rfl, rfl⟩ | ⟨rfl, rfl⟩ | ⟨rfl, rfl⟩ <;> rfl

/-- MAINT_REQUEST of an activity that the resource offers, on another resource than the active pair, is a request to the lock. -/
theorem run_maintRequest {s : State} {t : Taken} {p act : Nat}
    (h : s.asks t p { op := 0x0501, who := .pf, enq := true, plen := 8, masks := [0xFFF, 7] } = true) (hact : t.w 9 % 8 = act)
    (hres : resourceOk (resKind (t.w 8)) (resIndex (t.w 8)) = true) (hoffer : (offers (resKind (t.w 8))).contains act = true)
    (hpair : ¬ (resKind (t.w 8) = 5 ∧ resIndex (t.w 8) = s.activeIdx)) {s1 : State} {st : Word16} {qpos : Nat}
    (hlock : s.requestMaint (maintAct t act) (t.w 8) t.enq = (s1, st, qpos)) :
    s.run (·.maintRequest t.fn act) = .next (s1.respond t (maintAns st qpos)) := by
  subst hact
  unfold State.maintRequest
  rw [run_command_of_asks h rfl (by decide) (by decide) (by simp [mAct]) ?checks rfl] <;> simp only [mRes]
  case checks =>
    exact List.forall_mem_cons.2 ⟨resChk_false hres, List.forall_mem_cons.2 ⟨actChk_false hoffer,
      List.forall_mem_singleton.2 (by simpa using hpair)⟩⟩
  simp only [hlock, maintAns]

/-- Settles O9: queries and settings each by its own equation; the five activities are one request to a lock (`run_maintRequest`), which
is free, or held and queued on, or held and left. -/
theorem reliabilityAndMaintenanceCommandsExecute : Obligations.ReliabilityAndMaintenanceCommandsExecute := by
  unfold Obligations.ReliabilityAndMaintenanceCommandsExecute
  refine ⟨fun s t p => ⟨exec_faultRead, exec_maintStatus, exec_maintCancel, exec_scrubPeriod, exec_errCounts⟩, ?maintenance⟩
  case maintenance =>
    intro s t p act c hrow h hact hres hoffer hpair a
    rw [exec_of_maintRow s hrow]
    refine ⟨fun hfree => ?_, fun hbusy henq hnew => ?_, fun hbusy henq => ?_⟩
    · exact run_maintRequest h hact hres hoffer hpair (State.requestMaint_free hfree _ _)
    · exact run_maintRequest h hact hres hoffer hpair (by rw [henq]; exact State.requestMaint_queued hbusy hnew)
    · exact run_maintRequest h hact hres hoffer hpair (by rw [henq]; exact State.requestMaint_held hbusy _)

end Sys2Proof.Machine
end

section
/-! Counter, snapshot, sampling and histogram commands (R371, R559, R563 to R569). -/

namespace Sys2Proof.Machine

/-! ### Counters (R559, R560) -/

/-- CTR_PROGRAM of a listed event of the unit's kind, with a filter that the event has, on a unit that the requester may read. -/
theorem exec_ctrProgram {s : State} {t : Taken} {p mask : Nat}
    (h : s.asks t p { op := 0x0600, who := .part, plen := 12, masks := [0xFF_FFFF, 0x3_FFFF, 0x1_FFFF] } = true)
    (hunit : unitOk (ctUnit t) = true) (hfirst : 1 ≤ ctCtr t) (hlast : ctCtr t ≤ unitCtrs (ctUnit t / 4096)) (hmode : ctMode t < 3)
    (hevent : eventMask (ctEvent t) = some mask) (hkind : ctEvent t / 4096 = ctUnit t / 4096) (hsub : t.w 10 % 256 ||| mask = mask)
    (hrun : (t.w 10).testBit 16 = true → ctUnit t / 4096 = 0) (hread : s.mayRead t.fn p (ctUnit t) = true) :
    exec (.ctrProgram t.fn) s = .next (({ s with tele := { s.tele with
      ctrs := SMap.set {} s.tele.ctrs (ctUnit t * 256 + ctCtr t)
        { value := 0, mode := ctMode t, event := BitVec.ofNat 16 (ctEvent t), filter := BitVec.ofNat 32 (t.w 10) } } } : State).respond t ok) := by
  have hctr : ctCtr t ≠ 0 := Nat.one_le_iff_ne_zero.1 hfirst
  have hmode3 : ctMode t ≠ 3 := Nat.ne_of_lt hmode
  change execCtrProgram t.fn s = _
  unfold execCtrProgram
  rw [run_command_of_asks h rfl (by decide) (by decide) rfl ?checks rfl]
  case checks =>
    rw [actsOn_of_asks h rfl]
    simpa [hunit, hctr, hlast, hevent, hkind, hmode3, hsub, hread] using hrun

/-! ### Snapshots (R563, R564) -/

/-- The bytes that a SNAPSHOT of a requester needs: its header, and the counters of the units that it may read. -/
def State.snapNeed (s : State) (fn part : Nat) : Nat := 64 + 16 * ((s.readUnits fn part).map (fun u => unitCtrs (u / 4096) + 1)).sum

/-- What the tables say of SNAPSHOT. -/
abbrev snapshotCmd : Cmd := { op := 0x0601, who := .part, plen := 12, masks := [m32, 0xFFFF, m32] }

/-- Each counter of a snapshot has four words. -/
theorem State.ctrEntries_length (s : State) (units : List Nat) (open_ : Nat) :
    (s.ctrEntries units open_).length = 4 * (units.map (fun u => unitCtrs (u / 4096) + 1)).sum := by
  induction units with
  | nil => rfl
  | cons u us ih =>
    rw [State.ctrEntries] at ih ⊢
    rw [List.flatMap_cons, List.length_append, ih, List.map_cons, List.sum_cons, Nat.mul_add]
    simp [Nat.mul_comm]

/-- What a write at one place leaves alone, a write of a range leaves alone. -/
theorem State.putAll_keeps {β : Type} {g : State → β} (hput : ∀ (s : State) p bs, g (s.put p bs) = g s) (s : State)
    (ps : List (Place × Nat)) (bs : List Byte) : g (s.putAll ps bs) = g s := by
  induction ps generalizing s bs with
  | nil => rfl
  | cons p ps ih => exact (ih _ _).trans (hput _ _ _)

/-- The same for a write that is lost where it cannot land. -/
theorem State.storeOrLose_keeps {β : Type} {g : State → β} (hput : ∀ (s : State) p bs, g (s.put p bs) = g s) (s : State) (a : Agent)
    (da : Nat) (bs : List Byte) : g (s.storeOrLose a da bs) = g s := by
  unfold State.storeOrLose State.store
  cases s.places a da bs.length true with
  | none => rfl
  | some ps =>
    cases hbar : State.barOf s.writeBar ps with
    | none => simp only [hbar, State.putAll_keeps hput]
    | some w => simp only [hbar]

/-- Counting at the HBM stacks leaves the generation of snapshots. -/
theorem State.countHbm_snapgen (s : State) (event pa n : Nat) : (s.countHbm event pa n).tele.snapgen = s.tele.snapgen := by
  unfold State.countHbm
  split
  · rfl
  · exact List.foldlRecOn (motive := fun u : State => u.tele.snapgen = s.tele.snapgen) _ _ rfl (fun _ hu _ _ => hu)

theorem State.put_snapgen (s : State) (p : Place) (bs : List Byte) : (s.put p bs).tele.snapgen = s.tele.snapgen := by
  cases p with
  | hbm pa => exact State.countHbm_snapgen s 2 pa bs.length
  | tile sp ph off => rfl
  | host fn a =>
    unfold State.put
    dsimp only
    split <;> rfl

/-- SNAPSHOT of length 0 writes nothing. -/
theorem exec_snapshot_none {s : State} {t : Taken} {p : Nat} (h : s.asks t p snapshotCmd = true) (hnone : t.w 10 = 0) :
    exec (.snapshot t.fn) s = .next (s.respond t (okWords [0])) := by
  change execSnapshot t.fn s = _
  unfold execSnapshot
  rw [run_command_of_asks h rfl (by decide) (by decide) rfl (by simp [hnone]) (by rw [if_pos hnone]; rfl)]
  simp only [if_pos hnone]

/-- SNAPSHOT with room advances the generation, and answers the length of what it writes: at least the counters. -/
theorem exec_snapshot {s : State} {t : Taken} {p : Nat} (h : s.asks t p snapshotCmd = true) (halign : t.addr 8 % 64 = 0)
    (hroom : s.snapNeed t.fn p ≤ t.w 10) (hopen : s.readable (cmdAgent t p) (t.addr 8) (s.snapNeed t.fn p) true = true) :
    ∃ (u : State) (n : Nat), exec (.snapshot t.fn) s = .next (u.respond t (okWords [n])) ∧ u.tele.snapgen = s.tele.snapgen + 1
      ∧ s.snapNeed t.fn p ≤ n := by
  have hsome : t.w 10 ≠ 0 := by unfold State.snapNeed at hroom; omega
  have hspace : (daSpace (t.addr 8) == 0 || daSpace (t.addr 8) == 4) = true := (Bool.and_eq_true_iff.1 hopen).1
  change ∃ (u : State) (n : Nat), execSnapshot t.fn s = _ ∧ _
  unfold execSnapshot
  rw [run_command_of_asks h rfl (by decide) (by decide) rfl ?checks ?now]
  case checks =>
    have hmin : Nat.min (t.w 10) (s.snapNeed t.fn p) = s.snapNeed t.fn p := Nat.min_eq_right hroom
    have hshort : decide (t.w 10 < s.snapNeed t.fn p) = false := decide_eq_false (Nat.not_lt.2 hroom)
    rw [actsOn_of_asks h rfl]
    refine List.forall_mem_cons.2 ⟨?_, List.forall_mem_cons.2 ⟨by simp [halign], List.forall_mem_singleton.2 ?_⟩⟩
    · change (_ && (_ || !s.readable _ _ (Nat.min (t.w 10) (s.snapNeed t.fn p)) true)) = false
      rw [hspace, hmin, hopen, Bool.not_true, Bool.or_self, Bool.and_false]
    · change (_ && decide (t.w 10 < s.snapNeed t.fn p)) = false
      rw [hshort, Bool.and_false]
  case now => rw [if_neg hsome]; rfl
  simp only [if_neg hsome, actsOn_of_asks h rfl]
  refine ⟨_, _, rfl, ?_, ?_⟩
  · exact State.storeOrLose_keeps (g := (·.tele.snapgen)) State.put_snapgen ..
  · simp only [wordsBytes_length, List.length_append, State.ctrEntries_length, List.length_cons, List.length_nil]
    change 64 + 16 * ((s.readUnits t.fn p).map _).sum ≤ 4 * (_ + 4 * ((s.readUnits t.fn p).map _).sum + _)
    omega

/-! ### Samples (R290, R565 to R567) -/

/-- The sampler that SAMPLE_CONFIG leaves: a change of buffer discards its records, and a launch that runs keeps its event. -/
def Tile.sampling (x : Tile) (samplen event period : Nat) : Tile :=
  let sm := if x.sampler.samplen = samplen then x.sampler else { x.sampler with samplen := samplen, staged := [], buffer := [] }
  { x with sampler := if x.running then { sm with next := some (BitVec.ofNat 16 event, period) }
                      else { sm with event := BitVec.ofNat 16 event, period := period, next := none } }

theorem exec_sampleConfig {s : State} {t : Taken} {p : Nat}
    (h : s.asks t p { op := 0x0602, who := .part, plen := 16, masks := [0x1FF, 0xFF, 0xFFFF, m32] } = true) (hkind : t.w 10 / 4096 = 0)
    (hevent : (eventMask (t.w 10)).isSome = true) (htile : t.w 8 = 0x1FF ∨ t.w 8 < (s.part p).count) (hlen : t.w 9 ≤ 224)
    (hperiod : t.w 11 = 0 ∨ 16 ≤ t.w 11)
    (hidle : ∀ ph ∈ s.sampled p (t.w 8), (s.tile ph).sampler.samplen = 1024 * t.w 9 ∨ s.launchOn ph = false) :
    exec (.sampleConfig t.fn) s = .next (((s.sampled p (t.w 8)).foldl
      (fun s ph => s.modTile ph (·.sampling (1024 * t.w 9) (t.w 10) (t.w 11))) s).respond t ok) := by
  change execSampleConfig t.fn s = _
  unfold execSampleConfig
  rw [run_command_of_asks h rfl (by decide) (by decide) rfl ?checks rfl] <;> rw [actsOn_of_asks h rfl]
  case checks =>
    have hbusy : (s.sampled p (t.w 8)).any (fun ph => (s.tile ph).sampler.samplen != 1024 * t.w 9 && s.launchOn ph) = false := by
      rw [List.any_eq_false]
      intro ph hph
      rcases hidle ph hph with hsame | hno
      · simp [hsame]
      · simp [hno]
    have hlow : (t.w 11 != 0 && decide (t.w 11 < 16)) = false := by
      rcases hperiod with hzero | hhigh
      · simp [hzero]
      · simp [hhigh]
    have hnumber : (t.w 8 != 0x1FF && decide ((s.part p).count ≤ t.w 8)) = false := by
      rcases htile with hall | hone
      · simp [hall]
      · simp [hone]
    refine List.forall_mem_cons.2 ⟨?_, List.forall_mem_cons.2 ⟨hnumber, List.forall_mem_cons.2 ⟨?_, List.forall_mem_cons.2 ⟨hlow,
      List.forall_mem_singleton.2 hbusy⟩⟩⟩⟩
    · simpa [hkind, Option.isSome_iff_ne_none] using hevent
    · exact decide_eq_false (Nat.not_lt.2 hlen)
  rfl

/-! ### Histograms (R568, R569) -/

theorem exec_histConfig {s : State} {t : Taken} {p : Nat}
    (h : s.asks t p { op := 0x0603, who := .part, plen := 12, masks := [0x1F, 0xFFFF, 0x3F] } = true)
    (hsource : t.w 9 = 0 ∨ ∃ q, histQual (t.w 9 % 256) = some q ∧ t.w 9 / 256 ≤ q) (hshift : t.w 10 ≤ 40) :
    exec (.histConfig t.fn) s = .next ((s.setPart p { s.part p with
      hists := SMap.set {} (s.part p).hists (t.w 8) { source := BitVec.ofNat 16 (t.w 9), shift := t.w 10 } }).respond t ok) := by
  change execHistConfig t.fn s = _
  unfold execHistConfig
  rw [run_command_of_asks h rfl (by decide) (by decide) rfl ?checks rfl]
  case checks =>
    refine List.forall_mem_cons.2 ⟨?_, List.forall_mem_singleton.2 (decide_eq_false (Nat.not_lt.2 hshift))⟩
    rcases hsource with hnone | ⟨q, hq, hqual⟩
    · simp [hnone]
    · simp [hq, hqual]
  rw [actsOn_of_asks h rfl]

theorem exec_histRead {s : State} {t : Taken} {p : Nat} (h : s.asks t p { op := 0x0604, who := .part, plen := 4, masks := [0x3F] } = true) :
    let i := t.w 8 % 32
    let hist : Hist := SMap.get {} (s.part p).hists i
    exec (.histRead t.fn) s = .next ((if (t.w 8).testBit 5 then
        s.setPart p { s.part p with hists := SMap.set {} (s.part p).hists i { source := hist.source, shift := hist.shift } }
      else s).respond t (okWords ([hist.source.toNat + 65536 * hist.shift, 0] ++
        ([hist.count, hist.sum, hist.min, hist.max] ++ (List.range 64).map (fun b => SMap.get 0 hist.bins b)).flatMap
          (fun v => [v % 2 ^ 32, v / 2 ^ 32 % 2 ^ 32])))) := by
  intro i hist
  change execHistRead t.fn s = _
  unfold execHistRead
  rw [run_command_of_asks h rfl (by decide) (by decide) rfl (List.forall_mem_nil _) rfl, actsOn_of_asks h rfl]
  simp only [List.flatMap_append, List.flatMap_map, List.flatMap_cons, List.flatMap_nil, List.append_assoc, List.append_nil]
  rfl

/-- Settles O10: each command by its own equation; a snapshot's generation outlives its write (`State.put_snapgen`), and each
counter it covers has four words (`State.ctrEntries_length`). -/
theorem telemetryCommandsExecute : Obligations.TelemetryCommandsExecute := by
  unfold Obligations.TelemetryCommandsExecute
  intro s t p
  refine ⟨fun h hunit hfirst hlast hmode hevent hrun hread => ?program,
    fun h => ⟨exec_snapshot_none h, fun _ => exec_snapshot h⟩, exec_sampleConfig, exec_histConfig, exec_histRead⟩
  case program =>
    obtain ⟨mask, hmask, hkind, hsub⟩ := hevent
    exact exec_ctrProgram h hunit hfirst hlast hmode hmask hkind hsub hrun hread

end Sys2Proof.Machine
end

section
/-! Attestation, owner-key and firmware commands (R372, R373, R599, R601, R603). -/

namespace Sys2Proof.Machine

/-! ### Attestation (R372) -/

@[simp] theorem bytesWords_length (n : Nat) (bs : List Byte) : (bytesWords n bs).length = n := by
  induction n generalizing bs with
  | zero => rfl
  | succ n ih => rw [bytesWords, List.length_cons, ih]

@[simp] theorem freeBytes_length (n d : Nat) : (freeBytes n d).length = n := leBytes_length n d

/-- The words of bytes that are whole words. -/
theorem wordsOf_eq {bs : List Byte} {n : Nat} (h : bs.length = 4 * n) : wordsOf bs = bytesWords n bs := by
  rw [wordsOf, h, Nat.mul_div_cancel_left n (by decide)]

/-- ATTEST ends with a signature of 24 words. -/
theorem exec_attest {s : State} {t : Taken} {p : Nat}
    (h : s.asks t p { op := 0x0700, who := .part, plen := 32, masks := List.replicate 8 m32 } = true) :
    ∃ sig : List Nat, exec (.attest t.fn) s = .next (({ s with draws := s.draws + 1 } : State).respond t (okWords
      (t.ws 8 8 ++ wordsOf s.boot.fwdig ++ wordsOf s.boot.jetdig ++ bytesWords 4 (s.reproKey 0 0)
        ++ [s.boot.fwver.toNat, s.boot.svn.toNat + 2 ^ 31 * s.sec.unlocked.toNat] ++ sig))) ∧ sig.length = 24 := by
  change ∃ sig : List Nat, execAttest t.fn s = _ ∧ _
  unfold execAttest
  rw [run_command_of_asks h rfl (by decide) (by decide) rfl (List.forall_mem_nil _) rfl]
  exact ⟨wordsOf (freeBytes 96 s.draw.1), rfl, by rw [wordsOf_eq (n := 24) (freeBytes_length 96 _), bytesWords_length]⟩

theorem exec_certRead {s : State} {t : Taken} {p : Nat}
    (h : s.asks t p { op := 0x0701, who := .part, plen := 8, masks := [0xFFFF, 0xFFF] } = true) (hcount : t.w 9 ≤ 4060) :
    exec (.certRead t.fn) s = .next (s.respond t
      { res := wordsBytes [Config.certChain.length % 65536] ++ (Config.certChain.drop (t.w 8)).take (t.w 9) }) := by
  change execCertRead t.fn s = _
  unfold execCertRead
  rw [run_command_of_asks h rfl (by decide) (by decide) rfl (by simpa using hcount) rfl]

/-! ### Owner keys (R373, R603) -/

/-- An enrolment may stand: the first of all with an AUTHSIG of zeros, a later one with the signature of an enrolled key. -/
theorem exec_ownerKeyEnrol {s : State} {t : Taken} {p : Nat}
    (h : s.asks t p { op := 0x0710, who := .pf, plen := 196, masks := 15 :: List.replicate 48 m32 } = true)
    (hwhole : s.boot.secDamaged = false) (hfree : s.flash.keys.getD (t.w 8 % 4) none = none)
    (hauth : (s.noOwner = true ∧ ∀ v ∈ t.ws 33 24, v = 0) ∨ (s.noOwner = false ∧ s.authOk t 25 33 = true)) :
    exec (.ownerKeyEnrol t.fn) s = .next ((s.setKey (t.w 8 % 4) (some (wordsBytes (t.ws 9 24)))).respond t ok) := by
  change execOwnerKeyEnrol t.fn s = _
  unfold execOwnerKeyEnrol
  rw [run_command_of_asks h rfl (by decide) (by decide) rfl ?checks rfl]
  case checks =>
    rw [List.forall_mem_cons, List.forall_mem_cons, List.forall_mem_singleton, hwhole, ksSlot, hfree]
    rcases hauth with ⟨hnone, hzeros⟩ | ⟨hsome, hsigned⟩
    · simpa [hnone] using hzeros
    · simp [hsome, hsigned]
  rfl

theorem exec_ownerKeyRevoke {s : State} {t : Taken} {p : Nat}
    (h : s.asks t p { op := 0x0711, who := .pf, plen := 100, masks := 15 :: List.replicate 24 m32 } = true)
    (hwhole : s.boot.secDamaged = false) (hsigned : s.authOk t 1 9 = true) :
    exec (.ownerKeyRevoke t.fn) s = .next ((s.setKey (t.w 8 % 4) none).respond t ok) := by
  change execOwnerKeyRevoke t.fn s = _
  unfold execOwnerKeyRevoke
  rw [run_command_of_asks h rfl (by decide) (by decide) rfl (by simp [hwhole, hsigned]) rfl]
  rfl

/-! ### Firmware banks (R599, R601) -/

/-- What the tables say of FW_STAGE. -/
abbrev fwStageCmd : Cmd := { op := 0x0720, who := .pf, plen := 12, masks := [m32, 0xFFFF, m32] }

/-- An FW_STAGE of nothing, or of an image that is read, waits at no tile. -/
theorem stageHeld_false {s : State} {t : Taken} {p : Nat} {c : Cmd} (h : s.asks t p c = true)
    (hread : t.w 10 = 0 ∨ ∃ r, s.load (cmdAgent t (s.partOf t)) (t.addr 8) (t.w 10) = .ok r) : s.stageHeld = false := by
  obtain ⟨_, hhead, _⟩ := asks_cases h
  obtain ⟨us, htaken⟩ := List.head?_eq_some_iff.1 hhead
  rcases hread with hnone | ⟨r, hload⟩
  · simp [State.stageHeld, htaken, hnone]
  · simp [State.stageHeld, htaken, hload]

/-- What has been read was open to its reader. -/
theorem State.allowed_of_load {s : State} {a : Agent} {da n : Nat} {r : State × List Byte} (h : s.load a da n = .ok r) :
    s.allowed a da n false = true := by
  unfold State.load at h
  unfold State.allowed
  cases hp : s.places a da n false with
  | none => simp [hp] at h
  | some ps => rfl

/-- A meaning behind a guard that holds. -/
theorem State.run_when {s : State} {guard : State → Bool} (h : guard s = true) (f : State → State) :
    s.run (fun s => s.when (guard s) f) = s.run f := by
  simp [State.run, h]

/-- FW_STAGE of an image that is read: its writing into the bank not selected begins. -/
theorem exec_fwStage_image {s s1 : State} {t : Taken} {p : Nat} {image : List Byte} (h : s.asks t p fwStageCmd = true)
    (hp : s.actsOn t = some p) (hsome : 1 ≤ t.w 10) (hfits : t.w 10 ≤ bankSize)
    (hload : s.load (cmdAgent t p) (t.addr 8) (t.w 10) = .ok (s1, image)) :
    exec (.fwStage t.fn) s = .next ((s1.addAct t (.stage (!s1.flash.selected) image)).respond t ok) := by
  have hne : t.w 10 ≠ 0 := Nat.one_le_iff_ne_zero.1 hsome
  have hpart : s.partOf t = p := by rw [State.partOf, hp, Option.getD_some]
  have hheld : s.stageHeld = false := stageHeld_false h (.inr ⟨_, by rw [hpart]; exact hload⟩)
  change execFwStage t.fn s = _
  unfold execFwStage
  rw [State.run_when (guard := fun s => !s.stageHeld) (by rw [hheld]; rfl),
    run_command_of_asks h rfl (by decide) (by decide) rfl ?checks ?now] <;> simp only [hp, Option.getD_some, if_neg hne, hload]
  case checks => simp [hfits, State.allowed_of_load hload]
  case now => rfl

/-- FW_STAGE of length 0 ends at once. -/
theorem exec_fwStage_none {s : State} {t : Taken} {p : Nat} (h : s.asks t p fwStageCmd = true) (hnone : t.w 10 = 0) :
    exec (.fwStage t.fn) s = .next ((s.deferredEvent { fn := some t.fn, opcode := t.opcode, seq := t.seq, kind := .stage false [] } stOk
      0).respond t ok) := by
  change execFwStage t.fn s = _
  unfold execFwStage
  rw [State.run_when (guard := fun s => !s.stageHeld) (by rw [stageHeld_false h (.inl hnone)]; rfl),
    run_command_of_asks h rfl (by decide) (by decide) rfl (by simp [hnone]) (by rw [if_pos hnone]; rfl)]
  simp only [if_pos hnone]

/-- Selecting a bank writes the boot descriptor alone. -/
theorem Flash.select_banks (f : Flash) (b : Bool) :
    (f.select b).bank0 = f.bank0 ∧ (f.select b).bank1 = f.bank1 ∧ (f.select b).keys = f.keys := by
  unfold Flash.select
  dsimp only
  split <;> exact ⟨rfl, rfl, rfl⟩

/-- The bank that has been selected is selected: the copy written takes the next generation. -/
theorem Flash.selected_select (f : Flash) (b : Bool) : (f.select b).selected = b := by
  unfold Flash.select Flash.selected Flash.desc
  cases f.desc0 with
  | none => cases f.desc1 <;> simp
  | some a =>
    cases f.desc1 with
    | none => simp
    | some c =>
      by_cases hnew : a.1 < c.1
      · have hne : a ≠ c := fun heq => Nat.ne_of_lt hnew (congrArg Prod.fst heq)
        simp [hnew, hne]
      · simp [hnew]

theorem exec_fwSelect {s : State} {t : Taken} {p : Nat} (h : s.asks t p { op := 0x0721, who := .pf, plen := 4, masks := [1] } = true) :
    exec (.fwSelect t.fn) s = .next (({ s with flash := s.flash.select (t.w 8 == 1) } : State).respond t ok) := by
  change execFwSelect t.fn s = _
  unfold execFwSelect
  rw [run_command_of_asks h rfl (by decide) (by decide) rfl (List.forall_mem_nil _) rfl]

/-- Settles O11: each command by its own equation; the image that FW_STAGE reads is there (`State.load_of_canRead`), and FW_SELECT writes the
boot descriptor alone (`Flash.select_banks`, `Flash.selected_select`). -/
theorem securityCommandsExecute : Obligations.SecurityCommandsExecute := by
  unfold Obligations.SecurityCommandsExecute
  intro s t p
  refine ⟨exec_attest, exec_certRead, exec_ownerKeyEnrol, exec_ownerKeyRevoke, fun h hp hsome hfits hcan => ?stage, exec_fwStage_none,
    fun h => ?select⟩
  case stage =>
    obtain ⟨⟨s1, image⟩, hload⟩ := State.load_of_canRead hcan
    exact ⟨s1, image, hload, exec_fwStage_image h hp hsome hfits hload⟩
  case select =>
    obtain ⟨hbank0, hbank1, hkeys⟩ := s.flash.select_banks (t.w 8 == 1)
    exact ⟨_, exec_fwSelect h, hbank0, hbank1, hkeys, s.flash.selected_select _⟩

end Sys2Proof.Machine
end

section
/-! Debug unlock, fault injection, trace and lock commands (R375, R376). -/

namespace Sys2Proof.Machine

/-! ### Unlock and lock (R375) -/

theorem exec_debugChallenge {s : State} {t : Taken} {p : Nat} (h : s.asks t p { op := 0x0900, who := .pf, plen := 0 } = true) :
    ∃ n : List Byte, n.length = 32 ∧ exec (.debugChallenge t.fn) s = .next
      (({ s with draws := s.draws + 1, sec := { s.sec with nonce := some n } } : State).respond t (okWords (bytesWords 8 n))) := by
  refine ⟨freeBytes 32 s.draw.1, freeBytes_length 32 _, ?_⟩
  change execDebugChallenge t.fn s = _
  unfold execDebugChallenge
  rw [run_command_of_asks h rfl (by decide) (by decide) rfl (List.forall_mem_nil _) rfl,
    ← wordsOf_eq (n := 8) (freeBytes_length 32 s.draw.1)]
  rfl

/-! An answer and a change of what debug holds: neither sees the other. -/

/-- A change of what debug holds. -/
def State.modSec (s : State) (f : Sec → Sec) : State := { s with sec := f s.sec }

@[simp] theorem State.modSec_fields (s : State) (f : Sec → Sec) :
    (s.modSec f).time = s.time ∧ (s.modSec f).boot = s.boot ∧ (s.modSec f).func = s.func ∧ (s.modSec f).part = s.part :=
  ⟨rfl, rfl, rfl, rfl⟩

theorem State.interval_modSec (s : State) (f : Sec → Sec) (part kind qual len : Nat) :
    (s.modSec f).interval part kind qual len = (s.interval part kind qual len).modSec f := by
  unfold State.interval
  simp only [State.modSec_fields]
  split <;> rfl

theorem State.answer_modSec (s : State) (f : Sec → Sec) (fn op : Nat) (seq : BitVec 16) (ttake : Nat) (noirq : Bool) (a : Ans) :
    (s.modSec f).answer fn op seq ttake noirq a = (s.answer fn op seq ttake noirq a).modSec f := by
  cases noirq <;> rfl

theorem State.conclude_modSec (s : State) (f : Sec → Sec) (t : Taken) (a : Ans) :
    (s.modSec f).conclude t a = (s.conclude t a).modSec f := by
  unfold State.conclude
  simp only [State.modSec_fields]
  cases (s.func t.fn).bound with
  | none =>
    split
    · rfl
    · exact State.answer_modSec ..
  | some p =>
    simp only [State.interval_modSec]
    split
    · rfl
    · exact State.answer_modSec ..

theorem State.respond_modSec (s : State) (f : Sec → Sec) (t : Taken) (a : Ans) :
    (s.modSec f).respond t a = (s.respond t a).modSec f :=
  State.conclude_modSec { s with taken := s.taken.drop 1 } f t a

theorem opcode_of_asks {s : State} {t : Taken} {p : Nat} {c : Cmd} (h : s.asks t p c = true) (hop : c.op < 65536) :
    t.opcode = c.op := by
  obtain ⟨_, _, hraw, _⟩ := asks_cases h
  rw [Taken.opcode, hraw, Nat.mod_eq_of_lt hop]

/-- A request that only the PF may make is the PF's. -/
theorem fn_of_asks {s : State} {t : Taken} {p : Nat} {c : Cmd} (h : s.asks t p c = true) (hwho : c.who = .pf) : t.fn = 0 := by
  obtain ⟨_, _, _, _, _, _, _, _, _, _, _, _, hpermits⟩ := asks_cases h
  simp only [State.permits, hwho, Bool.and_eq_true, beq_iff_eq] at hpermits
  exact hpermits.2

/-- A request for DEBUG_UNLOCK that stands to be executed has its signature verified. -/
theorem unlockTried_of_asks {s : State} {t : Taken} {p : Nat} (h : s.asks t p unlockCmd = true) : s.unlockTried t.fn = true := by
  obtain ⟨_, hhead, _⟩ := asks_cases h
  obtain ⟨us, htaken⟩ := List.head?_eq_some_iff.1 hhead
  have hop : t.opcode = 0x0901 := opcode_of_asks h (by decide)
  have hstands : firstChk (s.sharedChks unlockCmd t) = (stOk, 0x3FF) := firstChk_none (sharedChks_none h (by decide) (by decide))
  simp [State.unlockTried, htaken, hop, fn_of_asks h rfl, hstands, stOk, stBadOpcode]

theorem unlockOk_of_verify {s : State} {t : Taken} {key n : List Byte} (hkey : s.ownerKey (t.w 8) = some key) (hn : s.sec.nonce = some n)
    (hsig : ecdsaVerify key (wordsBytes (t.ws 9 24)) (n ++ leBytes 8 s.fuses.serial.toNat) = true) : s.unlockOk t = true := by
  simp only [State.unlockOk, hkey, hn]
  exact hsig

/-- DEBUG_UNLOCK with a signature that verifies unlocks, and uses the nonce up. -/
theorem exec_debugUnlock {s : State} {t : Taken} {p : Nat} (h : s.asks t p unlockCmd = true) (hok : s.unlockOk t = true) :
    exec (.debugUnlock t.fn) s = .next (({ s with sec := { unlocked := true, nonce := none } } : State).respond t ok) := by
  obtain ⟨hlive, _⟩ := asks_cases h
  change execDebugUnlock t.fn s = _
  unfold execDebugUnlock
  rw [State.run_live hlive]
  dsimp only
  rw [unlockTried_of_asks h, State.when_true, command_of_asks h rfl (by decide) (by decide) rfl (by simp [hok]) rfl]
  exact congrArg Host.Outcome.next
    (State.respond_modSec { s with sec := { s.sec with unlocked := true } } (fun sec => { sec with nonce := none }) t ok).symm

theorem exec_traceConfig {s : State} {t : Taken} {p : Nat}
    (h : s.asks t p { op := 0x0903, who := .pfDebug, plen := 8, masks := [1, m32] } = true) (hstrap : s.boot.straps.tracesel = true) :
    exec (.traceConfig t.fn) s = .next
      (({ s with tele := { s.tele with trace := t.w 8 == 1, traceFilter := BitVec.ofNat 32 (t.w 9) } } : State).respond t ok) := by
  change execTraceConfig t.fn s = _
  unfold execTraceConfig
  rw [run_command_of_asks h rfl (by decide) (by decide) rfl (by simp [hstrap]) rfl]

theorem exec_debugLock {s : State} {t : Taken} {p : Nat} (h : s.asks t p { op := 0x0904, who := .pf, plen := 0 } = true) :
    exec (.debugLock t.fn) s = .next
      (({ s with sec := { s.sec with unlocked := false }, tele := { s.tele with tstOn := false } } : State).respond t ok) := by
  change execDebugLock t.fn s = _
  unfold execDebugLock
  rw [run_command_of_asks h rfl (by decide) (by decide) rfl (List.forall_mem_nil _) rfl]

/-! ### Fault injection (R376) -/

/-- The fault of a kind, in a resource and at a location. -/
def State.withFault (s : State) (fkind kind index loc : Nat) : State :=
  match fkind with
  | 0 => s.corrected kind index 1
  | 1 => s.uncorrectable kind index loc true
  | 2 => s.tileFault index (.checker 5 true [])
  | 3 => s.modLink (index % 32) (fun l => { l with corrupt := true })
  | 4 => { ({ s with taken := s.taken.drop 1 }).pairFails (index != s.activeIdx) 7 with taken := s.taken }
  | 5 => s.uncorrectable 1 index loc true
  | _ => s

/-- FAULT_INJECT of a fault that the resource can have. -/
theorem exec_faultInject {s : State} {t : Taken} {p fkind : Nat}
    (h : s.asks t p { op := 0x0902, who := .pfDebug, plen := 16, masks := [0xFFF, 15, m32, 0xFFFF] } = true)
    (hres : resourceOk (resKind (t.w 8)) (resIndex (t.w 8)) = true) (hfault : t.w 9 = fkind)
    (hinjects : resKind (t.w 8) ∈ injects fkind) :
    exec (.faultInject t.fn) s = .next ((s.withFault fkind (resKind (t.w 8)) (resIndex (t.w 8)) (t.addr 10)).respond t ok) := by
  change execFaultInject t.fn s = _
  unfold execFaultInject
  rw [run_command_of_asks h rfl (by decide) (by decide) rfl ?checks rfl]
  case checks => simp [hres, hfault, hinjects]
  rw [hfault]
  rfl

theorem State.tileFault_replays {s : State} {ph : Nat} (hclocks : (s.tile ph).stopped = false) (hrun : (s.tile ph).running = true) :
    s.tileFault ph (.checker 5 true []) = s.replayTile ph 5 true [] 0 id := by
  simp [State.tileFault, hclocks, hrun]

theorem State.tileFault_idle {s : State} {ph : Nat} (hclocks : (s.tile ph).stopped = false) (hidle : (s.tile ph).running = false) :
    s.tileFault ph (.checker 5 true []) = s := by
  simp [State.tileFault, hclocks, hidle]

theorem State.tileFault_held {s : State} {ph : Nat} (hstopped : (s.tile ph).stopped = true) (f : HeldFault) :
    s.tileFault ph f = s.setTile ph { s.tile ph with held := (s.tile ph).held ++ [f] } := by
  simp [State.tileFault, hstopped]

/-- Settles O12: each command by its own equation; the fault that FAULT_INJECT names is one that its resource can have
(`exec_faultInject`). -/
theorem debugCommandsExecute : Obligations.DebugCommandsExecute := by
  unfold Obligations.DebugCommandsExecute
  intro s t p
  refine ⟨exec_debugChallenge, fun key n h hkey hn hsig => exec_debugUnlock h (unlockOk_of_verify hkey hn hsig), fun h hres => ?inject,
    exec_traceConfig, exec_debugLock⟩
  case inject =>
    refine ⟨fun hfault hkind => ?corrected, fun hfault hkind => ?link, fun hfault hkind => ?uncorrectable, fun hfault hkind => ?tile,
      fun hfault hkind => ?pair, fun hfault hkind => ?stack⟩
    case corrected => exact exec_faultInject h hres hfault (by simpa [injects, resKind] using hkind)
    case link => exact exec_faultInject h hres hfault (by simpa [injects, resKind] using hkind)
    case uncorrectable => exact exec_faultInject h hres hfault (by simpa [injects, resKind] using hkind)
    case tile =>
      have hexec : exec (.faultInject t.fn) s = .next ((s.tileFault (t.w 8 % 256) (.checker 5 true [])).respond t ok) :=
        exec_faultInject h hres hfault (by simpa [injects, resKind] using hkind)
      rw [hexec]
      refine ⟨fun hclocks hrun => ?_, fun hclocks hidle => ?_, fun hstopped => ?_⟩
      · rw [State.tileFault_replays hclocks hrun]
      · rw [State.tileFault_idle hclocks hidle]
      · rw [State.tileFault_held hstopped]
    case pair => exact exec_faultInject h hres hfault (by simpa [injects, resKind] using hkind)
    case stack => exact exec_faultInject h hres hfault (by simpa [injects, resKind] using hkind)

end Sys2Proof.Machine
end

section
/-! The handshake of a mailbox (R338, R340, R341, R344, R350), and the ends of deferred activities (R354, R421, R599). -/

namespace Sys2Proof.Machine

/-! ### Doorbells (R338, R341) -/

theorem State.ringMbx_accepted {s : State} {fn v : Nat} (hgo : v.testBit 16 = true) (hcancel : v.testBit 17 = false)
    (hidle : (s.func fn).mbx.busy = false) (hready : (s.func fn).mbx.ready = true) :
    s.ringMbx fn v = ({ s with gos := s.gos ++ [fn] } : State).modFunc fn (fun f => { f with
      mbx := { f.mbx with busy := true, taken := false, done := false, seq := BitVec.ofNat 16 v } }) := by
  have hall : (v.testBit 16 && !v.testBit 17 && !(s.func fn).mbx.busy && (s.func fn).mbx.ready) = true := by
    rw [hgo, hcancel, hidle, hready]; rfl
  unfold State.ringMbx
  dsimp only
  rw [if_pos hall]
  rfl

theorem State.ringMbx_overrun {s : State} {fn v : Nat} (hgo : v.testBit 16 = true)
    (hrefused : v.testBit 17 = true ∨ (s.func fn).mbx.busy = true ∨ (s.func fn).mbx.ready = false) :
    s.ringMbx fn v = s.modFunc fn (fun f => { f with mbx := { f.mbx with overrun := true } }) := by
  have hnot : (v.testBit 16 && !v.testBit 17 && !(s.func fn).mbx.busy && (s.func fn).mbx.ready) = false := by
    rcases hrefused with hcancel | hbusy | hready
    · simp [hcancel]
    · simp [hbusy]
    · simp [hready]
  unfold State.ringMbx
  dsimp only
  rw [if_neg (by rw [hnot]; exact Bool.false_ne_true), if_pos hgo]
  rfl

theorem State.ringMbx_cancelled {s : State} {fn v : Nat} (hcancel : v.testBit 17 = true) (hgo : v.testBit 16 = false)
    (hbusy : (s.func fn).mbx.busy = true) (hwaits : (s.func fn).mbx.taken = false) :
    s.ringMbx fn v =
      ({ s with gos := s.gos.filter (· != fn) } : State).answer fn 0 (s.func fn).mbx.seq 0 false { st := stAborted } := by
  simp [State.ringMbx, hcancel, hgo, hbusy, hwaits]

/-- A doorbell with GO of a function that answers accesses reaches its mailbox, after the stores before it. -/
theorem exec_mbxGo {s : State} {fn : Nat} {v : BitVec 32} (hreach : (s.func fn).reach = true) (hgo : v.toNat.testBit 16 = true)
    (stores : List Host.Cell) : exec (.mbxGo fn v stores) s = .next ((s.hostStores stores).barWrite.ringMbx fn v.toNat) := by
  have hbit : v.getLsbD 16 = true := hgo
  change execMbxGo fn v stores s = _
  rw [execMbxGo, hreach, hbit, Bool.and_self, State.when_true]

theorem exec_mbxCancel {s : State} {fn : Nat} {v : BitVec 32} (hreach : (s.func fn).reach = true) (hcancel : v.toNat.testBit 17 = true) :
    exec (.mbxCancel fn v) s = .next (s.barWrite.ringMbx fn v.toNat) := by
  have hbit : v.getLsbD 17 = true := hcancel
  change execMbxCancel fn v s = _
  rw [execMbxCancel, hreach, hbit, Bool.and_self, State.when_true]

theorem exec_mbxDoneClear {s : State} {fn : Nat} (hreach : (s.func fn).reach = true) (v : BitVec 32) :
    exec (.mbxDoneClear fn v) s = .next (s.barWrite.clearMbx fn v.toNat) := by
  change execMbxDoneClear fn v s = _
  rw [execMbxDoneClear, hreach, State.when_true]

/-! ### The take (R340, R344, R350) -/

/-- The request that a function's page holds now. -/
def State.mbxRequest (s : State) (fn : Nat) : Taken :=
  { fn := fn, seq := (s.func fn).mbx.seq, words := (List.range 1024).map (fun i => (s.func fn).mbx.req.word 0 i), time := s.time }

/-- The request in turn leaves those that wait, and its mailbox shows it taken. -/
def State.takeTurn (s : State) (fn : Nat) (rest : List Nat) : State :=
  ({ s with gos := rest } : State).modFunc fn (fun f => { f with mbx := { f.mbx with taken := true } })

/-- The request in turn is taken where a table lists its opcode, and refused where none does. -/
theorem exec_mbxTake {s : State} {fn : Nat} {rest : List Nat} (hlive : s.live = true) (hturn : s.gos = fn :: rest) :
    exec (.mbxTake fn) s = .next (
      let t := s.mbxRequest fn
      let u := s.takeTurn fn rest
      if knownOpcode t.opcode then { u with taken := u.taken ++ [t] }
      else u.answer fn t.opcode t.seq t.time t.noirq { st := stBadOpcode, err := 0 }) := by
  change execMbxTake fn s = _
  unfold execMbxTake
  rw [State.run_live hlive, hturn]
  dsimp only
  rw [if_neg (not_not_intro rfl)]
  rfl

/-! ### Deferred activities (R354, R421, R599) -/

/-- A link action that is over lets go of its lock, where it holds it, and writes its end event. -/
theorem exec_deferredActivityEnd_link {s : State} {i n action lane : Nat} {a : Act} {st : Word16} (hlive : s.live = true)
    (hact : s.acts[i]? = some a) (hkind : a.kind = .link n action lane) (hend : linkActionEnd (s.link n) action lane = some st) :
    exec (.deferredActivityEnd i) s = .next (
      let gone : State := { s with acts := s.acts.eraseIdx i }
      (if (gone.lock (linkRes n)).holder = some a then gone.endMaint (linkRes n) st 0 else gone).deferredEvent a st
        (s.link n).report) := by
  change execDeferredActivityEnd i s = _
  unfold execDeferredActivityEnd
  rw [State.run_live hlive, hact]
  simp only [hkind, hend]

theorem exec_deferredActivityEnd_stage {s : State} {i : Nat} {a : Act} {bank : Bool} {image : List Byte} (hlive : s.live = true)
    (hact : s.acts[i]? = some a) (hkind : a.kind = .stage bank image) :
    exec (.deferredActivityEnd i) s = .next (({ s with
      acts := s.acts.eraseIdx i
      flash := if bank then { s.flash with bank1 := Mem.setBytes [] 0 image }
        else { s.flash with bank0 := Mem.setBytes [] 0 image } } : State).deferredEvent a stOk 0) := by
  change execDeferredActivityEnd i s = _
  unfold execDeferredActivityEnd
  rw [State.run_live hlive, hact]
  simp only [hkind]

/-- Settles O14: a doorbell value is accepted, ignored with OVERRUN or a cancellation (`State.ringMbx_accepted`, `State.ringMbx_overrun`,
`State.ringMbx_cancelled`); the take and the ends of deferred activities each by its own equation. -/
theorem mailboxHandshakeAndDeferredEnds : Obligations.MailboxHandshakeAndDeferredEnds := by
  unfold Obligations.MailboxHandshakeAndDeferredEnds
  constructor
  · intro s fn v hpresent hmse w
    have hreach : (s.func fn).reach = true := Bool.and_eq_true_iff.2 ⟨hpresent, hmse⟩
    refine ⟨fun stores hgo => ⟨fun hcancel hidle hready => ?accepted, fun hrefused => ?overrun⟩,
      fun hcancel hgo hbusy hwaits => ?cancelled, fun rest t hlive hturn ht => ?take, exec_mbxDoneClear hreach v⟩
    case accepted =>
      rw [exec_mbxGo hreach hgo, State.ringMbx_accepted (s := (s.hostStores stores).barWrite) hgo hcancel hidle hready]
      rfl
    case overrun =>
      rw [exec_mbxGo hreach hgo, State.ringMbx_overrun (s := (s.hostStores stores).barWrite) hgo hrefused]
      rfl
    case cancelled =>
      rw [exec_mbxCancel hreach hcancel, State.ringMbx_cancelled (s := s.barWrite) hcancel hgo hbusy hwaits]
      rfl
    case take =>
      obtain rfl : t = s.mbxRequest fn := ht
      rw [exec_mbxTake hlive hturn]
      refine ⟨fun hknown => ?_, fun hunknown => ?_⟩
      · rw [if_pos hknown]; rfl
      · rw [if_neg (by rw [hunknown]; exact Bool.false_ne_true)]; rfl
  · exact fun s i a hlive hact => ⟨fun n action lane st hkind hend => exec_deferredActivityEnd_link hlive hact hkind hend,
      fun bank image hkind => exec_deferredActivityEnd_stage hlive hact hkind⟩

end Sys2Proof.Machine
end

section
/-! Bus errors at the reads of the Queue Manager and of launch validation, and their reissues (R390, R613). -/

namespace Sys2Proof.Machine

theorem Queue.ne_default_of_fetchErr {c : Queue} (h : c.fetchErr = true) : c ≠ {} := by
  rintro rfl
  exact Bool.false_ne_true h

theorem Queue.ne_default_of_fetched {c : Queue} (h : c.fetched ≠ []) : c ≠ {} := by
  rintro rfl
  exact h rfl

/-- A bus error at the fetch whose turn it is is remembered by its queue. -/
theorem exec_busError_fetch {s : State} {q : Nat} (hlive : s.live = true) (hturn : s.turnOf q = true) :
    exec (.busError (.fetch q)) s = .next (s.modQueue q (fun c => { c with fetchErr := true })) := by
  change execBusError (.fetch q) s = _
  rw [execBusError, State.run_live hlive]
  simp only [hturn, State.when_true]

theorem State.queue_setQueue_self {s : State} {q : Nat} {c : Queue} (h : c ≠ {}) : (s.setQueue q c).queue q = c := by
  rw [State.queue_setQueue_ne s h, if_pos rfl]

/-- The queue has counted one reissue more. -/
def State.refetched (s : State) (q : Nat) : State := s.setQueue q { s.queue q with retries := (s.queue q).retries + 1 }

theorem State.queue_refetched {s : State} {q : Nat} (herr : (s.queue q).fetchErr = true) :
    (s.refetched q).queue q = { s.queue q with retries := (s.queue q).retries + 1 } :=
  State.queue_setQueue_self (Queue.ne_default_of_fetchErr herr)

/-- A reissued fetch counts; it reads the entry, waits for the next reissue, or as the third halts the queue. -/
theorem exec_readReissue_fetch {s : State} {q : Nat} (hlive : s.live = true) (herr : (s.queue q).fetchErr = true) (ok : Bool) :
    exec (.readReissue (.fetch q) ok) s = .next (
      if ok then (s.refetched q).fetchEntry q
      else if 3 ≤ (s.queue q).retries + 1 then (s.refetched q).fetchFails q stBusError
      else s.refetched q) := by
  change execReadReissue (.fetch q) ok s = _
  rw [execReadReissue, State.run_live hlive]
  simp only [herr, State.when_true, State.refetched]

/-- A reissue that meets no bus error fetches the entry: it joins the queue's fetched packets, and the index moves on. -/
theorem exec_readReissue_fetched {s s1 : State} {q : Nat} {bs : List Byte} (hlive : s.live = true) (herr : (s.queue q).fetchErr = true)
    (hload : (s.refetched q).load ((s.refetched q).ringAgent ((s.refetched q).queue q))
      (((s.refetched q).queue q).entry ((s.refetched q).queue q).devIdx) 64 = .ok (s1, bs)) :
    ∃ u : State, exec (.readReissue (.fetch q) true) s = .next u
      ∧ (u.queue q).fetched = (s.queue q).fetched ++ [((s.queue q).pktseq, bytesWords 16 bs, (s.queue q).bells.headD s.time)]
      ∧ (u.queue q).fetchErr = false ∧ (u.queue q).devIdx = (s.queue q).next (s.queue q).devIdx := by
  refine ⟨_, (exec_readReissue_fetch hlive herr true).trans (by rw [if_pos rfl, State.fetchEntry_ok hload]), ?_⟩
  rw [State.queue_setQueue_self (Queue.ne_default_of_fetched (by simp)), State.queue_refetched herr]
  exact ⟨rfl, rfl, rfl⟩

/-- The reissue of a launch's header read that meets a bus error again: the third ends the packet, an earlier one is counted. -/
theorem exec_readReissue_launch {s : State} {q n : Nat} {seq : BitVec 32} {p : Packet} (hlive : s.live = true)
    (hp : s.packet? q seq = some p) (hwork : p.work = .reread n) :
    exec (.readReissue (.launch q seq) false) s = .next (
      if 3 ≤ n + 1 then s.finish q seq stBusError 0 else s.modPacket q seq (fun p => { p with work := .reread (n + 1) })) := by
  change execReadReissue (.launch q seq) false s = _
  rw [execReadReissue, State.run_live hlive]
  simp only [hp, hwork, Bool.false_eq_true, if_false]

/-- Settles O36: a reissue counts one more (`State.refetched`), and the count decides between the next reissue and the end, for a fetch
(`exec_readReissue_fetch`) and for a launch's read (`exec_readReissue_launch`) alike. -/
theorem readsAreReissued : Obligations.ReadsAreReissued := by
  unfold Obligations.ReadsAreReissued
  intro s q hlive
  refine ⟨exec_busError_fetch hlive, fun herr hlast => ?last, fun herr hagain => ?again,
    fun s1 bs herr hload => exec_readReissue_fetched hlive herr hload, fun p n seq hp hwork => ⟨fun hlast => ?ends, fun hagain => ?counts⟩⟩
  case last =>
    rw [exec_readReissue_fetch hlive herr, if_neg Bool.false_ne_true, if_pos (Nat.succ_le_succ hlast)]
    rfl
  case again =>
    rw [exec_readReissue_fetch hlive herr, if_neg Bool.false_ne_true, if_neg (by omega)]
    rfl
  case ends => rw [exec_readReissue_launch hlive hp hwork, if_pos (Nat.succ_le_succ hlast)]
  case counts => rw [exec_readReissue_launch hlive hp hwork, if_neg (by omega)]

end Sys2Proof.Machine
end

section
/-! Reads through a device address: how many bytes they bring, and what they change (R273, R275, R568). -/

namespace Sys2Proof.Machine

/-- Pieces within 64 KiB blocks make up the range, as long as there is one for every block it touches. -/
theorem cut64k_length {fuel da n : Nat} (h : n = 0 ∨ n + da % 65536 ≤ fuel * 65536) : ((cut64k fuel da n).map (·.2)).sum = n := by
  induction fuel generalizing da n with
  | zero =>
    have hn : n = 0 := by omega
    rw [hn, cut64k]
    rfl
  | succ fuel ih =>
    by_cases hn : n = 0
    · rw [cut64k, if_pos hn, hn]
      rfl
    · have hmin : Nat.min n (65536 - da % 65536) = min n (65536 - da % 65536) := rfl
      rw [cut64k, if_neg hn]
      dsimp only
      rw [List.map_cons, List.sum_cons, ih (by omega)]
      omega

theorem pieces_length (da n : Nat) : ((pieces da n).map (·.2)).sum = n := cut64k_length (by omega)

theorem State.places_lengths {s : State} {a : Agent} {write : Bool} {l : List (Nat × Nat)} {ps : List (Place × Nat)}
    (h : l.mapM (fun p => (s.place a p.1 p.2 write).map (·, p.2)) = some ps) : ps.map (·.2) = l.map (·.2) := by
  induction l generalizing ps with
  | nil =>
    obtain rfl : [] = ps := Option.some.inj h
    rfl
  | cons x l ih =>
    simp only [List.mapM_cons, Option.bind_eq_bind, Option.bind_eq_some_iff, Option.map_eq_some_iff, Option.pure_def] at h
    obtain ⟨_, ⟨pl, -, rfl⟩, qs, hqs, hps⟩ := h
    rw [← Option.some.inj hps, List.map_cons, List.map_cons, ih hqs]

theorem State.fetch_length (s : State) (p : Place) (n : Nat) : (s.fetch p n).2.length = n := by
  cases p with
  | hbm pa => simp [State.fetch, Mem.bytes]
  | host fn ad => simp [State.fetch, Mem.bytes]
  | tile sp ph off =>
    simp only [State.fetch]
    split
    · simp
    · split <;> simp [agentBytes]

theorem State.fetchAll_length (s : State) (ps : List (Place × Nat)) : (s.fetchAll ps).2.length = (ps.map (·.2)).sum := by
  induction ps generalizing s with
  | nil => rfl
  | cons p ps ih => rw [State.fetchAll, List.length_append, ih, State.fetch_length, List.map_cons, List.sum_cons]

/-- A read brings as many bytes as were asked for. -/
theorem State.load_length {s s1 : State} {a : Agent} {da n : Nat} {bs : List Byte} (h : s.load a da n = .ok (s1, bs)) : bs.length = n := by
  unfold State.load at h
  split at h
  · cases h
  · rename_i ps hps
    split at h
    · cases h
    · have hbs : (s.fetchAll ps).2 = bs := congrArg Prod.snd (Except.ok.inj h)
      rw [← hbs, State.fetchAll_length, State.places_lengths hps, pieces_length]

/-- What can be written now is written. -/
theorem State.store_of_canWrite {s : State} {a : Agent} {da : Nat} {bs : List Byte} (h : s.canWrite a da bs.length = true) :
    ∃ s1, s.store a da bs = .ok s1 := by
  unfold State.canWrite at h
  unfold State.store
  cases hp : s.places a da bs.length true with
  | none => simp [hp] at h
  | some ps =>
    have hbar : State.barOf s.writeBar ps = none := by simpa [hp] using h
    exact ⟨s.putAll ps bs, by simp only [hbar]⟩

theorem foldl_parts_draws_eq {α : Type} {f : State → α → State} (h : ∀ s a, ∃ ps d, f s a = { s with parts := ps, draws := d })
    (l : List α) (s : State) : ∃ ps d, l.foldl f s = { s with parts := ps, draws := d } := by
  induction l generalizing s with
  | nil => exact ⟨s.parts, s.draws, rfl⟩
  | cons x l ih =>
    obtain ⟨ps, d, hx⟩ := h s x
    obtain ⟨ps', d', hl⟩ := ih (f s x)
    exact ⟨ps', d', by rw [List.foldl_cons, hl, hx]⟩

/-- The histograms of a partition record the reads of HBM; nothing else changes but the model's own counter. -/
theorem State.hbmLatency_eq (s : State) (a : Agent) (da n : Nat) : ∃ ps d, s.hbmLatency a da n = { s with parts := ps, draws := d } := by
  unfold State.hbmLatency
  split
  · exact ⟨s.parts, s.draws, rfl⟩
  · refine foldl_parts_draws_eq (fun s p => ?_) _ s
    split
    · refine foldl_parts_draws_eq (fun s l => ?_) _ s
      obtain ⟨ps, h⟩ := s.draw.2.interval_eq a.part 0x05 (State.stackOf (64 * l) + 1) s.draw.1
      exact ⟨ps, s.draw.2.draws, h⟩
    · exact ⟨s.parts, s.draws, rfl⟩

end Sys2Proof.Machine
end

section
/-! The state of a channel that serves a packet, and the row of its descriptor in progress (R378, R380, R382). -/

namespace Sys2Proof.Machine

theorem Chan.ne_default_of_pkt {c : Chan} {p : ChanPkt} (h : c.pkt = some p) : c ≠ {} := by
  rintro rfl
  cases h

theorem State.chan_setChan_self {s : State} {k : Nat} {c : Chan} {p : ChanPkt} (h : c.pkt = some p) : (s.setChan k c).chan k = c := by
  rw [State.chan_setChan_ne s (Chan.ne_default_of_pkt h), if_pos rfl]

theorem State.chan_modChan_self {s : State} {k : Nat} {f : Chan → Chan} {p : ChanPkt} (h : (f (s.chan k)).pkt = some p) :
    (s.modChan k f).chan k = f (s.chan k) := State.chan_setChan_self h

/-- A change of the descriptor in its turn. -/
theorem State.chan_modRun_head {s : State} {k : Nat} {p : ChanPkt} {d : DescRun} {rest : List DescRun} (hpkt : (s.chan k).pkt = some p)
    (hruns : (s.chan k).runs = d :: rest) (f : DescRun → DescRun) :
    (s.modRun k 0 f).chan k = { s.chan k with runs := f d :: rest } := by
  rw [State.modRun, State.chan_modChan_self hpkt, hruns, List.modify_zero_cons]

/-- The same, and then a change of what the channel holds besides its packet. -/
theorem State.chan_modChan_modRun {s : State} {k : Nat} {p : ChanPkt} {d : DescRun} {rest : List DescRun} {g : Chan → Chan}
    (hpkt : (s.chan k).pkt = some p) (hruns : (s.chan k).runs = d :: rest) (f : DescRun → DescRun) (hg : ∀ c, (g c).pkt = c.pkt) :
    ((s.modRun k 0 f).modChan k g).chan k = g { s.chan k with runs := f d :: rest } := by
  have hrun := State.chan_modRun_head hpkt hruns f
  rw [State.chan_modChan_self (p := p) (by rw [hrun, hg]; exact hpkt), hrun]

theorem State.serve_serving {s : State} {k : Nat} {p : ChanPkt} (h : (s.chan k).pkt = some p) : s.serve k = s := by
  simp only [State.serve, h]

theorem State.landChan_zero (s : State) (k : Nat) : s.landChan k 0 = s := rfl

theorem State.beats_zero (s : State) (k : Nat) (write : Bool) : s.beats k write 0 = s := rfl

theorem exec_sluiceCopy {s : State} (hlive : s.live = true) (e c : Nat) (b : Beats) (land : Nat) :
    exec (.sluiceCopy e c b land) s = .next (s.sluiceRow e c 0 b land) := State.run_live hlive _

theorem exec_sluiceFill {s : State} (hlive : s.live = true) (e c : Nat) (b : Beats) (land : Nat) :
    exec (.sluiceFill e c b land) s = .next (s.sluiceRow e c 1 b land) := State.run_live hlive _

theorem exec_sluiceConfig {s : State} (hlive : s.live = true) (e c : Nat) :
    exec (.sluiceConfig e c) s = .next (s.sluiceRow e c 2 ⟨0, 0, 0⟩ 0) := State.run_live hlive _

/-- COPY and FILL, each in the row of its own OP. -/
theorem exec_sluice_copyOrFill {s : State} {op : Nat} (hlive : s.live = true) (hop : op = 0 ∨ op = 1) (e c : Nat) (b : Beats) (land : Nat) :
    (if op = 0 then exec (.sluiceCopy e c b land) s else exec (.sluiceFill e c b land) s) = .next (s.sluiceRow e c op b land) := by
  rcases hop with rfl | rfl
  · exact exec_sluiceCopy hlive e c b land
  · exact exec_sluiceFill hlive e c b land

/-- The three OPs, each in its own row. -/
theorem exec_sluice_anyOp {s : State} {op : Nat} (hlive : s.live = true) (hop : op ≤ 2) (e c : Nat) :
    (if op = 0 then exec (.sluiceCopy e c ⟨0, 0, 0⟩ 0) s else if op = 1 then exec (.sluiceFill e c ⟨0, 0, 0⟩ 0) s
      else exec (.sluiceConfig e c) s) = .next (s.sluiceRow e c op ⟨0, 0, 0⟩ 0) := by
  obtain rfl | rfl | rfl : op = 0 ∨ op = 1 ∨ op = 2 := by omega
  · exact exec_sluiceCopy hlive e c _ 0
  · exact exec_sluiceFill hlive e c _ 0
  · exact exec_sluiceConfig hlive e c

/-- A row that moves no beat fetches the descriptor alone. -/
theorem State.sluiceRow_fetches {s : State} {e c : Nat} {p : ChanPkt} (he : e < 32) (hc : c < 64)
    (hpkt : (s.chan (e * 64 + c)).pkt = some p) (op : Nat) : s.sluiceRow e c op ⟨0, 0, 0⟩ 0 = s.fetchDesc (e * 64 + c) op := by
  rw [State.sluiceRow, if_pos ⟨he, hc⟩]
  simp only [State.serve_serving hpkt, State.fetchAhead, State.beats, ite_self, State.landChan_zero]

/-- A descriptor in its turn that has been validated is not read again. -/
theorem State.fetchDesc_checked {s : State} {k : Nat} {p : ChanPkt} {d : DescRun} {rest : List DescRun} (hpkt : (s.chan k).pkt = some p)
    (hruns : (s.chan k).runs = d :: rest) (hread : d.unread = false) (hchecked : d.checked = true) (op : Nat) : s.fetchDesc k op = s := by
  simp only [State.fetchDesc, hpkt, hruns, hread, hchecked, Bool.false_and, Bool.not_true, Bool.false_eq_true, if_false, ite_self]

/-- The row of the OP of a validated descriptor moves its beats, reads before writes, and lands writes in flight. -/
theorem State.sluiceRow_moves {s : State} {e c : Nat} {p : ChanPkt} {d : DescRun} {rest : List DescRun} (he : e < 32) (hc : c < 64)
    (hpkt : (s.chan (e * 64 + c)).pkt = some p) (hruns : (s.chan (e * 64 + c)).runs = d :: rest) (hread : d.unread = false)
    (hchecked : d.checked = true) (reads writes land : Nat) :
    s.sluiceRow e c (dOp d.words) ⟨0, reads, writes⟩ land =
      ((s.beats (e * 64 + c) false reads).beats (e * 64 + c) true writes).landChan (e * 64 + c) land := by
  rw [State.sluiceRow, if_pos ⟨he, hc⟩]
  simp only [State.serve_serving hpkt, State.fetchDesc_checked hpkt hruns hread hchecked, State.fetchAhead, hruns, hread, beq_self_eq_true,
    Bool.not_false, Bool.and_self, if_true]

/-- A single beat in its turn, which its arbiter notes (R387). -/
theorem State.beats_single {s u : State} {k : Nat} {write : Bool} {p : ChanPkt} (hpkt : (s.chan k).pkt = some p)
    (hturn : s.beatTurn k write = true) (hbeat : s.beat k write = some u) :
    s.beats k write 1 = { u with granted := SMap.set 63 u.granted (State.grantKey k p.pclass write) (k % 64) } := by
  simp only [State.beats, hturn, if_true, hbeat, hpkt]

end Sys2Proof.Machine
end

section
/-! A descriptor that is read and comes to its turn (R382, R385, R386). -/

namespace Sys2Proof.Machine

/-- A descriptor at its turn, before its first beat. -/
def DescRun.started (ws : List Nat) : DescRun := { words := ws, checked := true }

/-- A channel without a descriptor in progress reads the next one, which comes to its turn in the row of its OP. -/
theorem State.fetchDesc_reads {s s1 : State} {k : Nat} {p : ChanPkt} {bs : List Byte} (hpkt : (s.chan k).pkt = some p)
    (hruns : (s.chan k).runs = []) (hstop : (s.chan k).stop = none)
    (hload : s.load (State.chanAgent p) (State.descAddr p) 64 = .ok (s1, bs)) :
    s.fetchDesc k (dOp (bytesWords 16 bs)) = (s1.hbmLatency (State.chanAgent p) (State.descAddr p) 64).startDesc k p
      { words := bytesWords 16 bs, unread := true } [] := by
  have hgoes : (s.chan k).stopped = false := by rw [Chan.stopped, hruns, hstop]; rfl
  simp only [State.fetchDesc, hpkt, hruns, hgoes, hload, beq_self_eq_true, Bool.true_or, if_true, Bool.false_eq_true, if_false,
    List.headD_nil]

/-- A descriptor that R385 refuses halts its channel with the status. -/
theorem State.startDesc_halts {s : State} {k : Nat} {p : ChanPkt} {ws : List Nat}
    (hst : s.descStatus (State.chanAgent p) ws ≠ stOk) :
    s.startDesc k p { words := ws, unread := true } [] = s.modChan k (fun x => { x with
      buf := [], runs := [{ DescRun.started ws with halt := some (s.descStatus (State.chanAgent p) ws, 0), tdone := s.time }] }) := by
  simp only [State.startDesc, bne_iff_ne.2 hst, if_true, DescRun.started]

/-- A CONFIG that R385 accepts takes effect and is done. -/
theorem State.startDesc_configures {s : State} {k : Nat} {p : ChanPkt} {ws : List Nat}
    (hst : s.descStatus (State.chanAgent p) ws = stOk) (hop : dOp ws = 2) :
    s.startDesc k p { words := ws, unread := true } [] = s.modChan k (fun x => { State.configure x ws with
      runs := [{ DescRun.started ws with finished := true, tdone := s.time }] }) := by
  simp only [State.startDesc, hst, bne_self_eq_false, Bool.false_eq_true, if_false, hop, if_true, DescRun.started]

/-- A COPY or FILL that R385 accepts may move its beats; one of length 0 is done. -/
theorem State.startDesc_begins {s : State} {k : Nat} {p : ChanPkt} {ws : List Nat}
    (hst : s.descStatus (State.chanAgent p) ws = stOk) (hop : dOp ws ≠ 2) :
    s.startDesc k p { words := ws, unread := true } [] = s.modChan k (fun x => { x with
      runs := [if dLen ws = 0 then { DescRun.started ws with finished := true, tdone := s.time } else DescRun.started ws] }) := by
  simp only [State.startDesc, hst, bne_self_eq_false, Bool.false_eq_true, if_false, if_neg hop, DescRun.started]
  split <;> rfl

/-- Reading a descriptor takes no time. -/
theorem State.time_descRead {s s1 : State} {a : Agent} {da n : Nat} {bs : List Byte} (hload : s.load a da n = .ok (s1, bs)) :
    (s1.hbmLatency a da n).time = s.time := by
  obtain ⟨_, _, h⟩ := s1.hbmLatency_eq a da n
  obtain ⟨_, _, rfl⟩ := State.load_eq hload
  rw [h]

end Sys2Proof.Machine
end

section
/-! Read beats of a COPY in its turn (R378, R387, R389). -/

namespace Sys2Proof.Machine

/-- Source address of the descriptor's next read beat. -/
def DescRun.src (d : DescRun) : Nat := (beatAt d.words d.rpos).1

/-- Bytes of the descriptor's next read beat. -/
def DescRun.srcLen (d : DescRun) : Nat := (beatAt d.words d.rpos).2.2

/-- A beat is at most a line. -/
theorem DescRun.srcLen_le (d : DescRun) : d.srcLen ≤ 64 := (Nat.min_le_left _ _).trans (Nat.sub_le 64 _)

theorem DescRun.reads_of_copy {d : DescRun} (hop : dOp d.words = 0) (hread : d.unread = false) (hleft : d.rpos < dTotal d.words) :
    d.reads = true := by
  simp only [DescRun.reads, hop, hread, decide_eq_true hleft, beq_self_eq_true, Bool.not_false, Bool.and_self]

theorem DescRun.findIdx?_reads_single {d : DescRun} (h : d.reads = true) : [d].findIdx? (·.reads) = some 0 := by
  rw [List.findIdx?_cons, if_pos h]

/-- The descriptor at the head of the channel's runs has been validated. -/
def State.headChecked (s : State) (k : Nat) : State := s.modRun k 0 (fun d => { d with checked := true })

theorem State.chan_headChecked {s : State} {k : Nat} {p : ChanPkt} {d : DescRun} {rest : List DescRun} (hpkt : (s.chan k).pkt = some p)
    (hruns : (s.chan k).runs = d :: rest) (hchecked : d.checked = true) : (s.headChecked k).chan k = s.chan k := by
  rw [State.headChecked, State.chan_modRun_head hpkt hruns, ← hchecked, ← hruns]

/-- The bytes of a read beat of run `d` join the staging buffer of the channel. -/
def State.beatRead (s : State) (k : Nat) (p : ChanPkt) (d : DescRun) (bs : List Byte) : State :=
  (((s.countBeat k p 1).hbmLatency (State.chanAgent p) d.src d.srcLen).modRun k 0
    (fun x => { x with rpos := x.rpos + d.srcLen, tries := 0 })).modChan k (fun c => { c with buf := c.buf ++ [bs] })

/-- A COPY alone on a moving channel with room in its buffer issues its next read beat. -/
theorem State.beat_read {s s1 : State} {k : Nat} {p : ChanPkt} {d : DescRun} {bs : List Byte} (hpkt : (s.chan k).pkt = some p)
    (hruns : (s.chan k).runs = [d]) (hchecked : d.checked = true) (hreads : d.reads = true) (hmoving : State.moving (s.chan k) = true)
    (hroom : (s.chan k).buf.length < 16) (hload : (s.headChecked k).load (State.chanAgent p) d.src d.srcLen = .ok (s1, bs)) :
    s.beat k false = some (s1.beatRead k p d bs) := by
  have hfree : (!State.moving (s.chan k) || decide (16 ≤ (s.chan k).buf.length)) = false := by
    rw [hmoving, decide_eq_false (Nat.not_le.2 hroom)]
    rfl
  have hread : (s.modRun k 0 (fun d => { d with checked := true })).load (State.chanAgent p) (beatAt d.words d.rpos).1
      (beatAt d.words d.rpos).2.2 = .ok (s1, bs) := hload
  change s.readBeat k = _
  simp only [State.readBeat, hpkt, hruns, DescRun.findIdx?_reads_single hreads, List.getElem?_cons_zero, hfree, hchecked, Bool.not_true,
    Bool.false_and, Bool.false_eq_true, if_false, hread]
  rfl

/-- What a read beat changes: the channel's position and buffer, besides the histograms and the counters. -/
theorem State.beatRead_fields {s : State} {k : Nat} {p : ChanPkt} {d : DescRun} (hpkt : (s.chan k).pkt = some p)
    (hruns : (s.chan k).runs = [d]) (bs : List Byte) :
    (s.beatRead k p d bs).chan k
        = { s.chan k with runs := [{ d with rpos := d.rpos + d.srcLen, tries := 0 }], buf := (s.chan k).buf ++ [bs] }
      ∧ (s.beatRead k p d bs).flights = s.flights ∧ (s.beatRead k p d bs).hbm = s.hbm := by
  obtain ⟨parts, draws, h⟩ := (s.countBeat k p 1).hbmLatency_eq (State.chanAgent p) d.src d.srcLen
  rw [State.beatRead, h]
  exact ⟨State.chan_modChan_modRun (s := { s.countBeat k p 1 with parts := parts, draws := draws }) hpkt hruns _ (fun _ => rfl), rfl, rfl⟩

end Sys2Proof.Machine
end

section
/-! Write beats of the descriptor in its turn, which leave as bytes in flight (R387, R389, R393). -/

namespace Sys2Proof.Machine

/-- Destination address of the descriptor's next write beat. -/
def DescRun.dst (d : DescRun) : Nat := (beatAt d.words d.pos).2.1

/-- Bytes of the descriptor's next write beat. -/
def DescRun.dstLen (d : DescRun) : Nat := (beatAt d.words d.pos).2.2

/-- What the next write beat writes: a FILL its pattern, a COPY the oldest beat of the staging buffer. -/
def DescRun.beatBytes (d : DescRun) (buf : List (List Byte)) : List Byte :=
  if dOp d.words == 1 then
    (List.range d.dstLen).map (fun i => (leBytes 8 (word64 d.words 12)).getD ((d.pos % dLen d.words + i) % 8) 0)
  else buf.headD []

/-- A write beat has left at a time: the last one makes the descriptor finished. -/
def DescRun.wrote (d : DescRun) (now : Nat) : DescRun :=
  { d with
    pos := d.pos + d.dstLen
    tries := if dOp d.words == 1 then 0 else d.tries
    finished := decide (dTotal d.words ≤ d.pos + d.dstLen)
    tdone := if decide (dTotal d.words ≤ d.pos + d.dstLen) then now else d.tdone }

/-- A write that nothing bars at its place leaves the engine as one write in flight there. -/
theorem State.beatOut_flight {s : State} {p : ChanPkt} {dst : Nat} {bs : List Byte} {pl : Place} (k : Nat) (hspace : daSpace dst ≠ 5)
    (hplace : s.place (State.chanAgent p) dst bs.length true = some pl) (hbar : s.writeBar pl bs.length = none) :
    ∃ f : Flight, s.beatOut k p dst bs = .ok { s with flights := s.flights ++ [f] }
      ∧ f.chan = k ∧ f.queue = p.queue ∧ f.seq = p.seq ∧ f.da = dst ∧ f.data = bs := by
  simp only [State.beatOut, if_neg hspace, hplace, hbar]
  exact ⟨_, rfl, by cases pl <;> exact ⟨rfl, rfl, rfl, rfl, rfl⟩⟩

/-- The write beat of the descriptor in its turn has left at a time, out of the staging buffer where it is a COPY's. -/
def State.beatWritten (s : State) (k : Nat) (p : ChanPkt) (d : DescRun) (now : Nat) : State :=
  ((s.countBeat k p 2).modRun k 0 (fun x => { x with
    pos := x.pos + d.dstLen
    tries := if dOp d.words == 1 then 0 else x.tries
    finished := decide (dTotal d.words ≤ d.pos + d.dstLen)
    tdone := if decide (dTotal d.words ≤ d.pos + d.dstLen) then now else x.tdone })).modChan k
      (fun c => if dOp d.words == 1 then c else { c with buf := c.buf.drop 1 })

/-- The next write beat of a descriptor that has bytes to write: a FILL, or a COPY that has read them. -/
theorem State.beat_write {s s1 : State} {k : Nat} {p : ChanPkt} {d : DescRun} {rest : List DescRun} (hpkt : (s.chan k).pkt = some p)
    (hruns : (s.chan k).runs = d :: rest) (hchecked : d.checked = true) (hfinished : d.finished = false)
    (hmoving : State.moving (s.chan k) = true) (hdue : dOp d.words = 1 ∨ d.pos < d.rpos) (hspace : daSpace d.dst ≠ 5)
    (hout : s.beatOut k p d.dst (d.beatBytes (s.chan k).buf) = .ok s1) : s.beat k true = some (s1.beatWritten k p d s.time) := by
  have hready : (dOp d.words == 1 || decide (d.pos < d.rpos)) = true := by
    rwa [Bool.or_eq_true, beq_iff_eq, decide_eq_true_eq]
  have hgoes : (!State.moving (s.chan k) || !d.checked || d.finished || !(dOp d.words == 1 || decide (d.pos < d.rpos))) = false := by
    rw [hmoving, hchecked, hfinished, hready]
    rfl
  have hlocal : (decide (daSpace d.dst = 5) && !s.canRequest (remoteDev d.dst)) = false := by
    rw [decide_eq_false hspace, Bool.false_and]
  change s.writeBeat k = _
  simp only [State.writeBeat, hpkt, hruns]
  change (if _ = true then none else if _ = true then none else some (match s.beatOut k p d.dst (d.beatBytes (s.chan k).buf) with
    | .error _ => _ | .ok _ => _)) = _
  rw [if_neg, if_neg, hout]
  · rfl
  · exact Bool.eq_false_iff.1 hlocal
  · exact Bool.eq_false_iff.1 hgoes

/-- What a write beat changes: the descriptor and the channel's buffer, besides the counters. -/
theorem State.beatWritten_fields {s : State} {k : Nat} {p : ChanPkt} {d : DescRun} {rest : List DescRun} (hpkt : (s.chan k).pkt = some p)
    (hruns : (s.chan k).runs = d :: rest) (now : Nat) :
    (s.beatWritten k p d now).flights = s.flights ∧ ((s.beatWritten k p d now).chan k).runs = d.wrote now :: rest
      ∧ ((s.beatWritten k p d now).chan k).buf = if dOp d.words == 1 then (s.chan k).buf else (s.chan k).buf.drop 1 := by
  refine ⟨rfl, ?_⟩
  rw [State.beatWritten, State.chan_modChan_modRun (s := s.countBeat k p 2) hpkt hruns _ (fun c => by split <;> rfl), DescRun.wrote]
  cases dOp d.words == 1 <;> exact ⟨rfl, rfl⟩

end Sys2Proof.Machine
end

section
/-! The end of a descriptor, and its record (R392, R393, R395, R396). -/

namespace Sys2Proof.Machine

theorem exec_sluiceDescComplete {s : State} {e c : Nat} (hlive : s.live = true) (he : e < 32) (hc : c < 64)
    (hactive : (s.chan (e * 64 + c)).st = .active) : exec (.sluiceDescComplete e c) s = .next (s.completeDesc (e * 64 + c) 0) := by
  change execSluiceDescComplete e c s = _
  rw [execSluiceDescComplete, State.run_live hlive]
  simp only [decide_eq_true he, decide_eq_true hc, hactive, beq_self_eq_true, Bool.and_self, State.when_true]

/-- A finished descriptor that owes no record gives way at once. -/
theorem State.completeDesc_unrecorded {s : State} {k : Nat} {p : ChanPkt} {d : DescRun} {rest : List DescRun}
    (hpkt : (s.chan k).pkt = some p) (hruns : (s.chan k).runs = d :: rest) (hfinished : d.finished = true) (hhalt : d.halt = none)
    (hnone : (s.chan k).ring = 0 ∨ dRec d.words = false) (tries : Nat) : s.completeDesc k tries = s.afterRecord k p d := by
  have hask : (decide ((s.chan k).ring = 0) || !(dRec d.words || d.halt.isSome)) = true := by
    rw [hhalt]
    rcases hnone with h | h <;> simp [h]
  simp only [State.completeDesc, hpkt, hruns, hfinished, Bool.not_true, Bool.false_and, Bool.false_eq_true, if_false]
  exact if_pos hask

section Recorded

variable {s : State} {k : Nat} {p : ChanPkt} {d : DescRun} {rest : List DescRun}

/-- A finished descriptor that owes a record writes it into a ring with space. -/
theorem State.completeDesc_recorded (hpkt : (s.chan k).pkt = some p) (hruns : (s.chan k).runs = d :: rest) (hfinished : d.finished = true)
    (hring : (s.chan k).ring ≠ 0) (hrec : dRec d.words = true) (hspace : State.ringFull (s.chan k) = false) (tries : Nat) :
    s.completeDesc k tries = s.recordOut k p d := by
  simp only [State.completeDesc, hpkt, hruns, hfinished, hring, hrec, hspace, decide_false, Bool.not_true, Bool.not_false, Bool.true_or,
    Bool.or_self, Bool.false_and, Bool.false_eq_true, if_false, if_true]

/-- The channel has read HEADADDR: it knows the consumer index. -/
def Chan.sawHead (c : Chan) (bs : List Byte) : Chan := { c with headSeen := leNat bs % 2 ^ (c.log2 + 1), headErr := none }

/-- Where the ring is full as far as the channel knows, HEADADDR is read again: the record goes out, or the channel waits. -/
theorem State.completeDesc_rereads {s1 : State} {bs : List Byte} (hpkt : (s.chan k).pkt = some p) (hruns : (s.chan k).runs = d :: rest)
    (hfinished : d.finished = true) (hring : (s.chan k).ring ≠ 0) (hrec : dRec d.words = true) (hfull : State.ringFull (s.chan k) = true)
    (hload : s.load (State.chanAgent p) (s.chan k).head 8 = .ok (s1, bs)) (tries : Nat) :
    s.completeDesc k tries = if State.ringFull ((s.chan k).sawHead bs) then s1.setChan k { (s.chan k).sawHead bs with st := .waiting }
      else (s1.setChan k ((s.chan k).sawHead bs)).recordOut k p d := by
  simp only [State.completeDesc, hpkt, hruns, hfinished, hring, hrec, hfull, hload, decide_false, Bool.not_true, Bool.true_or,
    Bool.or_self, Bool.false_and, Bool.false_eq_true, if_false, Chan.sawHead]

/-- The place of the next record in the channel's ring (R395). -/
def Chan.slot (c : Chan) : Nat := c.ring + 32 * (c.pidx % 2 ^ c.log2)

theorem State.sluiceRecord_length (k : Nat) (c : Chan) (p : ChanPkt) (d : DescRun) (st : Word16) (fault : Nat) :
    (State.sluiceRecord k c p d st fault).length = 32 := by
  rw [State.sluiceRecord, wordsBytes_length]
  rfl

/-- The record of a descriptor that completed well lands, the ring moves on, and the descriptor gives way. -/
theorem State.recordOut_stored {s1 : State} (hhalt : d.halt = none)
    (hstore : s.store (State.chanAgent p) (s.chan k).slot (State.sluiceRecord k (s.chan k) p d stOk 0) = .ok s1) :
    s.recordOut k p d = (s1.setChan k { s.chan k with pidx := ((s.chan k).pidx + 1) % 2 ^ ((s.chan k).log2 + 1) }).afterRecord k p d := by
  rw [Chan.slot] at hstore
  simp only [State.recordOut, hhalt, Option.getD_none, State.storeOrLose, hstore]

/-- Once a descriptor without a signal has completed well, the next of its packet comes to its turn (R393). -/
theorem State.chan_afterRecord_next (hruns : (s.chan k).runs = d :: rest) (hhalt : d.halt = none)
    (hsig : dSig d.words = false) (hmore : p.idx + 1 < p.count) (hstop : (s.chan k).stop = none) :
    (s.afterRecord k p d).chan k = { s.chan k with
      st := .active, runs := rest, headErr := none, pkt := some { p with idx := p.idx + 1 } } := by
  have hgoes : (decide (p.count ≤ p.idx + 1) || (s.chan k).stop.isSome && decide ((s.chan k).runs.length ≤ 1)) = false := by
    rw [decide_eq_false (Nat.not_le.2 hmore), hstop]
    rfl
  have hnext : s.afterRecord k p d = (s.count (State.unitSluice (k / 64)) 5 1 1 (2 ^ p.pclass)).modChan k (fun c => { c with
      st := .active, runs := c.runs.drop 1, headErr := none, pkt := some { p with idx := p.idx + 1 } }) := by
    simp only [State.afterRecord, hhalt, hsig, Bool.false_eq_true, if_false]
    exact if_neg (Bool.eq_false_iff.1 hgoes)
  have hdrop : (s.chan k).runs.drop 1 = rest := by rw [hruns, List.drop_one, List.tail_cons]
  rw [hnext, State.chan_modChan_self rfl, ← hdrop]
  rfl

theorem State.finish_done {s : State} {q : Nat} {seq : BitVec 32} {status : Word16} {detail : Nat} {x : Packet}
    (hx : x ∈ (s.finish q seq status detail).packets) (hq : x.queue = q) (hseq : x.seq = seq) : x.work = .done := by
  obtain ⟨y, -, rfl⟩ := List.mem_map.1 hx
  by_cases hid : y.queue = q ∧ y.seq = seq
  · rw [if_pos hid]
    dsimp only
    split
    · assumption
    · rfl
  · rw [if_neg hid] at hq hseq
    exact absurd ⟨hq, hseq⟩ hid

theorem State.serve_packets (s : State) (k : Nat) : (s.serve k).packets = s.packets := by
  unfold State.serve
  dsimp only
  split
  · split <;> rfl
  · rfl

/-- The packet that a channel ends is done. -/
theorem State.endChan_done (hpkt : (s.chan k).pkt = some p) (st : Word16) {x : Packet} (hx : x ∈ (s.endChan k st).packets)
    (hq : x.queue = p.queue) (hseq : x.seq = p.seq) : x.work = .done := by
  simp only [State.endChan, hpkt, State.serve_packets] at hx
  exact State.finish_done hx hq hseq

/-- Once the last descriptor of a packet has completed well without a signal, the packet is done (R380, R393). -/
theorem State.afterRecord_last_done (hpkt : (s.chan k).pkt = some p) (hhalt : d.halt = none) (hsig : dSig d.words = false)
    (hlast : p.count ≤ p.idx + 1) {x : Packet} (hx : x ∈ (s.afterRecord k p d).packets) (hq : x.queue = p.queue) (hseq : x.seq = p.seq) :
    x.work = .done := by
  have hends : s.afterRecord k p d = (s.count (State.unitSluice (k / 64)) 5 1 1 (2 ^ p.pclass)).endChan k stOk := by
    simp only [State.afterRecord, hhalt, hsig, decide_eq_true hlast, Bool.true_or, Bool.false_eq_true, if_false, if_true]
  rw [hends] at hx
  exact State.endChan_done (s := s.count _ 5 1 1 _) hpkt stOk hx hq hseq

end Recorded

/-- A channel that only a full ring holds reads HEADADDR again, after what the host has stored (R396). -/
theorem exec_headaddrReread {s : State} {e c : Nat} (hlive : s.live = true) (stores : List Host.Cell)
    (hheld : State.heldByRing (s.chan (e * 64 + c)) = true) :
    exec (.headaddrReread e c stores) s = .next ((s.hostStores stores).completeDesc (e * 64 + c) 0) := by
  change execHeadaddrReread e c stores s = _
  have hheld' : State.heldByRing ((s.hostStores stores).chan (e * 64 + c)) = true := hheld
  rw [execHeadaddrReread, State.run_live hlive]
  simp only [hheld', State.when_true]

theorem State.heldByRing_true {c : Chan} {d : DescRun} {rest : List DescRun} (hst : c.st = .waiting) (hhead : c.headErr = none)
    (hruns : c.runs = d :: rest) (herr : ∀ x ∈ d :: rest, x.errAddr = none) : State.heldByRing c = true := by
  have hall : (d :: rest).all (·.errAddr.isNone) = true := List.all_eq_true.2 fun x hx => Option.isNone_iff_eq_none.2 (herr x hx)
  simp only [State.heldByRing, hst, hhead, hruns, hall, beq_self_eq_true, Option.isNone_none, List.isEmpty_cons, Bool.not_false,
    Bool.and_self]

end Sys2Proof.Machine
end

section
/-! Bus errors at a channel's reads, and their reissues (R390). -/

namespace Sys2Proof.Machine

/-- A bus error at an access that may be made again waits for its reissue. -/
theorem State.chanError_waits {s : State} {k : Nat} {d : DescRun} {rest : List DescRun} (hruns : (s.chan k).runs = d :: rest)
    (htries : d.tries < (s.chan k).retryMax) (da : Nat) :
    s.chanError k 0 da = (s.modRun k 0 (fun x => { x with errAddr := some da })).modChan k (fun x => { x with st := .waiting }) := by
  simp only [State.chanError, hruns, List.getElem?_cons_zero, if_neg (Nat.not_le.2 htries)]

/-- A bus error meets the next read beat of a COPY alone on its channel, where that beat could be issued. -/
theorem State.chanMeets_read {s : State} {k : Nat} {p : ChanPkt} {d : DescRun} (hpkt : (s.chan k).pkt = some p)
    (hruns : (s.chan k).runs = [d]) (hread : d.unread = false) (hreads : d.reads = true) (hmoving : State.moving (s.chan k) = true)
    (hbeat : (s.beat k false).isSome = true) : s.chanMeets k false = s.chanError k 0 d.src := by
  simp only [State.chanMeets, hpkt, hmoving, hruns, hread, DescRun.findIdx?_reads_single hreads, hbeat, State.when_true, List.getD_cons_zero,
    Bool.not_true, Bool.false_eq_true, if_false, DescRun.src]

theorem exec_busError_channel {s : State} {e c : Nat} (hlive : s.live = true) (he : e < 32) (hc : c < 64) (write : Bool) :
    exec (.busError (.channel e c write)) s = .next (s.chanMeets (e * 64 + c) write) := by
  change execBusError (.channel e c write) s = _
  rw [execBusError, State.run_live hlive]
  simp only [decide_eq_true he, decide_eq_true hc, Bool.and_self, State.when_true]

/-- One reissue more of a descriptor's access. -/
def DescRun.reissued (d : DescRun) : DescRun := { d with retries := d.retries + 1, tries := d.tries + 1, errAddr := none }

/-- The reissue of the access of the descriptor in its turn is counted. -/
def State.reissueCounted (s : State) (e k : Nat) (p : ChanPkt) : State :=
  ((s.modRun k 0 (fun d => { d with retries := d.retries + 1 })).count (State.unitSluice e) 3 1 1 (2 ^ p.pclass)).modRun k 0
    (fun d => { d with tries := d.tries + 1 })

/-- The channel goes on after a reissue of the descriptor in its turn. -/
def State.retried (s : State) (e k : Nat) (p : ChanPkt) : State :=
  ((s.reissueCounted e k p).modRun k 0 (fun d => { d with errAddr := none })).modChan k (fun c => { c with st := .active })

theorem State.chan_reissueCounted {s : State} {k : Nat} {p : ChanPkt} {d : DescRun} {rest : List DescRun} (e : Nat)
    (hpkt : (s.chan k).pkt = some p) (hruns : (s.chan k).runs = d :: rest) :
    (s.reissueCounted e k p).chan k =
      { s.chan k with runs := { d with retries := d.retries + 1, tries := d.tries + 1 } :: rest } := by
  have hcounted : ((s.modRun k 0 (fun d => { d with retries := d.retries + 1 })).count (State.unitSluice e) 3 1 1 (2 ^ p.pclass)).chan k
      = { s.chan k with runs := { d with retries := d.retries + 1 } :: rest } := State.chan_modRun_head hpkt hruns _
  rw [State.reissueCounted, State.chan_modRun_head ((congrArg Chan.pkt hcounted).trans hpkt) (congrArg Chan.runs hcounted), hcounted]

theorem State.chan_retried {s : State} {k : Nat} {p : ChanPkt} {d : DescRun} {rest : List DescRun} (e : Nat)
    (hpkt : (s.chan k).pkt = some p) (hruns : (s.chan k).runs = d :: rest) :
    (s.retried e k p).chan k = { s.chan k with st := .active, runs := d.reissued :: rest } := by
  have hcounted := State.chan_reissueCounted e hpkt hruns
  rw [State.retried, State.chan_modChan_modRun (g := fun c => { c with st := .active }) ((congrArg Chan.pkt hcounted).trans hpkt)
    (congrArg Chan.runs hcounted) _ (fun _ => rfl), hcounted]
  rfl

theorem State.retried_fields (s : State) (e k : Nat) (p : ChanPkt) :
    (s.retried e k p).hbm = s.hbm ∧ (s.retried e k p).packets = s.packets := by
  simp [State.retried, State.reissueCounted, State.modRun, State.count]

/-- A reissue that meets no bus error lets the channel go on. -/
theorem exec_sluiceRetry_ok {s : State} {e c da : Nat} {p : ChanPkt} {d : DescRun} {rest : List DescRun} (hlive : s.live = true)
    (hpkt : (s.chan (e * 64 + c)).pkt = some p) (hruns : (s.chan (e * 64 + c)).runs = d :: rest) (herr : d.errAddr = some da)
    (hhead : (s.chan (e * 64 + c)).headErr = none) : exec (.sluiceRetry e c true) s = .next (s.retried e (e * 64 + c) p) := by
  have hfind : (d :: rest).findIdx? (·.errAddr.isSome) = some 0 := by
    rw [List.findIdx?_cons, herr]
    rfl
  change execSluiceRetry e c true s = _
  rw [execSluiceRetry, State.run_live hlive]
  simp only [hpkt, hhead, hruns, hfind, if_true, State.retried, State.reissueCounted]

end Sys2Proof.Machine
end

section
/-! A Sluice channel that serves a packet, command by command (R382 to R397). -/

namespace Sys2Proof.Machine

section Serving

variable {s : State} {e c : Nat} {p : ChanPkt} (he : e < 32) (hc : c < 64)
  (hpkt : (s.chan (e * 64 + c)).pkt = some p)

include he hc hpkt

/-- The row of a descriptor's OP reads it where none is in progress; at its turn it is validated (R385). -/
theorem State.sluiceRow_descRead (hruns : (s.chan (e * 64 + c)).runs = []) (hstop : (s.chan (e * 64 + c)).stop = none)
    (hcan : s.canRead (State.chanAgent p) (State.descAddr p) 64 = true) :
    ∃ (s1 : State) (bs : List Byte), s.load (State.chanAgent p) (State.descAddr p) 64 = .ok (s1, bs)
      ∧ (s1.hbmLatency (State.chanAgent p) (State.descAddr p) 64).time = s.time
      ∧ s.sluiceRow e c (dOp (bytesWords 16 bs)) ⟨0, 0, 0⟩ 0 =
          (s1.hbmLatency (State.chanAgent p) (State.descAddr p) 64).startDesc (e * 64 + c) p
            { words := bytesWords 16 bs, unread := true } [] := by
  obtain ⟨⟨s1, bs⟩, hload⟩ := State.load_of_canRead hcan
  refine ⟨s1, bs, hload, State.time_descRead hload, ?_⟩
  rw [State.sluiceRow_fetches he hc hpkt, State.fetchDesc_reads hpkt hruns hstop hload]

/-- A COPY in its turn reads its next beat into the staging buffer. -/
theorem exec_sluiceCopy_read {d : DescRun} (hlive : s.live = true) (hruns : (s.chan (e * 64 + c)).runs = [d]) (hread : d.unread = false)
    (hchecked : d.checked = true) (hop : dOp d.words = 0) (hleft : d.rpos < dTotal d.words) (hroom : (s.chan (e * 64 + c)).buf.length < 16)
    (hmoving : State.moving (s.chan (e * 64 + c)) = true) (hcan : s.canRead (State.chanAgent p) d.src d.srcLen = true)
    (hturn : s.beatTurn (e * 64 + c) false = true) :
    ∃ (u : State) (bs : List Byte), exec (.sluiceCopy e c ⟨0, 1, 0⟩ 0) s = .next u ∧ bs.length = d.srcLen ∧ d.srcLen ≤ 64
      ∧ u.chan (e * 64 + c) = { s.chan (e * 64 + c) with
          runs := [{ d with rpos := d.rpos + d.srcLen, tries := 0 }], buf := (s.chan (e * 64 + c)).buf ++ [bs] }
      ∧ u.flights = s.flights ∧ u.hbm = s.hbm := by
  obtain ⟨⟨s1, bs⟩, hload⟩ := State.load_of_canRead (s := s.headChecked (e * 64 + c)) hcan
  have hbeat := State.beat_read hpkt hruns hchecked (DescRun.reads_of_copy hop hread hleft) hmoving hroom hload
  have hchan1 : s1.chan (e * 64 + c) = s.chan (e * 64 + c) := by
    obtain ⟨_, _, rfl⟩ := State.load_eq hload
    exact State.chan_headChecked hpkt hruns hchecked
  obtain ⟨hchan, hflights, hhbm⟩ := State.beatRead_fields (hchan1 ▸ hpkt) (hchan1 ▸ hruns) bs
  have hkept : s1.flights = s.flights ∧ s1.hbm = s.hbm := by
    obtain ⟨_, _, rfl⟩ := State.load_eq hload
    exact ⟨rfl, rfl⟩
  have hrow := State.sluiceRow_moves he hc hpkt hruns hread hchecked 1 0 0
  rw [hop, State.landChan_zero, State.beats_zero, State.beats_single hpkt hturn hbeat] at hrow
  exact ⟨_, bs, (exec_sluiceCopy hlive e c _ 0).trans (congrArg _ hrow), State.load_length hload, d.srcLen_le, hchan1 ▸ hchan,
    hflights.trans hkept.1, hhbm.trans hkept.2⟩

/-- A COPY or FILL in its turn writes its next beat, which leaves as a write in flight. -/
theorem State.sluiceRow_write {d : DescRun} {rest : List DescRun} {pl : Place} (hruns : (s.chan (e * 64 + c)).runs = d :: rest)
    (hread : d.unread = false) (hchecked : d.checked = true) (hfinished : d.finished = false)
    (hmoving : State.moving (s.chan (e * 64 + c)) = true) (hdue : dOp d.words = 1 ∨ d.pos < d.rpos) (hspace : daSpace d.dst ≠ 5)
    (hplace : s.place (State.chanAgent p) d.dst (d.beatBytes (s.chan (e * 64 + c)).buf).length true = some pl)
    (hbar : s.writeBar pl (d.beatBytes (s.chan (e * 64 + c)).buf).length = none) (hturn : s.beatTurn (e * 64 + c) true = true) :
    ∃ f : Flight, (s.sluiceRow e c (dOp d.words) ⟨0, 0, 1⟩ 0).flights = s.flights ++ [f]
      ∧ (f.chan = e * 64 + c ∧ f.queue = p.queue ∧ f.seq = p.seq ∧ f.da = d.dst ∧ f.data = d.beatBytes (s.chan (e * 64 + c)).buf)
      ∧ ((s.sluiceRow e c (dOp d.words) ⟨0, 0, 1⟩ 0).chan (e * 64 + c)).runs = d.wrote s.time :: rest
      ∧ ((s.sluiceRow e c (dOp d.words) ⟨0, 0, 1⟩ 0).chan (e * 64 + c)).buf
          = if dOp d.words == 1 then (s.chan (e * 64 + c)).buf else (s.chan (e * 64 + c)).buf.drop 1 := by
  obtain ⟨f, hout, hf⟩ := State.beatOut_flight (e * 64 + c) hspace hplace hbar
  have hbeat := State.beat_write hpkt hruns hchecked hfinished hmoving hdue hspace hout
  obtain ⟨hflights, hrun, hbuf⟩ := State.beatWritten_fields (s := { s with flights := s.flights ++ [f] }) hpkt hruns s.time
  have hrow := State.sluiceRow_moves he hc hpkt hruns hread hchecked 0 1 0
  rw [State.landChan_zero, State.beats_zero, State.beats_single hpkt hturn hbeat] at hrow
  rw [hrow]
  exact ⟨f, hflights, hf, hrun, hbuf⟩

end Serving

/-- Bytes that a write beat takes from a COPY's buffer or from a FILL's pattern, and what it leaves in the buffer. -/
theorem DescRun.beatBytes_eq {d : DescRun} {bs : List Byte} {buf more : List (List Byte)} (hop : dOp d.words = 0 ∨ dOp d.words = 1)
    (hcopy : dOp d.words = 0 → buf = bs :: more)
    (hfill : dOp d.words = 1 → more = buf ∧ bs = (List.range d.dstLen).map (fun i =>
      (leBytes 8 (word64 d.words 12)).getD ((d.pos % dLen d.words + i) % 8) 0)) :
    d.beatBytes buf = bs ∧ (if dOp d.words == 1 then buf else buf.drop 1) = more := by
  rcases hop with h | h
  · rw [DescRun.beatBytes, h, hcopy h]
    exact ⟨rfl, rfl⟩
  · obtain ⟨hmore, hbs⟩ := hfill h
    rw [DescRun.beatBytes, h, hmore, hbs]
    exact ⟨rfl, rfl⟩

/-- Settles O35: a descriptor read comes to its turn by `State.startDesc`; a beat is the one step of `State.beats` in its turn
(`State.beat_read`, `State.beat_write`); completion, record and reread are the branches of `State.completeDesc`; a bus error and its reissue
change the descriptor in its turn alone. -/
theorem sluiceChannelsRun : Obligations.SluiceChannelsRun := by
  unfold Obligations.SluiceChannelsRun
  intro s e c p hlive he hc k hpkt
  refine ⟨fun hruns hstop hcan => ?descriptor, fun d rest hruns hread hchecked => ⟨?readBeat, ?writeBeat, ?landings, ?unrecorded, ?recorded,
    ?reread, ?meetsError, ?retry⟩⟩
  case descriptor =>
    obtain ⟨s1, bs, hload, htime, hrow⟩ := State.sluiceRow_descRead he hc hpkt hruns hstop hcan
    refine ⟨s1, bs, hload, fun hop hst => ?config, fun hop hst => ?moves, fun hst hop => ?halts⟩
    case config =>
      rw [State.startDesc_configures hst hop, htime, hop] at hrow
      exact (exec_sluiceConfig hlive e c).trans (congrArg _ hrow)
    case moves =>
      rw [State.startDesc_begins hst (by omega), htime] at hrow
      exact (exec_sluice_copyOrFill hlive hop e c _ 0).trans (congrArg _ hrow)
    case halts =>
      rw [State.startDesc_halts hst, htime] at hrow
      exact (exec_sluice_anyOp hlive hop e c).trans (congrArg _ hrow)
  case readBeat =>
    rintro hop rfl hleft hroom hmoving hcan hturn
    exact exec_sluiceCopy_read he hc hpkt hlive hruns hread hchecked hop hleft hroom hmoving hcan hturn
  case writeBeat =>
    intro hop hfinished hmoving hspace bs more pl hcopy hfill hplace hbar hturn
    obtain ⟨hbytes, hmore⟩ := DescRun.beatBytes_eq hop (fun h => (hcopy h).2) hfill
    have hdue : dOp d.words = 1 ∨ d.pos < d.rpos := hop.symm.imp_right fun h => (hcopy h).1
    obtain ⟨f, hflights, ⟨hchan, hqueue, hseq, hda, hdata⟩, hrun, hbuf⟩ := State.sluiceRow_write (pl := pl) he hc hpkt hruns hread hchecked
      hfinished hmoving hdue hspace (hbytes ▸ hplace) (hbytes ▸ hbar) hturn
    exact ⟨_, f, exec_sluice_copyOrFill hlive hop e c _ 0, hflights, hchan, hqueue, hseq, hda, hdata.trans hbytes, hbuf.trans hmore,
      d.wrote s.time, hrun, rfl, rfl, fun hlast => if_pos hlast⟩
  case landings =>
    intro land hop
    have hrow := State.sluiceRow_moves he hc hpkt hruns hread hchecked 0 0 land
    rw [hop] at hrow
    exact (exec_sluiceCopy hlive e c _ land).trans (congrArg _ hrow)
  case unrecorded =>
    intro hactive hfinished hhalt hnone
    rw [exec_sluiceDescComplete hlive he hc hactive, State.completeDesc_unrecorded hpkt hruns hfinished hhalt hnone]
    exact ⟨rfl, State.chan_afterRecord_next hruns hhalt, fun hsig hlast x => State.afterRecord_last_done hpkt hhalt hsig hlast⟩
  case recorded =>
    intro hactive hfinished hhalt hring hrec hspace slot hcan
    obtain ⟨s1, hstore⟩ := State.store_of_canWrite (bs := State.sluiceRecord k (s.chan k) p d stOk 0)
      ((State.sluiceRecord_length k (s.chan k) p d stOk 0).symm ▸ hcan)
    refine ⟨s1, hstore, ?_⟩
    rw [exec_sluiceDescComplete hlive he hc hactive, State.completeDesc_recorded hpkt hruns hfinished hring hrec hspace,
      State.recordOut_stored hhalt hstore]
  case reread =>
    intro stores hwaiting hhead herr hfinished hring hrec hfull hcan
    obtain ⟨⟨s1, bs⟩, hload⟩ := State.load_of_canRead hcan
    refine ⟨s1, bs, hload, ?_⟩
    rw [exec_headaddrReread hlive stores (State.heldByRing_true hwaiting hhead hruns herr)]
    exact congrArg _ (State.completeDesc_rereads (s := s.hostStores stores) hpkt hruns hfinished hring hrec hfull hload 0)
  case meetsError =>
    rintro hop rfl hleft hmoving hroom htries hcan
    have hreads := DescRun.reads_of_copy hop hread hleft
    obtain ⟨⟨s1, bs⟩, hload⟩ := State.load_of_canRead (s := s.headChecked k) (da := d.src) (n := d.srcLen) hcan
    have hbeat : (s.beat k false).isSome = true := by
      rw [State.beat_read hpkt hruns hchecked hreads hmoving hroom hload]
      rfl
    rw [exec_busError_channel hlive he hc, State.chanMeets_read hpkt hruns hread hreads hmoving hbeat, State.chanError_waits hruns htries]
    rfl
  case retry =>
    intro da herr hhead
    exact ⟨_, exec_sluiceRetry_ok hlive hpkt hruns herr hhead, State.chan_retried e hpkt hruns, s.retried_fields e k p⟩

end Sys2Proof.Machine
end

section
/-! What the commands leave alone: all but the Weir's own leave the Weir and the queue of commands as they are. -/

namespace Sys2Proof.Machine

theorem State.runLinks_frame {s t : State} {f : State → State} (h : s.runLinks f = .next t) (hf : ∀ s, (f s).frame = s.frame) :
    t.frame = s.frame := by
  simp only [State.runLinks, Host.Outcome.next.injEq] at h
  subst h
  split
  · exact hf s
  · rfl

theorem next_frame {s t u : State} (h : (.next u : Host.Outcome State Fault Refusal) = .next t) (hu : u.frame = s.frame) :
    t.frame = s.frame := by
  cases h
  exact hu

theorem moveGuard_frame (s : State) (ph : Nat) (t : Tile) (w : Word128) (n : Nat) (r : TRes) :
    (s.moveGuard ph t w n (s, r)).1.frame = s.frame := by
  simp only [State.moveGuard]
  split <;> rfl

theorem execMoveMerge_frame {s t : State} {ph : Nat} {w : Word128} (h : execMoveMerge ph w s = .next t) : t.frame = s.frame :=
  State.run_frame h fun _ => State.when_frame _ _ _ (State.issueWith_frame _ _ _ _ fun _ _ => moveGuard_frame ..)

theorem execMoveMergeStandard_frame {s t : State} {ph : Nat} {w : Word128} (h : execMoveMergeStandard ph w s = .next t) :
    t.frame = s.frame :=
  State.run_frame h fun _ => State.when_frame _ _ _ (State.issueWith_frame _ _ _ _ fun _ _ => moveGuard_frame ..)

theorem execRequant_frame {s t : State} {ph : Nat} {w : Word128} (h : execRequant ph w s = .next t) : t.frame = s.frame := by
  refine State.run_frame h fun s => State.when_frame _ _ _ (State.issueWith_frame _ _ _ _ fun s t => ?_)
  (repeat' split) <;> simp

theorem execContextRestore_frame {s t : State} {q : Nat} {seq : BitVec 32} (h : execContextRestore q seq s = .next t) :
    t.frame = s.frame := by
  refine State.run_frame h fun s => ?_
  split
  · rfl
  · dsimp only
    split
    · simp
    · split
      case h_3 hload =>
        have hframe := State.ctxArea_frame hload
        (repeat' split) <;> simpa using hframe
      all_goals simp

theorem execJetsetLoad_frame {s t : State} {fn : Nat} (h : execJetsetLoad fn s = .next t) : t.frame = s.frame := by
  refine State.run_frame h fun s => State.command_frame _ _ _ _ _ _ _ fun s t p => ?_
  split
  case h_1 s1 b hload => simpa using State.load_frame hload
  case h_2 => rfl
  case h_3 => rfl

theorem execCommCreate_frame {s t : State} {fn : Nat} (h : execCommCreate fn s = .next t) : t.frame = s.frame := by
  refine State.run_frame h fun s => State.command_frame _ _ _ _ _ _ _ fun s t p => ?_
  split
  case h_1 hload => simpa using State.load_frame hload
  case h_2 => rfl
  case h_3 => rfl

theorem execSnapshot_frame {s t : State} {fn : Nat} (h : execSnapshot fn s = .next t) : t.frame = s.frame := by
  dsimp only [execSnapshot] at h
  refine State.run_frame h fun s => State.command_frame _ _ _ _ _ _ _ fun s t p => ?_
  split <;> simp

theorem execFwStage_frame {s t : State} {fn : Nat} (h : execFwStage fn s = .next t) : t.frame = s.frame := by
  refine State.run_frame h fun s => State.when_frame _ _ _ (State.command_frame _ _ _ _ _ _ _ fun s t p => ?_)
  split
  · simp
  · split
    case h_1 hload => simpa using State.load_frame hload
    case h_2 => rfl
    case h_3 => rfl

theorem execDebugUnlock_frame {s t : State} {fn : Nat} (h : execDebugUnlock fn s = .next t) : t.frame = s.frame := by
  refine State.run_frame h fun s => ?_
  calc _ = (State.frame _) := State.when_frame _ _ _ rfl
    _ = s.frame := State.command_frame _ _ _ _ _ _ _ fun _ _ _ => rfl

theorem execAck_frame {s t : State} {fn : Nat} (h : execAck fn s = .next t) : t.frame = s.frame := by
  refine State.run_frame h fun s => State.onArrival_frame _ _ _ _ fun s p => ?_
  (repeat' split) <;> simp

theorem execNotice_frame {s t : State} {fn : Nat} (h : execNotice fn s = .next t) : t.frame = s.frame := by
  refine State.run_frame h fun s => State.onArrival_frame _ _ _ _ fun s p => ?_
  dsimp only
  (repeat' split) <;> simp

theorem execLost_frame {s t : State} {fn : Nat} (h : execLost fn s = .next t) : t.frame = s.frame := by
  refine State.run_frame h fun s => State.onArrival_frame _ _ _ _ fun s p => ?_
  (repeat' split) <;> simp

theorem execCollUp_frame {s t : State} {fn : Nat} (h : execCollUp fn s = .next t) : t.frame = s.frame := by
  refine State.run_frame h fun s => State.onColl_frame _ _ _ _ fun s p i c k => ?_
  (repeat' split) <;> simp

theorem execCollDown_frame {s t : State} {fn : Nat} (h : execCollDown fn s = .next t) : t.frame = s.frame := by
  refine State.run_frame h fun s => State.onColl_frame _ _ _ _ fun s p i c k => ?_
  (repeat' split) <;> simp

/-- Every command but the Weir's own and the resets leaves the Weir and the queue of commands alone: most by the shape of their
definition, a few by a lemma above. -/
theorem exec_frame {c : Instr} {s t : State} (hc : movesWeir c = false) (h : exec c s = .next t) : t.frame = s.frame := by
  cases c with
  | loadw | stream | packcfg | gopen | gclose | drain | qexport | cvt | jet | sminit | smterm | smmerge | smnorm | nstat
  | nvar | tload | nearCopy | nearAdd | nearSub | nearMul | nearMax | nearMin | nearFma | normrow | affcol | nearNeg | nearAbs =>
    dsimp only [exec] at h
    exact State.run_frame h fun _ => State.issue_frame ..
  | devIdentify | devArrays | reproKey | bootReport | partQuery | qQuery | ctxSize | syncRead | slotRead | mapQuery | cstRead
  | linkStatus | routeRead | commQuery | faultRead | maintStatus | errCounts | oppList =>
    dsimp only [exec] at h
    exact State.run_frame h fun _ => State.query_frame ..
  | hbmRefresh =>
    dsimp only [exec] at h
    exact next_frame h rfl
  | dblQueueWrite | mbxGo | mbxCancel | mbxDoneClear | thermalShutdown | bootImageVerify | flr | vfEnableChange
  | busMasterEnableChange | msixUnmask | glbTimeRead | glbBadaccessClear | irqStatusClear | tstCtlWrite | getVersion
  | getCapabilities | negotiateAlgorithms | getDigests | getCertificate | challenge | getMeasurements | setEndpointId
  | getEndpointId | getMctpVersionSupport | getMessageTypeSupport | gettid | settid | getpldmversion | getpldmtypes
  | getpldmcommands | getpdrrepositoryinfo | getpdr | getsensorreading | getstatesensorreadings | getnumericeffectervalue
  | memorySpaceEnableChange | tapInstruction =>
    dsimp only [exec] at h
    exact next_frame h (by simp)
  | packetForward =>
    dsimp only [exec, execPacketForward] at h
    exact next_frame h (by split <;> simp)
  | porstDeassert | railToleranceReached | pcieLinkUp =>
    dsimp only [exec] at h
    exact next_frame h (State.when_frame _ _ _ (by simp))
  | barBadAccess | registerWrite =>
    dsimp only [exec, execBarBadAccess, execRegisterWrite] at h
    exact next_frame h (State.when_frame _ _ _ (by (repeat' split) <;> simp))
  | funcBind | funcUnbind | syncDisarm | routeWrite =>
    dsimp only [exec] at h
    exact State.run_frame h fun _ => State.command_frame _ _ _ _ _ _ _ fun _ _ _ => rfl
  | moveCopy | moveStatus | loop | branch | seta | waitSync | waitLocal | signal | step | tileEnd | tileFaultReplay
  | packetFetch | allreduce | reduce | broadcast | allgather | reducescatter | barrier | smreduce | coaltimeExpiry | sluiceCopy
  | sluiceFill | sluiceConfig | sluiceDescComplete | headaddrReread | remoteWrite | remoteSignal | barUp | barDown
  | uncorrectableError | lockstepMismatch | clockLoss | maintLockGrant | autoRepair | scrubSlice | scrubRate | faultManagerLoss =>
    dsimp only [exec, execStep] at h
    exact State.run_frame h fun _ => by simp
  | stepCommit | waitTimeout | preemptBoundary | packetDispatch | kernelLaunch | launchStart | launchComplete
  | ltimeoutExpiry | dma | syncSignal | syncWait | syncWaitTimeout | fence | digestMark | contextSave | packetComplete
  | mbxTake | deferredActivityEnd | sluiceRetry | remoteResend | remoteGiveUp | chunkResend | ctimeoutExpiry | join
  | joinResend | placementAdaptation | maintActivityEnd | preciseSample | busError | readReissue =>
    dsimp only [exec, execStepCommit, execWaitTimeout, execPreemptBoundary, execPacketDispatch, execKernelLaunch, execLaunchStart,
      execLaunchComplete, execLtimeoutExpiry, execDma, execSyncSignal, execSyncWait, execSyncWaitTimeout, execFence,
      execDigestMark, execContextSave, execPacketComplete, execMbxTake, execDeferredActivityEnd, execSluiceRetry,
      execRemoteResend, execRemoteGiveUp, execChunkResend, execCtimeoutExpiry, execJoin, execJoinResend,
      execPlacementAdaptation, execMaintActivityEnd, execPreciseSample, execBusError, execReadReissue] at h
    exact State.run_frame h fun _ => by (repeat' split) <;> simp
  | linkDetectDone | trainConverged | alignLocked | linkStateTimeout | markerBlock | peerSilent | dataFlit | idleFlit
  | linkctlConfig | linkctlConfigAck | linkctlRecover | linkctlResume | ackTimeout | flitSilence | laneFailing | disableTimeout =>
    dsimp only [exec] at h
    exact State.runLinks_frame h fun _ => by simp
  | laneSpareSwitch =>
    dsimp only [exec, execLaneSpareSwitch] at h
    exact State.runLinks_frame h fun _ => by (repeat' split) <;> simp
  | ack => exact execAck_frame h
  | collDown => exact execCollDown_frame h
  | collUp => exact execCollUp_frame h
  | commCreate => exact execCommCreate_frame h
  | contextRestore => exact execContextRestore_frame h
  | debugUnlock => exact execDebugUnlock_frame h
  | fwStage => exact execFwStage_frame h
  | jetsetLoad => exact execJetsetLoad_frame h
  | lost => exact execLost_frame h
  | moveMerge => exact execMoveMerge_frame h
  | moveMergeStandard => exact execMoveMergeStandard_frame h
  | notice => exact execNotice_frame h
  | requant => exact execRequant_frame h
  | snapshot => exact execSnapshot_frame h
  | faultInject =>
    dsimp only [exec, execFaultInject] at h
    exact State.run_frame h fun _ => State.command_frame _ _ _ _ _ _ _ fun _ _ _ => by (repeat' split) <;> simp
  | partAssign | partDestroy | qCreate | qModify | qDestroy | qResume | qAbort | syncReset | syncSignalCmd | syncArm
  | slotWrite | map | unmap | cstWrite | linkDisable | linkEnable | linkRetrain | linkSpare | devidSet | commDestroy
  | windowSet | maintRepair | maintLaneSparing | maintEqualisation | maintScrub | maintSelfTest | maintCancel | scrubPeriod
  | ctrProgram | sampleConfig | histConfig | histRead | attest | certRead | ownerKeyEnrol | ownerKeyRevoke | fwSelect
  | powerRead | debugChallenge | traceConfig | debugLock =>
    dsimp only [exec] at h
    exact State.run_frame h fun _ => State.command_frame _ _ _ _ _ _ _ fun _ _ _ => by simp
  | _ => cases hc

end Sys2Proof.Machine
end

section
/-! What the Weir's own commands and the resets keep (R514, R516, R520, R521, R523): the queue of commands, and the bounds of the Weir. -/

namespace Sys2Proof.Machine

theorem Weir.bounded_iff (w : Weir) :
    w.bounded = true ↔ w.opp < 8 ∧ w.tp ≤ 8 ∧ w.td.length = 4 ∧ (∀ l ∈ w.td, l ≤ 8) ∧ w.energy ≤ 200000 ∧ 600 ≤ w.cap ∧ w.cap ≤ 1400 := by
  simp only [Weir.bounded, Bool.and_eq_true, decide_eq_true_eq, List.all_eq_true, and_assoc]

/-- `t` comes after `s` with the queue of commands as it was, and within the bounds of the Weir where `s` was. -/
def State.Keeps (s t : State) : Prop := t.pending = s.pending ∧ (s.weir.bounded = true → t.weir.bounded = true)

namespace State

theorem keeps_of_frame {s t : State} (h : t.frame = s.frame) : s.Keeps t := by
  obtain ⟨hweir, hpending⟩ := Prod.mk.inj h
  exact ⟨hpending, fun hs => hweir ▸ hs⟩

theorem keeps_refl (s : State) : s.Keeps s := ⟨rfl, id⟩

theorem Keeps.trans {s t u : State} (hst : s.Keeps t) (htu : t.Keeps u) : s.Keeps u :=
  ⟨htu.1.trans hst.1, fun hs => htu.2 (hst.2 hs)⟩

theorem Keeps.frame {s t u : State} (h : s.Keeps t) (hu : u.frame = t.frame) : s.Keeps u := h.trans (keeps_of_frame hu)

theorem Keeps.setWeir {s t : State} (h : s.Keeps t) {f : Weir → Weir} (hf : t.weir.bounded = true → (f t.weir).bounded = true) :
    s.Keeps (t.setWeir f) :=
  h.trans ⟨rfl, hf⟩

theorem Keeps.rateChanged {s t : State} (h : s.Keeps t) : s.Keeps t.rateChanged := h.setWeir id

theorem Keeps.eventPF {s t : State} (h : s.Keeps t) (code who : Nat) (st : Word16) (a b : Nat) : s.Keeps (t.eventPF code who st a b) :=
  h.frame (eventPF_frame ..)

theorem keeps_when {s : State} {c : Bool} {f : State → State} (h : c = true → s.Keeps (f s)) : s.Keeps (s.when c f) := by
  unfold State.when
  split
  · next hc => exact h hc
  · exact s.keeps_refl

theorem keeps_ite {s t u : State} {p : Prop} [Decidable p] (ht : p → s.Keeps t) (hu : ¬ p → s.Keeps u) : s.Keeps (if p then t else u) := by
  split
  · next hp => exact ht hp
  · next hp => exact hu hp

theorem keeps_of_run {s t : State} {f : State → State} (h : s.run f = .next t) (hf : s.Keeps (f s)) : s.Keeps t := by
  simp only [State.run, Host.Outcome.next.injEq] at h
  subst h
  split
  · exact hf
  · exact s.keeps_refl

theorem Keeps.endPin {s t : State} (h : s.Keeps t) (reason : Nat) : s.Keeps (t.endPin reason) := by
  unfold State.endPin
  split
  · exact (h.setWeir id).eventPF ..
  · exact h

theorem Keeps.moveOpp {s t : State} (hst : s.Keeps t) {opp : Nat} (cause : Nat) (h : t.weir.bounded = true → opp < 8) :
    s.Keeps (t.moveOpp opp cause) := by
  unfold State.moveOpp
  split
  · exact hst
  · refine (Keeps.setWeir (hst.frame t.draw_frame) fun hs => ?_).eventPF ..
    obtain ⟨-, hrest⟩ := (Weir.bounded_iff _).1 hs
    exact (Weir.bounded_iff _).2 ⟨h hs, hrest⟩

theorem Keeps.setTp {s t : State} (hst : s.Keeps t) {tp : Nat} (h : t.weir.bounded = true → tp ≤ 8) : s.Keeps (t.setTp tp) := by
  unfold State.setTp
  split
  · exact hst
  · refine (hst.setWeir fun hs => ?_).rateChanged
    obtain ⟨hopp, -, hrest⟩ := (Weir.bounded_iff _).1 hs
    exact (Weir.bounded_iff _).2 ⟨hopp, h hs, hrest⟩

theorem keeps_setCap {s : State} {watts : Nat} (hlow : 600 ≤ watts) (hhigh : watts ≤ 1400) : s.Keeps (s.setCap watts) := by
  have hset : s.Keeps (s.setWeir fun w => { w with cap := watts }) := s.keeps_refl.setWeir fun hs => by
    obtain ⟨hopp, htp, hlen, htd, he, -, -⟩ := (Weir.bounded_iff _).1 hs
    exact (Weir.bounded_iff _).2 ⟨hopp, htp, hlen, htd, he, hlow, hhigh⟩
  unfold setCap
  dsimp only
  split
  · exact hset.endPin 5
  · exact hset

/-! ### A mailbox command (R14) -/

theorem sharedChks_status (s : State) (c : Cmd) (t : Taken) : ∀ k ∈ s.sharedChks c t, k.2.1 ≠ stOk := by
  have hop : stBadOpcode ≠ stOk := by decide
  have hperm : stNotPermitted ≠ stOk := by decide
  have hlen : stBadLength ≠ stOk := by decide
  simp only [sharedChks, headerChks, List.forall_mem_append, List.forall_mem_cons, List.forall_mem_map]
  simp [hop, hperm, hlen]

theorem firstChk_ok {cs : List Chk} (hst : ∀ c ∈ cs, c.2.1 ≠ stOk) (h : (firstChk cs).1 = stOk) : ∀ c ∈ cs, c.1 = false := by
  intro c hc
  by_contra hfail
  obtain ⟨d, hd, -, hfirst, -⟩ := firstChk_some hst ⟨c, hc, Bool.eq_true_of_not_eq_false hfail⟩
  exact hst d hd (hfirst ▸ h)

/-- A command whose action keeps what it acts on, where its own checks let it through. -/
theorem keeps_command {s : State} {fn : Nat} {c : Taken → Cmd} {mine : Taken → Bool} {checks : State → Taken → Nat → List Chk}
    {act : State → Taken → Nat → State × Ans} {qpos : State → Taken → Nat → Nat} (hst : ∀ t p, ∀ k ∈ checks s t p, k.2.1 ≠ stOk)
    (hact : ∀ t p, (∀ k ∈ checks s t p, k.1 = false) → s.Keeps (act s t p).1) : s.Keeps (s.command fn c mine checks act qpos) := by
  unfold command
  split
  · exact s.keeps_refl
  · next t _ _ =>
    split
    · exact s.keeps_refl
    · dsimp only
      split
      · exact keeps_of_frame (by simp)
      · next hok =>
        have hall := firstChk_ok (List.forall_mem_append.2 ⟨s.sharedChks_status _ t, hst t _⟩) (not_ne_iff.1 hok)
        have hkept := hact t (s.partOf t) fun k hk => hall k (List.mem_append_right _ hk)
        split
        · exact hkept.frame rfl
        · exact hkept.frame (by simp)

/-! ### Resets (R587, R592, R597) -/

theorem wholeReset_frame (s : State) (boot : Boot) : (s.wholeReset boot).frame = ({}, s.pending) := by
  have hfold : (s.acts.foldl (fun s a => match a.kind with
      | .stage bank image => let d := s.draw; { d.2 with flash := d.2.flash.torn bank image d.1 }
      | _ => s) s).frame = s.frame := foldl_frame _ (fun s a => by split <;> simp) _ _
  exact Prod.ext rfl (Prod.mk.inj hfold).2

theorem keeps_wholeReset (s : State) (boot : Boot) : s.Keeps (s.wholeReset boot) := by
  obtain ⟨hweir, hpending⟩ := Prod.mk.inj (s.wholeReset_frame boot)
  exact ⟨hpending, fun _ => hweir ▸ (by decide)⟩

theorem keeps_resetNow (s : State) (cause : BitVec 4) : s.Keeps (s.resetNow cause) := keeps_wholeReset _ _

theorem keeps_startReset (s : State) (cause : BitVec 4) : s.Keeps (s.startReset cause) := by
  unfold startReset
  split
  · exact keeps_of_frame rfl
  · exact s.keeps_resetNow cause

theorem keeps_lastPeriod (s : State) (n : Nat) : s.Keeps (s.lastPeriod n State.resetNow) := by
  unfold lastPeriod
  dsimp only
  split
  · exact keeps_of_frame rfl
  · split
    · split
      · exact keeps_of_frame rfl
      · exact Keeps.trans (keeps_of_frame (t := s.setLink n _) rfl) (keeps_resetNow _ _)
    · exact keeps_of_frame rfl

theorem keeps_stageReady (s : State) : s.Keeps s.stageReady := by
  have hframe : s.stageReady.frame = ({}, s.pending) := by
    simp [stageReady]
  obtain ⟨hweir, hpending⟩ := Prod.mk.inj hframe
  exact ⟨hpending, fun _ => hweir ▸ (by decide)⟩

end State

/-! ### The commands -/

theorem exec_powerSample_keeps {s t : State} {watts : Nat} (h : exec (.powerSample watts) s = .next t) : s.Keeps t := by
  dsimp only [exec] at h
  refine State.keeps_of_run h ?_
  have hsampled : s.Keeps (s.setWeir fun w => { w with samples := (watts :: w.samples).take 1000 }) := s.keeps_refl.setWeir id
  refine State.keeps_ite (fun _ => hsampled) fun _ => ?_
  exact ((hsampled.endPin 1).setTp fun _ => Nat.min_le_right _ _).setWeir id

/-- A throttle level moves by one at most, and up to 8 (R516, R520, R523). -/
theorem level_le {level : Nat} (h : level ≤ 8) (p q : Prop) [Decidable p] [Decidable q] :
    (if p then Nat.min (level + 1) 8 else if q then level - 1 else level) ≤ 8 := by
  split
  · exact Nat.min_le_right _ _
  · split <;> omega

theorem exec_powerLoopTick_keeps {s t : State} (h : exec .powerLoopTick s = .next t) : s.Keeps t := by
  dsimp only [exec] at h
  refine State.keeps_of_run h ?_
  refine State.keeps_ite (fun _ => s.keeps_refl) fun _ => State.keeps_ite (fun _ => ?pinned) fun _ => ?loop
  case pinned =>
    exact (State.keeps_ite (fun _ => s.keeps_refl.endPin 1) fun _ => s.keeps_refl.setWeir id).setWeir id
  case loop =>
    refine (s.keeps_refl.setTp fun hs => ?_).setWeir fun hs => ?_
    · obtain ⟨-, htp, -⟩ := (Weir.bounded_iff _).1 hs
      split
      · exact htp
      · exact level_le htp _ _
    · obtain ⟨hopp, htp, hlen, htd, -, hcap⟩ := (Weir.bounded_iff _).1 hs
      exact (Weir.bounded_iff _).2 ⟨hopp, htp, hlen, htd, Nat.min_le_right _ _, hcap⟩

theorem exec_freqStep_keeps {s t : State} {opp : Nat} (h : exec (.freqStep opp) s = .next t) : s.Keeps t := by
  dsimp only [exec] at h
  refine State.keeps_of_run h ?_
  refine State.keeps_ite (fun _ => s.keeps_refl) fun _ => State.keeps_ite (fun hdown => ?down) fun _ =>
    State.keeps_ite (fun hup => ?up) fun _ => s.keeps_refl
  case down =>
    split
    · exact (s.keeps_refl.moveOpp _ fun _ => hdown.2).setWeir id
    · exact s.keeps_refl
  case up =>
    refine (s.keeps_refl.moveOpp _ fun hs => ?_).setWeir id
    obtain ⟨hopp, -⟩ := (Weir.bounded_iff _).1 hs
    omega

theorem State.Keeps.setThermal {s t : State} (h : s.Keeps t) {td : Nat → Nat} {cool : List Nat}
    (htd : t.weir.bounded = true → ∀ d, td d ≤ 8) :
    s.Keeps (t.setWeir fun w => { w with td := (List.range 4).map td, coolMs := cool }) := by
  refine h.setWeir fun ht => ?_
  obtain ⟨hopp, htp, -, -, hrest⟩ := (Weir.bounded_iff _).1 ht
  refine (Weir.bounded_iff _).2 ⟨hopp, htp, by simp, fun l hl => ?_, hrest⟩
  obtain ⟨d, -, rfl⟩ := List.mem_map.1 hl
  exact htd ht d

theorem Weir.td_getD_le {w : Weir} (h : w.bounded = true) (d : Nat) : w.td.getD d 0 ≤ 8 := by
  obtain ⟨-, -, -, htd, -⟩ := (Weir.bounded_iff _).1 h
  rw [List.getD_eq_getElem?_getD]
  cases hd : w.td[d]? with
  | none => exact Nat.zero_le 8
  | some l => exact htd l (List.mem_of_getElem? hd)

theorem exec_thermalLoopTick_keeps {s t : State} {temps : List (Nat × Nat)} (h : exec (.thermalLoopTick temps) s = .next t) : s.Keeps t := by
  dsimp only [exec] at h
  refine State.keeps_of_run h ?_
  have hread : s.Keeps (s.setWeir fun w => { w with
      temps := (temps.filter fun e => decide (e.1 < 6) || (decide (8 ≤ e.1) && decide (e.1 < 16))).foldl
        (fun m e => SMap.set 0 m e.1 (e.2 + 1)) w.temps }) := s.keeps_refl.setWeir id
  have hunpinned (p : Prop) [Decidable p] := State.keeps_ite (p := p) (fun _ => hread.endPin 2) fun _ => hread
  refine State.keeps_ite (fun _ => hunpinned _) fun _ => ?_
  refine State.keeps_ite (fun _ => (hunpinned _).setThermal fun hb d => ?_) fun _ =>
    ((hunpinned _).setThermal fun hb d => ?_).rateChanged
  all_goals exact level_le (Weir.td_getD_le hb d) _ _

theorem exec_thermalEmergency_keeps {s t : State} {die temp : Nat} (h : exec (.thermalEmergency die temp) s = .next t) : s.Keeps t := by
  dsimp only [exec] at h
  refine State.keeps_of_run h (State.keeps_when fun _ => ?_)
  have hpin : s.Keeps ((((s.setWeir fun w => { w with emergency := w.emergency.set die true }).rateChanged).eventPF 0x0802 die stOk
      (temp % 256 + 256) 0).endPin 3) :=
    (((s.keeps_refl.setWeir id).rateChanged).eventPF ..).endPin 3
  dsimp only
  split
  · exact hpin.frame (by simp)
  · exact hpin.moveOpp _ fun _ => by decide

theorem exec_thermalRestart_keeps {s t : State} {die micros : Nat} (h : exec (.thermalRestart die micros) s = .next t) : s.Keeps t := by
  dsimp only [exec] at h
  refine State.keeps_of_run h (State.keeps_when fun _ => ?_)
  have hweir : s.Keeps (s.setWeir fun w => { w with
      emergency := w.emergency.set die false, td := if die < 4 then w.td.set die 8 else w.td,
      coolMs := if die < 4 then w.coolMs.set die 0 else w.coolMs }) := s.keeps_refl.setWeir fun hs => by
    obtain ⟨hopp, htp, hlen, htd, hrest⟩ := (Weir.bounded_iff _).1 hs
    refine (Weir.bounded_iff _).2 ⟨hopp, htp, ?_, fun l hl => ?_, hrest⟩
    · dsimp only
      split <;> simp [hlen]
    · dsimp only at hl
      split at hl
      · obtain hl | rfl := List.mem_or_eq_of_mem_set hl
        · exact htd l hl
        · exact Nat.le_refl 8
      · exact htd l hl
  have hdrawn := hweir.rateChanged.frame (State.draw_frame _)
  exact State.keeps_ite (fun _ => hdrawn.frame (by simp)) fun _ => hdrawn.eventPF ..

theorem exec_avsTick_keeps {s t : State} {rail : Nat} {slack : Int} (h : exec (.avsTick rail slack) s = .next t) : s.Keeps t := by
  dsimp only [exec] at h
  exact State.keeps_of_run h (State.keeps_when fun _ => s.keeps_refl.setWeir id)

theorem exec_droopDetected_keeps {s t : State} {die : Nat} (h : exec (.droopDetected die) s = .next t) : s.Keeps t := by
  dsimp only [exec] at h
  exact State.keeps_of_run h (State.keeps_when fun _ =>
    (s.keeps_refl.setWeir id).rateChanged.endPin 4)

theorem exec_stretchEnd_keeps {s t : State} {die : Nat} (h : exec (.stretchEnd die) s = .next t) : s.Keeps t := by
  dsimp only [exec] at h
  exact State.keeps_of_run h (State.keeps_when fun _ => (s.keeps_refl.setWeir id).rateChanged)

theorem exec_regulatorFault_keeps {s t : State} {rail : Nat} {starts : Bool} (h : exec (.regulatorFault rail starts) s = .next t) :
    s.Keeps t := by
  dsimp only [exec] at h
  exact State.keeps_of_run h (State.keeps_when fun _ => (s.keeps_refl.setWeir id).eventPF ..)

theorem exec_oppPin_keeps {s t : State} {fn : Nat} (h : exec (.oppPin fn) s = .next t) : s.Keeps t := by
  dsimp only [exec] at h
  refine State.keeps_of_run h (State.keeps_command (fun t p => by simp [stBadLength, stConflict, stOk]) fun t p hchecks => ?_)
  have hopp : t.w 8 < 8 := by simpa using hchecks _ (List.mem_cons_self ..)
  dsimp only
  (repeat' split)
  · exact s.keeps_refl
  · exact s.keeps_refl
  · refine (s.keeps_refl.moveOpp 4 fun _ => hopp).setWeir fun hs => ?_
    obtain ⟨hopp, -, hlen, htd, -, hcap⟩ := (Weir.bounded_iff _).1 hs
    exact (Weir.bounded_iff _).2 ⟨hopp, Nat.zero_le 8, hlen, htd, Nat.zero_le _, hcap⟩

theorem exec_oppRelease_keeps {s t : State} {fn : Nat} (h : exec (.oppRelease fn) s = .next t) : s.Keeps t := by
  dsimp only [exec] at h
  refine State.keeps_of_run h (State.keeps_command (fun t p => by simp [stBadOpcode, stOk]) fun t p _ => ?_)
  dsimp only
  split
  · refine s.keeps_refl.setWeir fun hs => ?_
    obtain ⟨hopp, htp, hlen, htd, -, hcap⟩ := (Weir.bounded_iff _).1 hs
    exact (Weir.bounded_iff _).2 ⟨hopp, htp, hlen, htd, Nat.zero_le _, hcap⟩
  · exact s.keeps_refl

theorem exec_powerCap_keeps {s t : State} {fn : Nat} (h : exec (.powerCap fn) s = .next t) : s.Keeps t := by
  dsimp only [exec] at h
  refine State.keeps_of_run h (State.keeps_command (fun t p => by simp [stBadLength, stOk]) fun t p hchecks => ?_)
  have hcap : 600 ≤ t.w 8 ∧ t.w 8 ≤ 1400 := by simpa using hchecks _ (List.mem_cons_self ..)
  exact State.keeps_setCap hcap.1 hcap.2

theorem exec_setnumericeffectervalue_keeps {s t : State} {port id value : Nat}
    (h : exec (.setnumericeffectervalue port id value) s = .next t) : s.Keeps t := by
  simp only [exec, execSetnumericeffectervalue, Host.Outcome.next.injEq] at h
  subst h
  refine State.keeps_when fun _ => ?_
  split
  · exact State.keeps_of_frame (by simp)
  · next hgood =>
    obtain ⟨-, hcap⟩ := not_or.1 hgood
    obtain ⟨hlow, hhigh⟩ := not_or.1 hcap
    exact (State.keeps_setCap (Nat.not_lt.1 hlow) (Nat.not_lt.1 hhigh)).frame (State.reply_frame ..)

theorem exec_reset_keeps {c : Instr} {s t : State} (hc : c = .porstAssert ∨ (∃ cause, c = .deviceReset cause) ∨ ∃ rail, c = .railUndervoltage rail)
    (h : exec c s = .next t) : s.Keeps t := by
  obtain rfl | ⟨cause, rfl⟩ | ⟨rail, rfl⟩ := hc
  · simp only [exec, execPorstAssert, Host.Outcome.next.injEq] at h
    subst h
    refine State.keeps_when fun _ => ?_
    split
    · exact State.keeps_of_frame rfl
    · exact State.keeps_startReset ..
  · simp only [exec, execDeviceReset, Host.Outcome.next.injEq] at h
    subst h
    exact State.keeps_when fun _ => State.keeps_startReset ..
  · simp only [exec, execRailUndervoltage, Host.Outcome.next.injEq] at h
    subst h
    exact State.keeps_when fun _ => State.keeps_wholeReset ..

theorem exec_bringUpStage_keeps {s t : State} {hbmFail : BitVec 8} {arrays tiles : List Nat} {north south : Bool}
    (h : exec (.bringUpStage hbmFail arrays tiles north south) s = .next t) : s.Keeps t := by
  simp only [exec, execBringUpStage, Host.Outcome.next.injEq] at h
  subst h
  refine State.keeps_when fun _ => ?_
  split
  case h_4 => exact State.Keeps.trans (State.keeps_of_frame (by simp)) (State.keeps_stageReady _)
  all_goals exact State.keeps_of_frame (by simp)

theorem exec_markerPeriod_keeps {s t : State} {link corrected : Nat} (h : exec (.markerPeriod link corrected) s = .next t) : s.Keeps t := by
  simp only [exec, execMarkerPeriod, Host.Outcome.next.injEq] at h
  subst h
  refine State.keeps_when fun _ => ?_
  split
  · exact State.keeps_lastPeriod ..
  · exact State.keeps_of_frame (by simp)

/-- Every command keeps the queue of commands and the bounds of the Weir. -/
theorem exec_keeps {c : Instr} {s t : State} (h : exec c s = .next t) : s.Keeps t := by
  by_cases hc : movesWeir c = true
  · cases c with
    | powerSample => exact exec_powerSample_keeps h
    | powerLoopTick => exact exec_powerLoopTick_keeps h
    | freqStep => exact exec_freqStep_keeps h
    | thermalLoopTick => exact exec_thermalLoopTick_keeps h
    | thermalEmergency => exact exec_thermalEmergency_keeps h
    | thermalRestart => exact exec_thermalRestart_keeps h
    | avsTick => exact exec_avsTick_keeps h
    | droopDetected => exact exec_droopDetected_keeps h
    | stretchEnd => exact exec_stretchEnd_keeps h
    | regulatorFault => exact exec_regulatorFault_keeps h
    | oppPin => exact exec_oppPin_keeps h
    | oppRelease => exact exec_oppRelease_keeps h
    | powerCap => exact exec_powerCap_keeps h
    | setnumericeffectervalue => exact exec_setnumericeffectervalue_keeps h
    | porstAssert => exact exec_reset_keeps (.inl rfl) h
    | deviceReset => exact exec_reset_keeps (.inr (.inl ⟨_, rfl⟩)) h
    | railUndervoltage => exact exec_reset_keeps (.inr (.inr ⟨_, rfl⟩)) h
    | bringUpStage => exact exec_bringUpStage_keeps h
    | markerPeriod => exact exec_markerPeriod_keeps h
    | _ => cases hc
  · exact State.keeps_of_frame (exec_frame (Bool.eq_false_iff.2 hc) h)

/-! ### The obligations -/

/-- Settles O60: a cycle leaves the Weir alone, and every command keeps its bounds. -/
theorem stepsKeepTheWeirBounds : Obligations.StepsKeepTheWeirBounds := by
  unfold Obligations.StepsKeepTheWeirBounds
  intro s t hs hstep
  unfold step at hstep
  split at hstep
  · cases hstep
    exact (State.keeps_of_frame s.tick_frame).2 hs
  · exact (exec_keeps hstep).2 hs

/-- Settles O58: the queue by what every command keeps, the Weir by what the others leave alone. -/
theorem commandsLeaveTheQueueAndOthersTheWeir : Obligations.CommandsLeaveTheQueueAndOthersTheWeir := by
  unfold Obligations.CommandsLeaveTheQueueAndOthersTheWeir
  exact ⟨fun c s t h => (exec_keeps h).1, fun c s t hc h => congrArg Prod.fst (exec_frame hc h)⟩

end Sys2Proof.Machine
end

section
/-! A step runs the command at the front of the queue, and without one lets a cycle pass; the bounds of the Weir after reset. -/

namespace Sys2Proof.Machine

/-! ### One cycle -/

/-- The time and the boot state, from which it follows whether the device serves anything. -/
def State.clock (s : State) : Nat × Boot := (s.time, s.boot)

theorem State.clock_of_besideEvents {s u : State} (h : u.besideEvents = s.besideEvents) : u.clock = s.clock :=
  Prod.ext (congrArg State.time h :) (congrArg State.boot h :)

theorem clock_ite {s t u : State} {p : Prop} [Decidable p] (ht : t.clock = s.clock) (hu : u.clock = s.clock) :
    (if p then t else u).clock = s.clock := by
  split
  · exact ht
  · exact hu

theorem State.noteDrop_clock (s : State) (code first : Nat) : (s.noteDrop code first).clock = s.clock := by
  unfold State.noteDrop
  exact clock_ite ((State.clock_of_besideEvents (State.eventTo_besideEvents ..)).trans rfl) rfl

theorem State.arrive_clock (s : State) (link : Option Nat) (vc : Nat) (p : List Byte) : (s.arrive link vc p).clock = s.clock := by
  unfold State.arrive
  split
  · exact State.noteDrop_clock ..
  · rfl

theorem State.takeFlits_clock (k : Nat) (s : State) (n : Nat) : (takeFlits k s n).clock = s.clock := by
  induction k generalizing s with
  | zero => rfl
  | succ k ih =>
    unfold State.takeFlits
    split
    · rfl
    · exact ih _
    · exact (ih _).trans (State.arrive_clock ..)

theorem State.linksTick_clock (s : State) : s.linksTick.clock = s.clock := by
  have hfold (l : List (Nat × Link)) (s : State) :
      (l.foldl (fun s e => takeFlits ((oppOf s.weir.opp).rootmul / 2) s e.1) s).clock = s.clock := by
    induction l generalizing s with
    | nil => rfl
    | cons e l ih => exact (ih _).trans (State.takeFlits_clock ..)
  exact hfold s.links s

theorem State.clockTick_clock (s : State) : s.clockTick.clock = (s.time + 1, s.boot) := by
  unfold State.clockTick
  dsimp only
  split <;> rfl

theorem State.live_congr {s t : State} (h : t.boot = s.boot) : t.live = s.live := by
  unfold State.live
  rw [h]

/-- The time of a device that is not live goes on all the same. -/
theorem State.tick_time_of_not_live {s : State} (hporst : s.boot.porst = false) (hlive : s.live = false) : s.tick.time = s.time + 1 := by
  have hclock : (if s.clockTick.linksUp then s.clockTick.linksTick else s.clockTick).clock = (s.time + 1, s.boot) := by
    split
    · exact (State.linksTick_clock _).trans s.clockTick_clock
    · exact s.clockTick_clock
  obtain ⟨htime, hboot⟩ := Prod.mk.inj hclock
  unfold State.tick
  rw [if_neg (by simp [hporst])]
  dsimp only
  rw [if_pos (by rw [State.live_congr hboot, hlive]; rfl)]
  exact htime

/-! ### The obligations -/

/-- Settles O1: by the definition of a step. -/
theorem stepRunsTheFrontCommand : Obligations.StepRunsTheFrontCommand := by
  unfold Obligations.StepRunsTheFrontCommand
  exact fun _ _ _ => rfl

/-- Settles O57: neither the clocks nor the links of a device that is not live touch the time or the boot state beyond the cycle itself. -/
theorem idleStepPassesTime : Obligations.IdleStepPassesTime := by
  unfold Obligations.IdleStepPassesTime
  intro s hidle
  refine ⟨?_, (congrArg Prod.snd s.tick_frame).trans hidle, fun hporst => if_pos hporst, State.tick_time_of_not_live⟩
  unfold step
  rw [hidle]

/-- Settles O59: the bounds are those of the reset values. -/
theorem weirBoundsAtReset : Obligations.WeirBoundsAtReset := by
  unfold Obligations.WeirBoundsAtReset
  decide

end Sys2Proof.Machine
end

section
/-! What PORST# leaves (R541, R544, R549, R597). -/

namespace Sys2Proof.Machine

/-- Settles O47: each store of the reset state is empty and answers with its reset value; a function's comes from `State.reset_func`. -/
theorem resetLeaves : Obligations.ResetLeaves := by
  unfold Obligations.ResetLeaves
  rw [State.reset_func 0, if_pos rfl]
  refine ⟨rfl, rfl, rfl, rfl, rfl, rfl, rfl, rfl, rfl, rfl, rfl, rfl, fun _ => rfl, fun _ => rfl, fun _ _ => rfl, fun _ => rfl,
    fun _ => rfl, fun _ _ => rfl, fun _ => rfl, rfl, rfl, rfl, rfl, rfl, rfl, fun n hn => ?_, rfl, rfl, rfl, rfl, rfl⟩
  rw [State.reset_func, if_neg hn]

end Sys2Proof.Machine
end

section
/-! The management ports: SPDM, MCTP and PLDM requests (R551 to R555). -/

namespace Sys2Proof.Machine

theorem State.when_of {c : Bool} (h : c = true) (s : State) (f : State → State) : s.when c f = f s := by rw [h, State.when_true]

theorem State.when_of_not {c : Bool} (h : c = false) (s : State) (f : State → State) : s.when c f = s := by rw [h, State.when_false]

/-! ### A port that takes a request -/

theorem State.ask_up {s : State} {up : Bool} (h : up = true) (port : Nat) (r : Reply) : s.ask up port r = .next (s.reply port r) :=
  congrArg _ (State.when_of h ..)

/-- GET_MEASUREMENTS of one block, without a signature. -/
theorem exec_getMeasurements_block {s : State} {port i : Nat} {block : List Byte} (hup : s.portUp port = true) (hi : i ≠ 0xFF)
    (hblock : s.measurement i = some block) :
    exec (.getMeasurements port i false []) s = .next (s.reply port (.measurements [(i, block)] [])) := by
  change execGetMeasurements port i false [] s = _
  unfold execGetMeasurements
  rw [State.when_of (by rw [hup]; rfl)]
  simp [hi, hblock]

theorem exec_spdm_asks {s : State} {port : Nat} {c : Instr} {r : Reply} (h : (c, r) ∈ [(Instr.getVersion port, Reply.versions [0x12, 0x13]),
        (.getCapabilities port, .capabilities true true true false), (.negotiateAlgorithms port true true, .algorithms),
        (.negotiateAlgorithms port false true, .unsupported), (.getDigests port, .digests (sha384 Config.certChain)),
        (.getCertificate port 0 0 64, .certificate 0 (Config.certChain.take 64)), (.getCertificate port 1 0 64, .unsupported)]) :
    exec c s = s.ask (s.portUp port) port r := by
  simp only [List.mem_cons, List.not_mem_nil, or_false, Prod.mk.injEq] at h
  obtain ⟨rfl, rfl⟩ | ⟨rfl, rfl⟩ | ⟨rfl, rfl⟩ | ⟨rfl, rfl⟩ | ⟨rfl, rfl⟩ | ⟨rfl, rfl⟩ | ⟨rfl, rfl⟩ := h
  all_goals rfl

/-- CHALLENGE of slot 0. -/
theorem exec_challenge {s : State} {port : Nat} {nonce : List Byte} (hup : s.portUp port = true) (hlen : nonce.length = 32) :
    exec (.challenge port 0 nonce) s = .next (s.draw.2.reply port
      (.challengeAuth (sha384 Config.certChain) (freeBytes 32 s.draw.1) (freeBytes 96 (s.draw.1 / 2 ^ 256)))) :=
  congrArg _ (State.when_of (by rw [hup, hlen]; rfl) ..)

theorem exec_mctp_pldm_asks {s : State} {port : Nat} {c : Instr} {r : Reply}
    (h : (c, r) ∈ [(Instr.getEndpointId port, Reply.endpoint (SMap.get ({} : Port) s.mgmt.ports port).eid),
          (.getMessageTypeSupport port, .msgTypes [0, 1, 5]), (.gettid port, .tid s.mgmt.tid), (.getpldmtypes port, .msgTypes [0, 2]),
          (.getpdrrepositoryinfo port, .repository 20), (.getpdr port 20, .pdr 20 "numeric effecter" "power cap"),
          (.getpdr port 21, .invalidData), (.getstatesensorreadings port 19, .state 19 s.stateSensor),
          (.getnumericeffectervalue port 20, .effecter 20 s.weir.cap),
          (.getpldmcommands port 0, .commands ["GetTID", "SetTID", "GetPLDMVersion", "GetPLDMTypes", "GetPLDMCommands"]),
          (.getpldmcommands port 5, .invalidData)]) :
    exec c s = s.ask (s.smbUp port) port r := by
  simp only [List.mem_cons, List.not_mem_nil, or_false, Prod.mk.injEq] at h
  obtain ⟨rfl, rfl⟩ | ⟨rfl, rfl⟩ | ⟨rfl, rfl⟩ | ⟨rfl, rfl⟩ | ⟨rfl, rfl⟩ | ⟨rfl, rfl⟩ | ⟨rfl, rfl⟩ | ⟨rfl, rfl⟩ | ⟨rfl, rfl⟩ | ⟨rfl, rfl⟩
    | ⟨rfl, rfl⟩ := h
  all_goals rfl

theorem exec_getsensorreading {s : State} {port id : Nat} (hup : s.smbUp port = true) (hlow : 1 ≤ id) (hhigh : id ≤ 18) :
    exec (.getsensorreading port id) s = .next (s.draw.2.reply port (.reading id (s.draw.2.sensor id s.draw.1))) := by
  refine congrArg _ ((State.when_of hup ..).trans ?_)
  rw [if_pos ⟨hlow, hhigh⟩]

theorem exec_setEndpointId {s : State} {port eid : Nat} (hup : s.smbUp port = true) (hlow : 1 ≤ eid) (hhigh : eid ≤ 254) :
    exec (.setEndpointId port eid) s =
      .next (({ s with mgmt := { s.mgmt with ports := SMap.set {} s.mgmt.ports port { eid := eid } } } : State).reply port (.endpoint eid)) := by
  refine congrArg _ ((State.when_of hup ..).trans ?_)
  rw [if_neg (by omega)]

theorem exec_settid {s : State} {port tid : Nat} (hup : s.smbUp port = true) (hlow : 1 ≤ tid) (hhigh : tid ≤ 254) :
    exec (.settid port tid) s = .next (({ s with mgmt := { s.mgmt with tid := tid } } : State).reply port .success) := by
  refine congrArg _ ((State.when_of hup ..).trans ?_)
  rw [if_neg (by omega)]

/-- SetNumericEffecterValue of the power cap. -/
theorem exec_setnumericeffectervalue_cap {s : State} {port watts : Nat} (hup : s.smbUp port = true) (hlow : 600 ≤ watts)
    (hhigh : watts ≤ 1400) : exec (.setnumericeffectervalue port 20 watts) s = .next ((s.setCap watts).reply port .success) := by
  refine congrArg _ ((State.when_of hup ..).trans ?_)
  rw [if_neg (by omega)]

/-- Settles O53: each request by its own equation; of the power cap what `State.setCap` does to the Weir. -/
theorem managementRequestsAnswer : Obligations.ManagementRequestsAnswer := by
  unfold Obligations.ManagementRequestsAnswer
  refine fun s port => ⟨fun c r h hup => ?spdm, fun nonce => exec_challenge, fun hup => ⟨fun c r h => ?pldm, ?_, ?_,
    fun id => exec_getsensorreading hup, fun eid => exec_setEndpointId hup, fun tid => exec_settid hup, fun watts hlow hhigh => ?cap⟩⟩
  case spdm =>
    obtain h | h := (List.mem_append (s := [_, _, _, _, _, _, _]) (t := [_, _])).1 h
    · exact (exec_spdm_asks h).trans (State.ask_up hup ..)
    · simp only [List.mem_cons, List.not_mem_nil, or_false, Prod.mk.injEq] at h
      obtain ⟨rfl, rfl⟩ | ⟨rfl, rfl⟩ := h
      · exact exec_getMeasurements_block hup (by decide) rfl
      · exact exec_getMeasurements_block hup (by decide) rfl
  case pldm => exact (exec_mctp_pldm_asks h).trans (State.ask_up hup ..)
  case cap =>
    obtain ⟨hcap, hopp, -⟩ := s.setCap_weir watts
    exact ⟨_, exec_setnumericeffectervalue_cap hup hlow hhigh, hcap, hopp⟩
  · exact congrArg _ (State.when_of hup ..)
  · exact congrArg _ (State.when_of hup ..)

end Sys2Proof.Machine
end

section
/-! Configuration space: function-level reset, virtual functions, Bus Master Enable and Memory Space Enable (R533, R536, R537). -/

namespace Sys2Proof.Machine

/-! ### A function after a function-level reset (R537) -/

/-- A function as a function-level reset leaves it. -/
def Func.flr (f : Func) (fn : Nat) : Func :=
  { f with mbx := {}, irqStatus := 0, irqEnable := if fn = 0 then 6 else 2, badAccess := none, badOld := (0, 0), scratch := 0,
           vecOpen := [], pba := [], table := [] }

/-! ### What an abort and the end of a launch leave of the functions -/

namespace State

/-- Which functions there are. -/
def presence (s : State) (fn : Nat) : Bool := (s.func fn).present

theorem foldl_presence {α : Type} {f : State → α → State} (h : ∀ s a, (f s a).presence = s.presence) (l : List α) (s : State) :
    (l.foldl f s).presence = s.presence := by
  induction l generalizing s with
  | nil => rfl
  | cons a l ih => rw [List.foldl_cons, ih, h]

theorem serve_presence (s : State) (k : Nat) : (s.serve k).presence = s.presence := by
  unfold serve
  dsimp only
  split
  · split <;> rfl
  · rfl

theorem finish_presence (s : State) (q : Nat) (seq : BitVec 32) (st : Word16) (detail : Nat) :
    (s.finish q seq st detail).presence = s.presence := rfl

theorem endChan_presence (s : State) (k : Nat) (st : Word16) : (s.endChan k st).presence = s.presence := by
  unfold endChan
  dsimp only
  split
  · rfl
  · exact serve_presence _ k

theorem stopTiles_presence (s : State) (part : Nat) : (s.stopTiles part).presence = s.presence := foldl_presence (fun _ _ => by rfl) _ s

theorem abortLaunch_presence (s : State) (l : Launch) : (s.abortLaunch l).presence = s.presence := by
  unfold abortLaunch
  split
  · exact stopTiles_presence _ _
  · split <;> rfl
  · split <;> rfl
  · rfl

theorem cancelSave_presence (s : State) (q : Nat) (seq : BitVec 32) : (s.cancelSave q seq).presence = s.presence := by
  unfold cancelSave
  split
  · exact foldl_presence (fun _ _ => by rfl) _ _
  · rfl

theorem endColl_presence (s : State) (i : Nat) (k : Coll) (st : Word16) : (s.endColl i k st).presence = s.presence := by
  unfold endColl
  split <;> rfl

theorem haltChan_presence (s : State) (k : Nat) (st : Word16) (fault : Nat) : (s.haltChan k st fault).presence = s.presence := by
  unfold haltChan
  split
  · exact endChan_presence s k st
  · rfl

theorem abortDma_presence (s : State) (q : Nat) (seq : BitVec 32) : (s.abortDma q seq).presence = s.presence := by
  have hhalted : ∀ (s : State) (e : Nat × Chan), (match (s.chan e.1).pkt with
      | some p =>
        if p.queue = q ∧ p.seq = seq then
          let s1 := s.haltChan e.1 stAborted 0
          if (s.chan e.1).runs.isEmpty then s1
          else s1.modChan e.1 (fun c => { c with st := .active, stop := some stAborted, headErr := none })
        else s
      | none => s).presence = s.presence := fun s e => by
    split
    · split
      · dsimp only
        split <;> exact haltChan_presence s e.1 stAborted 0
      · rfl
    · rfl
  unfold abortDma
  dsimp only
  split
  · exact foldl_presence hhalted s.chans s
  · exact foldl_presence hhalted s.chans s

theorem abortPacket_presence (s : State) (p : Packet) : (s.abortPacket p).presence = s.presence := by
  unfold abortPacket
  split
  · rfl
  · split
    · exact abortLaunch_presence ..
    · rfl
  · exact abortDma_presence ..
  · split
    · exact endColl_presence ..
    · rfl
  · exact cancelSave_presence ..
  all_goals rfl

theorem abortQueue_presence (s : State) (q : Nat) : (s.abortQueue q).presence = s.presence := foldl_presence abortPacket_presence _ s

theorem dropQueue_presence (s : State) (q : Nat) : (s.dropQueue q).presence = s.presence := rfl

theorem put_presence (s : State) (p : Place) (bs : List Byte) : (s.put p bs).presence = s.presence := by
  cases p with
  | hbm pa => 
    unfold put countHbm
    dsimp only
    split
    · rfl
    · exact foldl_presence (fun _ _ => by rfl) _ s
  | tile sp ph off => rfl
  | host fn a =>
    unfold put
    dsimp only
    split <;> rfl

theorem putAll_presence (s : State) (ps : List (Place × Nat)) (bs : List Byte) : (s.putAll ps bs).presence = s.presence := by
  induction ps generalizing s bs with
  | nil => rfl
  | cons p ps ih => rw [putAll, ih, put_presence]

theorem storeOrLose_presence (s : State) (a : Agent) (da : Nat) (bs : List Byte) : (s.storeOrLose a da bs).presence = s.presence := by
  unfold storeOrLose store
  split
  · next h =>
    split at h
    · cases h
    · split at h
      · cases h
      · cases h
        exact putAll_presence s _ bs
  · rfl

theorem raise_presence (s : State) (fn v : Nat) : (s.raise fn v).presence = s.presence := by
  funext g
  unfold presence
  rw [func_raise]
  split
  · next h =>
    rw [h, Func.raise]
    split <;> rfl
  · rfl

theorem writeRecord_presence (s : State) (q : Nat) (bs : List Byte) : (s.writeRecord q bs).presence = s.presence := by
  unfold writeRecord
  dsimp only
  split
  · exact (raise_presence ..).trans (storeOrLose_presence ..)
  · exact storeOrLose_presence ..

theorem pushRecord_presence (s : State) (q : Nat) (bs : List Byte) : (s.pushRecord q bs).presence = s.presence := by
  unfold pushRecord
  dsimp only
  split
  · rfl
  · split
    · rfl
    · exact writeRecord_presence ..

theorem freeTiles_presence (s : State) (l : List Nat) : (l.foldl freeTile s).presence = s.presence := foldl_presence (fun _ _ => by rfl) l s

theorem collect_presence (s : State) (l : Launch) : (s.collect l).presence = s.presence := by
  unfold collect
  extract_lets ts st recs s1 q lr s2 s3 s4
  have hs1 : s1.presence = s.presence := by
    unfold s1
    split
    · rfl
    · exact storeOrLose_presence ..
  have hs2 : s2.presence = s1.presence := by
    unfold s2
    split
    · exact foldl_presence (fun _ _ => pushRecord_presence ..) _ _
    · rfl
  have hs3 : s3.presence = s2.presence := by
    unfold s3
    split
    · exact freeTiles_presence ..
    · rfl
  have hs4 : s4.presence = s3.presence := by
    unfold s4
    split <;> rfl
  calc (s4.modLaunch _ _ _).presence = s4.presence := rfl
    _ = s.presence := by rw [hs4, hs3, hs2, hs1]

theorem reapLaunch_presence (s : State) (l : Launch) : (s.reapLaunch l).presence = s.presence := by
  unfold reapLaunch
  extract_lets s1 s2
  have hs1 : s1.presence = s.presence := by
    unfold s1
    split
    · exact foldl_presence (fun _ _ => by rfl) _ _
    · rfl
  have hs2 : s2.presence = s1.presence := by
    unfold s2
    split
    · exact collect_presence ..
    · rfl
  exact hs2.trans hs1

theorem flrQueues_presence (s : State) (fn : Nat) : (s.flrQueues fn).presence = s.presence := by
  unfold flrQueues
  extract_lets qs s1 s2 mine s3 s4
  have hs1 : s1.presence = s.presence := foldl_presence abortQueue_presence qs s
  have hs2 : s2.presence = s1.presence := foldl_presence dropQueue_presence qs s1
  have hs3 : s3.presence = s2.presence := foldl_presence reapLaunch_presence _ s2
  have hs4 : s4.presence = s3.presence := foldl_presence (fun _ _ => endChan_presence ..) _ s3
  calc _ = s4.presence := rfl
    _ = s.presence := by rw [hs4, hs3, hs2, hs1]

/-! ### Function-level reset (R537) -/

/-- A function that created no queue: nothing is aborted. -/
theorem flrQueues_of_no_queue {s : State} {fn : Nat} (h : ∀ e ∈ s.queues, e.2.created = true → e.2.owner ≠ fn) :
    (s.flrQueues fn).func = s.func := by
  have hnone : s.queues.filter (fun e => e.2.created && e.2.owner == fn) = [] := by
    refine List.filter_eq_nil_iff.2 fun e he hmine => ?_
    obtain ⟨hcreated, howner⟩ := Bool.and_eq_true_iff.1 hmine
    exact h e he hcreated (eq_of_beq howner)
  unfold flrQueues
  simp only [hnone, List.map_nil, List.foldl_nil, List.contains_nil, Bool.false_and, Bool.or_false, List.filter_false]
  rw [List.filter_eq_nil_iff.2 fun e _ => by cases e.2.pkt <;> simp]
  rfl

theorem func_flr {s : State} {fn : Nat} (h : (s.func fn).present = true) : (s.flr fn).func fn = ((s.flrQueues fn).func fn).flr fn := by
  have hpresent : ((s.flrQueues fn).func fn).present = true := (congrFun (s.flrQueues_presence fn) fn).trans h
  exact func_modFunc_present (s := { s.flrQueues fn with
    arms := (s.flrQueues fn).arms.filter (fun a => a.2.fn != fn), gos := (s.flrQueues fn).gos.filter (· != fn),
    taken := (s.flrQueues fn).taken.map (fun t => if t.fn = fn then { t with lost := true } else t),
    pinWait := (s.flrQueues fn).pinWait.map (fun t => if t.fn = fn then { t with lost := true } else t) }) (f := (·.flr fn)) hpresent

theorem flr_arms (s : State) (fn : Nat) : ∀ a ∈ (s.flr fn).arms, a.2.fn ≠ fn := by
  intro a ha
  simpa using (List.mem_filter.1 ha).2

theorem flr_gos (s : State) (fn : Nat) : fn ∉ (s.flr fn).gos := by
  intro h
  simpa using (List.mem_filter.1 h).2

/-! ### Virtual functions (R533) -/

theorem func_addVf (s : State) (k g : Nat) :
    (s.addVf k).func g = if g = k ∧ (s.func k).present = false then { present := true, irqEnable := 2 } else s.func g := by
  unfold addVf
  split
  · next h => simp [h]
  · next h =>
    rw [func_setFunc_ne _ (Func.ne_default_of_present rfl)]
    simp [h]

theorem foldl_addVf (l : List Nat) (s : State) (g : Nat) :
    (l.foldl addVf s).func g =
      if g ∈ l ∧ (s.func g).present = false then { present := true, irqEnable := 2 } else s.func g := by
  induction l generalizing s with
  | nil => simp
  | cons k l ih =>
    rw [List.foldl_cons, ih, func_addVf]
    by_cases hk : g = k ∧ (s.func k).present = false
    · obtain ⟨rfl, hnew⟩ := hk
      simp [hnew]
    · rw [if_neg hk]
      by_cases hgk : g = k
      · subst hgk
        simp_all
      · simp [hgk]

theorem addVf_config (s : State) (k : Nat) : (s.addVf k).vfEnable = s.vfEnable ∧ (s.addVf k).numVfs = s.numVfs := by
  unfold addVf
  split <;> exact ⟨rfl, rfl⟩

theorem foldl_addVf_config (l : List Nat) (s : State) :
    (l.foldl addVf s).vfEnable = s.vfEnable ∧ (l.foldl addVf s).numVfs = s.numVfs := by
  induction l generalizing s with
  | nil => exact ⟨rfl, rfl⟩
  | cons k l ih =>
    obtain ⟨henable, hnum⟩ := s.addVf_config k
    rw [List.foldl_cons, (ih _).1, (ih _).2]
    exact ⟨henable, hnum⟩

/-- The state in which `n` virtual functions have come to exist. -/
def withVfs (s : State) (n : Nat) : State :=
  ((List.range 65).filter (fun k => k != 0 && decide (k ≤ n))).foldl addVf { s with vfEnable := true, numVfs := n }

theorem func_withVfs (s : State) {n : Nat} (hn : n ≤ 64) (g : Nat) :
    (s.withVfs n).func g =
      if 1 ≤ g ∧ g ≤ n ∧ (s.func g).present = false then { present := true, irqEnable := 2 } else s.func g := by
  have hmem : g ∈ (List.range 65).filter (fun k => k != 0 && decide (k ≤ n)) ↔ 1 ≤ g ∧ g ≤ n := by
    simp only [List.mem_filter, List.mem_range, bne_iff_ne, Bool.and_eq_true, decide_eq_true_eq]
    omega
  unfold withVfs
  rw [foldl_addVf]
  simp only [hmem, and_assoc]
  rfl

end State

theorem exec_vfEnableChange {s : State} {n : Nat} (hup : s.boot.pcieUp = true) (hoff : s.vfEnable = false) (hn : n ≤ 64) :
    exec (.vfEnableChange true n) s = .next (s.withVfs n) := by
  change execVfEnableChange true n s = _
  unfold execVfEnableChange
  have hdrop : (List.range 65).filter (fun k => decide (n < k) && decide (k = 0)) = [] := by
    refine List.filter_eq_nil_iff.2 fun k _ => ?_
    simp only [Bool.and_eq_true, decide_eq_true_eq]
    omega
  simp [hup, hoff, hn, hdrop, State.withVfs]

/-! ### Bus Master Enable (R536, R546) -/

theorem Func.release_on {f : Func} (h : f.bme = true) :
    f.release.bme = true ∧ (∀ v ∈ f.release.pba, f.vecOpen.contains v = false)
      ∧ (∀ v ∈ f.pba, f.vecOpen.contains v = true → v ∈ f.release.sent) := by
  unfold Func.release
  rw [if_neg (by simp [h])]
  refine ⟨h, fun v hv => ?_, fun v hv hopen => ?_⟩
  · simpa using (List.mem_filter.1 hv).2
  · exact List.mem_append_left _ (List.mem_reverse.2 (List.mem_filter.2 ⟨hv, hopen⟩))

theorem Func.release_present (f : Func) : f.release.present = f.present := by
  unfold Func.release
  split <;> rfl

theorem exec_busMasterEnableChange {s : State} {fn : Nat} (hup : s.boot.pcieUp = true) (hpresent : (s.func fn).present = true) (on : Bool) :
    exec (.busMasterEnableChange fn on) s = .next (s.modFunc fn (fun f => { f with bme := on }.release)) :=
  congrArg _ (State.when_of (by rw [hpresent, hup]; rfl) ..)

/-- Settles O51: what `State.flr` does to the function it resets, `State.withVfs` to every function, and `Func.release` to a function's
messages. -/
theorem configurationSpaceCommands : Obligations.ConfigurationSpaceCommands := by
  unfold Obligations.ConfigurationSpaceCommands
  refine fun s fn hup => ⟨fun hpresent => ?flr, fun n hoff hn => ?vfs, fun hpresent => ⟨fun on => ?mse, ?bmeOff, ?bmeOn⟩⟩
  case flr =>
    rw [State.func_flr hpresent]
    refine ⟨?_, rfl, rfl, rfl, rfl, rfl, rfl, rfl, fun hnone => ?_, s.flr_arms fn, s.flr_gos fn⟩
    · exact congrArg _ (State.when_of (by rw [hpresent, hup]; rfl) ..)
    · rw [State.flrQueues_of_no_queue hnone]
      exact ⟨rfl, rfl, rfl⟩
  case vfs =>
    obtain ⟨henable, hnum⟩ := State.foldl_addVf_config ((List.range 65).filter (fun k => k != 0 && decide (k ≤ n)))
      { s with vfEnable := true, numVfs := n }
    refine ⟨_, exec_vfEnableChange hup hoff hn, henable, hnum, fun k hlow hhigh => ?_, ?_⟩
    · rw [State.func_withVfs s hn]
      cases hold : (s.func k).present with
      | true => simp [hold]
      | false => simp [hlow, hhigh]
    · rw [State.func_withVfs s hn, if_neg (by omega)]
  case mse => exact congrArg _ (State.when_of (by rw [hpresent, hup]; rfl) ..)
  case bmeOff => exact exec_busMasterEnableChange hup hpresent false
  case bmeOn =>
    obtain ⟨hbme, hpba, hsent⟩ := Func.release_on (f := { s.func fn with bme := true }) rfl
    have hfunc : (s.modFunc fn (fun f => { f with bme := true }.release)).func fn = { s.func fn with bme := true }.release :=
      State.func_modFunc_present ((Func.release_present _).trans hpresent)
    refine ⟨_, exec_busMasterEnableChange hup hpresent true, ?_⟩
    rw [hfunc]
    exact ⟨hbme, hpba, hsent⟩

end Sys2Proof.Machine
end

section
/-! Whole-device resets (R587, R592, R597, R598, R607). -/

namespace Sys2Proof.Machine

/-! ### What a reset keeps -/

/-- A bank that a reset catches while FW_STAGE writes it is torn (R608): what is left beside the flash. -/
def State.tornBank (s : State) (a : Act) : State :=
  match a.kind with
  | .stage bank image => let d := s.draw; { d.2 with flash := d.2.flash.torn bank image d.1 }
  | _ => s

theorem State.foldl_tornBank (l : List Act) (s : State) :
    (l.foldl tornBank s).fuses = s.fuses ∧ (l.foldl tornBank s).boot = s.boot ∧ (l.foldl tornBank s).pending = s.pending := by
  induction l generalizing s with
  | nil => exact ⟨rfl, rfl, rfl⟩
  | cons a l ih =>
    obtain ⟨hfuses, hboot, hpending⟩ := ih (s.tornBank a)
    have hstep : (s.tornBank a).fuses = s.fuses ∧ (s.tornBank a).boot = s.boot ∧ (s.tornBank a).pending = s.pending := by
      unfold tornBank
      split <;> exact ⟨rfl, rfl, rfl⟩
    obtain ⟨h1, h2, h3⟩ := hstep
    exact ⟨hfuses.trans h1, hboot.trans h2, hpending.trans h3⟩

/-- A whole-device reset sets `boot`, with the failure latched, and keeps fuses and the queue of commands; flash too, where no bank is
being written. -/
theorem State.wholeReset_keeps (s : State) (boot : Boot) :
    (s.wholeReset boot).boot = { boot with prevfail := s.boot.failed, prevclass := s.boot.failclass }
      ∧ (s.wholeReset boot).fuses = s.fuses ∧ (s.wholeReset boot).pending = s.pending
      ∧ (s.acts = [] → (s.wholeReset boot).flash = s.flash) := by
  obtain ⟨hfuses, hboot, hpending⟩ := State.foldl_tornBank s.acts s
  refine ⟨?_, hfuses, hpending, fun hacts => ?_⟩
  · have hlatch : (s.wholeReset boot).boot = { boot with
        prevfail := (s.acts.foldl tornBank s).boot.failed, prevclass := (s.acts.foldl tornBank s).boot.failclass } := rfl
    rw [hlatch, hboot]
  · unfold State.wholeReset
    rw [hacts]
    rfl

/-! ### The marker periods before a reset (R598) -/

/-- Without an ACTIVE link a reset takes effect at once. -/
theorem State.startReset_now {s : State} (h : ∀ l ∈ s.links, l.2.st ≠ .active) (cause : BitVec 4) :
    s.startReset cause = s.resetNow cause := by
  have hnone : s.links.any (fun e => e.2.st == .active) = false := by simpa [List.any_eq_false] using h
  unfold State.startReset
  rw [hnone]
  rfl

/-- With an ACTIVE link a reset waits: every ACTIVE link has 16 marker periods, every other one is out of service. -/
theorem State.startReset_waits {s : State} (h : ∃ l ∈ s.links, l.2.st = .active) (cause : BitVec 4) :
    (s.startReset cause).boot = { s.boot with resetDue := some cause } ∧ (s.startReset cause).hbm = s.hbm
      ∧ ∀ l ∈ (s.startReset cause).links, (l.2.st = .active ∧ l.2.dying = 16) ∨ l.2.st = .disabled := by
  have hsome : s.links.any (fun e => e.2.st == .active) = true := by simpa [List.any_eq_true] using h
  unfold State.startReset
  rw [hsome, if_pos rfl]
  refine ⟨rfl, rfl, fun l hl => ?_⟩
  obtain ⟨e, -, rfl⟩ := List.mem_map.1 (List.mem_filter.1 hl).1
  dsimp only [Link.lastPeriods]
  split
  · next hactive => exact .inl ⟨hactive, rfl⟩
  · exact .inr rfl

theorem State.live_of_resetDue {s : State} {cause : BitVec 4} (h : s.boot.resetDue = some cause) : s.live = false := by
  simp [State.live, h]

theorem State.mem_setLink {s : State} (hwf : SMap.wf {} s.links = true) {n : Nat} {l : Link} {e : Nat × Link}
    (he : e ∈ (s.setLink n l).links) : e.2 = l ∨ (e.1 ≠ n ∧ e ∈ s.links) := by
  obtain ⟨hne, hget⟩ := (SMap.mem_iff_get (SMap.set_wf hwf n l) e).1 he
  rw [SMap.get_set hwf] at hget
  split at hget
  · exact .inl hget.symm
  · next hother => exact .inr ⟨hother, (SMap.mem_iff_get hwf e).2 ⟨hne, hget⟩⟩

/-- The last marker period of the last link that has one: the reset takes effect. -/
theorem State.lastPeriod_resets {s : State} {n : Nat} {cause : BitVec 4} (hwf : SMap.wf {} s.links = true)
    (hdue : s.boot.resetDue = some cause) (hlast : (s.link n).dying = 1) (hothers : ∀ l ∈ s.links, l.1 ≠ n → l.2.dying = 0)
    (reset : State → BitVec 4 → State) :
    ∃ l : Link, s.lastPeriod n reset = reset (s.setLink n (l.off .down 0)) cause := by
  refine ⟨({ s.link n with mcount := (s.link n).mcount + 1 } : Link).sendBlocks n s.devid s.boot.failed [], ?_⟩
  unfold State.lastPeriod
  dsimp only
  rw [if_neg (not_not.2 hlast)]
  have hdue' (l : Link) : (s.setLink n l).boot.resetDue = some cause := hdue
  simp only [hdue']
  refine if_neg ?_
  rw [List.any_eq_true]
  rintro ⟨e, he, hdying⟩
  obtain hoff | ⟨hother, hmem⟩ := State.mem_setLink hwf he
  · rw [hoff] at hdying
    cases hdying
  · rw [hothers e hmem hother] at hdying
    cases hdying

/-! ### The commands -/

theorem exec_porstAssert {s : State} (hporst : s.boot.porst = false) (hdue : s.boot.resetDue = none) :
    exec .porstAssert s = .next (s.startReset 1) := by
  change execPorstAssert s = _
  unfold execPorstAssert
  rw [State.when_of (by rw [hporst]; rfl), hdue]
  rfl

theorem exec_deviceReset {s : State} (hporst : s.boot.porst = false) (hdue : s.boot.resetDue = none) {cause : Nat}
    (hcause : cause = 3 ∨ cause = 4 ∨ cause = 5) : exec (.deviceReset cause) s = .next (s.startReset (BitVec.ofNat 4 cause)) := by
  refine congrArg _ (State.when_of ?_ ..)
  rw [hporst, hdue]
  obtain rfl | rfl | rfl := hcause <;> rfl

theorem exec_railUndervoltage {s : State} (hporst : s.boot.porst = false) (hrails : s.boot.railsOk = true) {rail : Nat} (hrail : rail < 15) :
    exec (.railUndervoltage rail) s =
      .next (s.wholeReset { porst := false, resample := true, cause := 2, uvrail := BitVec.ofNat 4 rail }) :=
  congrArg _ (State.when_of (by rw [hporst, hrails, decide_eq_true hrail]; rfl) ..)

theorem exec_railToleranceReached {s : State} (hporst : s.boot.porst = false) (hrails : s.boot.railsOk = false)
    (htrip : s.boot.thermtrip = false) (straps : BitVec 10) :
    exec (.railToleranceReached straps) s = .next { s with boot := { s.boot with
      railsOk := true, stage := 1, resample := false, straps := if s.boot.resample then Straps.sample straps else s.boot.straps } } :=
  congrArg _ (State.when_of (by rw [hporst, hrails, htrip]; rfl) ..)

theorem exec_markerPeriod_last {s : State} {n corrected : Nat} (hn : n < 32) (hlast : (s.link n).dying = 1) :
    exec (.markerPeriod n corrected) s = .next (s.lastPeriod n State.resetNow) := by
  refine congrArg _ ((State.when_of (decide_eq_true hn) ..).trans ?_)
  dsimp only
  rw [hlast]
  rfl

theorem State.resetNow_keeps (s : State) (cause : BitVec 4) :
    (s.resetNow cause).fuses = s.fuses ∧ (s.resetNow cause).pending = s.pending ∧ (s.acts = [] → (s.resetNow cause).flash = s.flash) :=
  (s.wholeReset_keeps _).2

theorem State.resetNow_porst (s : State) :
    (s.resetNow 1).boot = { cause := 1, prevfail := s.boot.failed, prevclass := s.boot.failclass } := (s.wholeReset_keeps _).1

theorem State.resetNow_device (s : State) {cause : BitVec 4} (h : cause ≠ 1) :
    (s.resetNow cause).boot =
      { porst := false, railsOk := s.boot.railsOk, resample := s.boot.resample, straps := s.boot.straps,
        failPin := s.boot.failPin, thermtrip := s.boot.thermtrip, cause := cause,
        stage := if s.boot.railsOk && !s.boot.thermtrip then 1 else 0, prevfail := s.boot.failed, prevclass := s.boot.failclass } := by
  unfold State.resetNow
  rw [if_neg h]
  exact (s.wholeReset_keeps _).1

/-- Settles O49: what `State.wholeReset` keeps and sets, at once or, with an ACTIVE link, at the end of its last marker periods. -/
theorem resetsClear : Obligations.ResetsClear := by
  unfold Obligations.ResetsClear
  refine fun s hporst => ⟨fun hdue hquiet => ⟨?porst, fun cause hcause => ?device⟩, fun c cause hc hdue hactive => ?waits,
    fun n corrected cause hn hwf hdue hlast hothers => ?ends, fun rail hrail hrails => ?undervoltage, fun straps hrails htrip => ?tolerance,
    fun straps rails => ?deassert, fun hstage => ?pcie⟩
  case porst =>
    obtain ⟨hfuses, hpending, hflash⟩ := s.resetNow_keeps 1
    refine ⟨s.resetNow 1, (exec_porstAssert hporst hdue).trans (congrArg _ (State.startReset_now hquiet 1)), ?_⟩
    rw [State.resetNow_porst]
    exact ⟨rfl, rfl, rfl, rfl, rfl, rfl, hfuses, hflash, rfl, rfl, rfl, rfl, rfl, rfl, rfl, hpending⟩
  case device =>
    have hne : BitVec.ofNat 4 cause ≠ 1 := by obtain rfl | rfl | rfl := hcause <;> decide
    obtain ⟨hfuses, -, hflash⟩ := s.resetNow_keeps (BitVec.ofNat 4 cause)
    refine ⟨s.resetNow (BitVec.ofNat 4 cause), (exec_deviceReset hporst hdue hcause).trans
      (congrArg _ (State.startReset_now hquiet _)), ?_⟩
    rw [State.resetNow_device s hne]
    exact ⟨rfl, rfl, rfl, rfl, rfl, rfl, rfl, rfl, hfuses, hflash, rfl, rfl, rfl⟩
  case waits =>
    obtain ⟨hboot, hhbm, hlinks⟩ := State.startReset_waits hactive cause
    have hexec : exec c s = .next (s.startReset cause) := by
      simp only [List.mem_cons, List.not_mem_nil, or_false, Prod.mk.injEq] at hc
      obtain ⟨rfl, rfl⟩ | ⟨rfl, rfl⟩ | ⟨rfl, rfl⟩ | ⟨rfl, rfl⟩ := hc
      · exact exec_porstAssert hporst hdue
      all_goals exact exec_deviceReset hporst hdue (by decide)
    have hreset : (s.startReset cause).boot.resetDue = some cause := by rw [hboot]
    exact ⟨s.startReset cause, hexec, hreset, State.live_of_resetDue hreset, hhbm, hlinks⟩
  case ends =>
    obtain ⟨l, hperiod⟩ := State.lastPeriod_resets hwf hdue hlast hothers State.resetNow
    refine ⟨_, (exec_markerPeriod_last hn hlast).trans (congrArg _ hperiod), ?_⟩
    obtain ⟨hfuses, -⟩ := (s.setLink n (l.off .down 0)).resetNow_keeps cause
    by_cases hc : cause = 1
    · subst hc
      rw [State.resetNow_porst]
      exact ⟨rfl, rfl, rfl, hfuses, rfl, rfl, rfl⟩
    · rw [State.resetNow_device _ hc]
      exact ⟨rfl, (beq_false_of_ne hc).symm, rfl, hfuses, rfl, rfl, rfl⟩
  case undervoltage =>
    obtain ⟨hboot, hfuses, -⟩ := s.wholeReset_keeps { porst := false, resample := true, cause := 2, uvrail := BitVec.ofNat 4 rail }
    refine ⟨_, exec_railUndervoltage hporst hrails hrail, ?_⟩
    rw [hboot]
    exact ⟨rfl, rfl, rfl, rfl, hfuses, rfl, rfl⟩
  case tolerance =>
    exact ⟨_, exec_railToleranceReached hporst hrails htrip straps, rfl, rfl, rfl⟩
  case deassert => exact congrArg _ (State.when_of_not hporst ..)
  case pcie => exact congrArg _ (State.when_of (by rw [hporst, decide_eq_true hstage]; rfl) ..)

end Sys2Proof.Machine
end

section
/-! The stages of bring-up (R581, R600 to R606). -/

namespace Sys2Proof.Machine

theorem SMap.get_mapVals_insert_zero {α : Type} [DecidableEq α] {d v : α} {f : Nat → α → α} {m : SMap α} (h : f 0 v ≠ d) :
    SMap.get d (SMap.mapVals d f (SMap.insert m 0 v)) 0 = f 0 v := by
  obtain ⟨rest, hrest⟩ : ∃ rest, SMap.insert m 0 v = (0, v) :: rest := by
    cases m with
    | nil => exact ⟨[], rfl⟩
    | cons e m =>
      unfold SMap.insert
      split
      · exact ⟨m, rfl⟩
      · next hne => exact ⟨e :: m, if_pos (Nat.pos_of_ne_zero fun h => hne h.symm)⟩
  rw [hrest, SMap.mapVals, List.map_cons, List.filter_cons_of_pos (by simpa using h)]
  rfl

/-! ### What a fault record leaves alone -/

/-- The state without what a fault record and its event may change. -/
def State.besideReports (s : State) : State := { s.besideEvents with rel := {}, flash := {} }

theorem State.report_besideReports (s : State) (i : FaultInfo) : (s.report i).besideReports = s.besideReports := by
  unfold State.report
  dsimp only
  split
  · rfl
  · split
    · rfl
    · have hevents {s u : State} (h : u.besideEvents = s.besideEvents) : u.besideReports = s.besideReports := by
        unfold State.besideReports
        rw [h]
      exact (hevents (foldl_besideEvents (fun _ _ => State.eventTo_besideEvents ..) _ _)).trans rfl

/-- What a state shows beside its reports. -/
theorem State.besideReports_fields {s u : State} (h : u.besideReports = s.besideReports) :
    u.boot = s.boot ∧ u.cst = s.cst ∧ u.fuses = s.fuses :=
  ⟨(congrArg State.boot h :), (congrArg State.cst h :), (congrArg State.fuses h :)⟩

theorem State.foldl_badUnit (kind : Nat) (part : Option Nat) (l : List Nat) (s : State) :
    (l.foldl (fun s i => s.badUnit kind i part) s).besideReports = s.besideReports := by
  induction l generalizing s with
  | nil => rfl
  | cons a l ih => exact (ih _).trans (State.report_besideReports ..)

/-! ### Tiles that run nothing -/

/-- No tile runs, in a canonical store of tiles. -/
def State.Idle (s : State) : Prop := SMap.wf {} s.tiles = true ∧ ∀ i, (s.tile i).running = false

namespace State

theorem Idle.of_tiles {s t : State} (h : s.Idle) (ht : t.tiles = s.tiles) : t.Idle := by
  unfold Idle tile
  rw [ht]
  exact h

theorem Idle.setTile {s : State} (h : s.Idle) (ph : Nat) {t : Tile} (ht : t.running = false) : (s.setTile ph t).Idle := by
  refine ⟨SMap.set_wf h.1 ph t, fun i => ?_⟩
  rw [tile_setTile h.1]
  split
  · exact ht
  · exact h.2 i

theorem Idle.foldl {α : Type} {f : State → α → State} (hf : ∀ s a, s.Idle → (f s a).Idle) (l : List α) {s : State} (h : s.Idle) :
    (l.foldl f s).Idle := by
  induction l generalizing s with
  | nil => exact h
  | cons a l ih => exact ih (hf s a h)

theorem foldl_running {α : Type} {f : Tile → α → Tile} (h : ∀ t a, (f t a).running = t.running) (l : List α) (t : Tile) :
    (l.foldl f t).running = t.running := by
  induction l generalizing t with
  | nil => rfl
  | cons a l ih => exact (ih _).trans (h t a)

theorem setSlot_running (t : Tile) (sl : Nat) (q : Quire) : (t.setSlot sl q).running = t.running := rfl

theorem writeSlots_running (t : Tile) (off : Nat) (bs : List Byte) : (t.writeSlots off bs).running = t.running := by
  refine foldl_running (fun t sl => ?_) _ t
  dsimp only
  generalize Quire.ofImage _ = q
  split <;> exact setSlot_running t sl q

theorem foreignWrite_running (t : Tile) (sp off : Nat) (bs : List Byte) : (t.foreignWrite sp off bs).running = t.running := by
  unfold Tile.foreignWrite
  dsimp only
  split <;> rfl

theorem Idle.put {s : State} (h : s.Idle) (p : Place) (bs : List Byte) : (s.put p bs).Idle := by
  cases p with
  | hbm pa =>
    obtain ⟨rel, tele, hput⟩ := put_hbm s pa bs
    rw [hput]
    exact h.of_tiles rfl
  | tile sp ph off =>
    refine h.setTile ph ?_
    split
    · exact (writeSlots_running ..).trans (h.2 ph)
    · exact (foreignWrite_running ..).trans (h.2 ph)
  | host fn a =>
    unfold State.put
    dsimp only
    split
    · exact h.of_tiles rfl
    · exact h

theorem Idle.putAll {s : State} (h : s.Idle) (ps : List (Place × Nat)) (bs : List Byte) : (s.putAll ps bs).Idle := by
  induction ps generalizing s bs with
  | nil => exact h
  | cons p ps ih => exact ih (h.put ..) _

theorem Idle.storeOrLose {s : State} (h : s.Idle) (a : Agent) (da : Nat) (bs : List Byte) : (s.storeOrLose a da bs).Idle := by
  unfold State.storeOrLose store
  cases s.places a da bs.length true with
  | none => exact h
  | some ps =>
    cases hbar : State.barOf s.writeBar ps with
    | none => simpa only [hbar] using h.putAll ps bs
    | some w => simpa only [hbar] using h

theorem Idle.pushRecord {s : State} (h : s.Idle) (q : Nat) (bs : List Byte) : (s.pushRecord q bs).Idle := by
  unfold State.pushRecord
  dsimp only
  split
  · exact h
  · split
    · exact h.of_tiles rfl
    · unfold State.writeRecord
      dsimp only
      split
      · exact (h.storeOrLose ..).of_tiles rfl
      · exact (h.storeOrLose ..).of_tiles rfl

theorem Idle.eventTo {s : State} (h : s.Idle) (fn code source : Nat) (status : Word16) (d0 d1 : Nat) :
    (s.eventTo fn code source status d0 d1).Idle := by
  unfold State.eventTo
  split
  · exact h
  · exact h.pushRecord ..

theorem Idle.report {s : State} (h : s.Idle) (i : FaultInfo) : (s.report i).Idle := by
  unfold State.report
  dsimp only
  split
  · exact h.of_tiles rfl
  · split
    · exact h.of_tiles rfl
    · exact Idle.foldl (fun s f hs => hs.eventTo ..) _ (h.of_tiles rfl)

/-! ### The self-test of the tiles (R605) -/

theorem Idle.testTile {s : State} (h : s.Idle) (ph : Nat) : (s.testTile ph).Idle := h.setTile ph rfl

/-- A tile that the self-test has reached is blank. -/
theorem foldl_testTile {s : State} (h : s.Idle) {n i : Nat} (hi : i < n) :
    (((List.range n).foldl State.testTile s).tile i).basin = [] ∧ (((List.range n).foldl State.testTile s).tile i).cistern = [] := by
  induction n with
  | zero => cases hi
  | succ n ih =>
    have hbefore : ((List.range n).foldl State.testTile s).Idle := Idle.foldl (fun s ph hs => hs.testTile ph) _ h
    rw [List.range_succ, List.foldl_append, List.foldl_cons, List.foldl_nil]
    generalize hb : (List.range n).foldl State.testTile s = b at *
    unfold State.testTile
    rw [tile_setTile hbefore.1]
    split
    · exact ⟨rfl, rfl⟩
    · next hne => exact ih (by omega)

theorem foldl_testTile_besideReports (l : List Nat) (s : State) : (l.foldl State.testTile s).besideReports = s.besideReports := by
  induction l generalizing s with
  | nil => rfl
  | cons a l ih => exact (ih _).trans rfl

/-- The tiles after their self-test, and what it leaves alone. -/
theorem stageTiles_tiles (s : State) (arrays tiles : List Nat) (standby : Bool) :
    (s.stageTiles arrays tiles standby).Idle
      ∧ (∀ i, i < 256 → ((s.stageTiles arrays tiles standby).tile i).basin = [] ∧ ((s.stageTiles arrays tiles standby).tile i).cistern = [])
      ∧ (s.stageTiles arrays tiles standby).cst = [] ∧ (s.stageTiles arrays tiles standby).fuses = s.fuses
      ∧ (s.stageTiles arrays tiles standby).boot.stage = (if s.boot.recovery then 0xE else 6)
      ∧ (s.stageTiles arrays tiles standby).boot.svn = s.boot.svn
      ∧ (s.stageTiles arrays tiles standby).boot.recovery = s.boot.recovery := by
  unfold State.stageTiles
  extract_lets off newArrays newTiles src fl s1 s2 img
  have hidle1 : s1.Idle := Idle.foldl (fun s t hs => hs.report _) _ ⟨rfl, fun _ => rfl⟩
  have hidle2 : s2.Idle := Idle.foldl (fun s t hs => hs.testTile t) _ hidle1
  have hbeside : s2.besideReports = ({ s with flash := fl, tiles := [], cst := [] } : State).besideReports :=
    (foldl_testTile_besideReports _ _).trans (State.foldl_badUnit 0 (some 0) _ _)
  obtain ⟨hboot, hcst, hfuses⟩ := State.besideReports_fields hbeside
  have hblank : ∀ i, i < 256 → (s2.tile i).basin = [] ∧ (s2.tile i).cistern = [] := fun i => foldl_testTile (n := 256) hidle1
  clear_value s2
  refine ⟨hidle2.of_tiles rfl, hblank, hcst, hfuses, ?_, ?_, ?_⟩
  · dsimp only
    rw [hboot]
  · exact (congrArg Boot.svn hboot :)
  · exact (congrArg Boot.recovery hboot :)

/-! ### The state of the last stage (R605) -/

theorem func_stageReady (s : State) : (s.stageReady.func 0).bound = some 0 := by
  have hset : SMap.set {} s.funcs 0 { s.func 0 with bound := some 0 } = SMap.insert s.funcs 0 { s.func 0 with bound := some 0 } :=
    if_neg fun h => by cases congrArg Func.bound h
  have hfuncs : s.stageReady.funcs = SMap.mapVals {} (fun _ f => { f with mbx := { f.mbx with ready := f.present } })
      (SMap.insert s.funcs 0 { s.func 0 with bound := some 0 }) := by
    rw [← hset]
    rfl
  unfold func
  rw [hfuncs, SMap.get_mapVals_insert_zero fun h => by cases congrArg Func.bound h]

theorem stageReady_keeps (s : State) :
    s.stageReady.boot = s.boot ∧ s.stageReady.weir = {} ∧ s.stageReady.cst = s.cst ∧ s.stageReady.tiles = s.tiles
      ∧ s.fuses.minSvn.toNat ≤ s.stageReady.fuses.minSvn.toNat := by
  refine ⟨rfl, rfl, rfl, rfl, ?_⟩
  have hfuses : s.stageReady.fuses =
      if !s.boot.recovery && decide (s.fuses.minSvn.toNat < s.boot.svn.toNat) then { s.fuses with minSvn := s.boot.svn } else s.fuses := rfl
  rw [hfuses]
  split
  · next hup =>
    obtain ⟨-, hlt⟩ := Bool.and_eq_true_iff.1 hup
    exact Nat.le_of_lt (of_decide_eq_true hlt)
  · exact Nat.le_refl _

/-! ### The stages before (R602 to R604) -/

theorem link_stageLinks (s : State) {n : Nat} (hn : n < 32) : (s.stageLinks.link n).st = .detect := by
  have hrange (k : Nat) : n < k → (((List.range k).foldl (fun s n => s.modLink n (·.detect false)) s).link n).st = .detect := by
    induction k with
    | zero => exact fun h => absurd h (Nat.not_lt_zero n)
    | succ k ih =>
      intro h
      rw [List.range_succ, List.foldl_append, List.foldl_cons, List.foldl_nil, modLink,
        link_setLink_ne _ fun h => by cases congrArg Link.st h]
      split
      · rfl
      · exact ih (by omega)
  have hlast := hrange 32 hn
  unfold stageLinks
  generalize (List.range 32).foldl _ s = u at hlast ⊢
  exact hlast

theorem stageHbm_sound (s : State) :
    (s.stageHbm 0).boot.stage = 4 ∧ (s.stageHbm 0).hbm = [] ∧ (s.stageHbm 0).boot.hbmoff = 0 := by
  unfold stageHbm
  simp

end State

/-! ### The commands -/

theorem exec_porstDeassert {s : State} (h : s.boot.porst = true) (straps : BitVec 10) (rails : Bool) :
    exec (.porstDeassert straps rails) s = .next
      { s with boot := { s.boot with porst := false, railsOk := rails, straps := Straps.sample straps, stage := if rails then 1 else 0 },
               tap := { s.tap with drive := List.replicate 6 false, hiz := List.replicate 6 false, dr := List.replicate 6 [false] } } :=
  congrArg _ (State.when_of h ..)

theorem exec_bootImageVerify {s : State} (hporst : s.boot.porst = false) (hstage : s.boot.stage = 1) :
    exec .bootImageVerify s = .next
      (if fwAccepted s.fuses (s.flash.bank s.bankTried) then
        { s with boot := { s.boot with
            stage := 2, fwbank := s.bankTried, fwver := BitVec.ofNat 32 (pkWord (fwImage (s.flash.bank s.bankTried)) 1),
            svn := BitVec.ofNat 16 (pkWord (fwImage (s.flash.bank s.bankTried)) 2),
            fwdig := sha384 (fwImage (s.flash.bank s.bankTried)), recovery := s.boot.tried != 0 || s.firstBank.2 } }
      else if s.boot.tried = 0 then { s with boot := { s.boot with tried := 1 } }
      else { s with boot := { s.boot with stage := 0xF } }) := by
  change execBootImageVerify s = _
  unfold execBootImageVerify
  rw [State.when_of (by rw [hporst, hstage]; rfl)]

/-- The stage that a bring-up step of a device ends. -/
theorem exec_bringUpStage {s : State} (hporst : s.boot.porst = false) (hfailed : s.boot.failed = false) (hbmFail : BitVec 8)
    (arrays tiles : List Nat) (north south : Bool) :
    exec (.bringUpStage hbmFail arrays tiles north south) s = .next
      (match s.boot.stage.toNat with
      | 2 => s.stagePairs north south
      | 3 => s.stageHbm hbmFail
      | 4 => s.stageLinks
      | 5 => (s.stageTiles arrays tiles (if s.boot.activePair then false else south)).stageReady
      | _ => s) :=
  congrArg _ (State.when_of (by rw [hporst, hfailed]; rfl) ..)

/-- Settles O50: each stage by what it sets and what the reports of failed units leave alone. -/
theorem bringUpStages : Obligations.BringUpStages := by
  unfold Obligations.BringUpStages
  refine fun s => ⟨fun straps rails hporst => ⟨_, exec_porstDeassert hporst straps rails, rfl, rfl, rfl⟩,
    fun hporst hstage => ?verify, fun hbmFail arrays tiles north south hporst hfailed => ?stages⟩
  case verify =>
    rw [exec_bootImageVerify hporst hstage]
    refine ⟨fun haccepted => ?_, fun hrefused htried => ?_, fun hrefused htried => ?_⟩
    · rw [if_pos haccepted]
      exact ⟨_, rfl, rfl, rfl⟩
    · rw [if_neg (by rw [hrefused]; decide), if_pos htried]
    · rw [if_neg (by rw [hrefused]; decide), if_neg htried]
  case stages =>
    rw [exec_bringUpStage hporst hfailed]
    refine ⟨fun hstage hnorth => ?_, fun hstage hnorth hsouth => ?_, fun hstage hsound => ?_, fun hstage => ?_, fun hstage hbank => ?_⟩
    all_goals rw [hstage]
    · subst hnorth
      exact ⟨_, rfl, rfl, rfl, rfl, rfl⟩
    · subst hnorth hsouth
      refine ⟨_, rfl, ?_⟩
      obtain ⟨hboot, -⟩ := State.besideReports_fields (State.report_besideReports _ _)
      exact (congrArg Boot.stage hboot :)
    · subst hsound
      exact ⟨_, rfl, s.stageHbm_sound⟩
    · exact ⟨_, rfl, rfl, fun n => s.link_stageLinks⟩
    · obtain ⟨hidle, hblank, hcst, hfuses, hsix, -⟩ :=
        s.stageTiles_tiles arrays tiles (if s.boot.activePair then false else south)
      refine ⟨(s.stageTiles arrays tiles (if s.boot.activePair then false else south)).stageReady, rfl, ?_⟩
      generalize s.stageTiles arrays tiles (if s.boot.activePair then false else south) = u at *
      obtain ⟨hboot, hweir, hcst', htiles, hsvn⟩ := u.stageReady_keeps
      have htile : u.stageReady.tile = u.tile := by
        unfold State.tile
        rw [htiles]
      rw [hboot, hsix, hbank, htile, ← hfuses]
      exact ⟨rfl, u.func_stageReady, hweir, hcst'.trans hcst, hidle.2, hblank, hsvn⟩

end Sys2Proof.Machine
end

section
/-! The power sample, the power loop and frequency steps (R519 to R521, R525). -/

namespace Sys2Proof.Machine

/-! ### What the Weir's operations make of the Weir -/

theorem State.eventPF_weir (s : State) (code source : Nat) (status : Word16) (d0 d1 : Nat) :
    (s.eventPF code source status d0 d1).weir = s.weir := (congrArg Prod.fst (State.eventPF_frame ..) :)

theorem State.endPin_weir (s : State) (reason : Nat) :
    (s.endPin reason).weir = if s.weir.pinned then { s.weir with pinned := false, overCap := 0, hotTp := 0, calm := 0 } else s.weir := by
  unfold State.endPin
  split
  · exact State.eventPF_weir ..
  · rfl

/-- The throttle level becomes what is asked; nothing of the Weir changes but the level, the loops' counts and the time of change. -/
theorem State.setTp_weir (s : State) (tp : Nat) :
    (s.setTp tp).weir.tp = tp ∧ (s.setTp tp).weir.samples = s.weir.samples ∧ (s.setTp tp).weir.pinned = s.weir.pinned
      ∧ (s.setTp tp).weir.opp = s.weir.opp ∧ (s.setTp tp).weir.td = s.weir.td ∧ { s.setTp tp with weir := s.weir } = s := by
  unfold State.setTp
  split
  · next h => exact ⟨h.symm, rfl, rfl, rfl, rfl, rfl⟩
  · exact ⟨rfl, rfl, rfl, rfl, rfl, rfl⟩

/-! ### A sample (R519, R520) -/

/-- The state that holds a sample. -/
def State.withSample (s : State) (watts : Nat) : State := s.setWeir (fun w => { w with samples := (watts :: w.samples).take 1000 })

/-- The fast limit acts: the level goes up by two, and a pin ends. -/
def State.fastLimit (s : State) : State := ((s.endPin 1).setTp (Nat.min (s.weir.tp + 2) 8)).setWeir (fun w => { w with fast := true })

/-- A sample is kept; the second above 1,600 W in a row meets the fast limit, once in a period of the loop. -/
theorem exec_powerSample {s : State} (hlive : s.live = true) (watts : Nat) :
    ∃ hit : Bool, (watts ≤ 1600 → hit = false) ∧ (∀ x xs, 1600 < watts → s.weir.samples = x :: xs → 1600 < x → hit = true)
      ∧ exec (.powerSample watts) s = .next (if !hit || s.weir.fast then s.withSample watts else (s.withSample watts).fastLimit) := by
  refine ⟨decide (1600 < watts) && (match s.weir.samples with | x :: _ => decide (1600 < x) | [] => false), fun hlow => ?_,
    fun x xs hwatts hsamples hx => ?_, ?_⟩
  · rw [decide_eq_false (Nat.not_lt.2 hlow), Bool.false_and]
  · simp [hsamples, hwatts, hx]
  · change execPowerSample watts s = _
    unfold execPowerSample
    exact State.run_live hlive _

theorem State.fastLimit_weir (s : State) :
    s.fastLimit.weir.samples = s.weir.samples ∧ s.fastLimit.weir.tp = Nat.min (s.weir.tp + 2) 8 ∧ s.fastLimit.weir.fast = true
      ∧ s.fastLimit.weir.pinned = false := by
  obtain ⟨htp, hsamples, hpinned, -⟩ := (s.endPin 1).setTp_weir (Nat.min (s.weir.tp + 2) 8)
  refine ⟨hsamples.trans ?_, htp, rfl, hpinned.trans (s.endPin_keeps 1).2.2⟩
  rw [s.endPin_weir 1]
  split <;> rfl

/-! ### The power loop (R520) -/

/-- The level after a period of the loop, from the account `e`. -/
def Weir.loopTp (w : Weir) (e : Nat) : Nat :=
  if w.fast then w.tp
  else if e = 200000 ∧ w.aboveCap then Nat.min (w.tp + 1) 8
  else if e = 0 ∧ w.sum10 + 500 < 10 * w.cap then w.tp - 1 else w.tp

theorem Weir.loopTp_near {w : Weir} (h : w.tp ≤ 8) (e : Nat) : w.loopTp e ≤ w.tp + 1 ∧ w.tp ≤ w.loopTp e + 1 := by
  unfold Weir.loopTp
  have hmin : Nat.min (w.tp + 1) 8 = min (w.tp + 1) 8 := rfl
  rw [hmin]
  (repeat' split) <;> omega

theorem exec_powerLoopTick_few {s : State} (hlive : s.live = true) (h : s.weir.samples.length < 10) : exec .powerLoopTick s = .next s := by
  change execPowerLoopTick s = _
  unfold execPowerLoopTick
  rw [State.run_live hlive]
  exact congrArg _ (if_pos h)

theorem exec_powerLoopTick {s : State} (hlive : s.live = true) (h : 10 ≤ s.weir.samples.length) (hfree : s.weir.pinned = false) :
    exec .powerLoopTick s = .next
      (let e := Nat.min (s.weir.energy + s.weir.sum10 - 10 * s.weir.cap) 200000
       (s.setTp (s.weir.loopTp e)).setWeir (fun x =>
        { x with energy := e, fast := false, overCap := if s.weir.aboveCap then s.weir.overCap + 1 else 0,
                 hotTp := if s.weir.tp = 8 ∧ s.weir.aboveCap then s.weir.hotTp + 1 else 0,
                 calm := if s.weir.loopTp e = 0 then s.weir.calm + 1 else 0 })) := by
  change execPowerLoopTick s = _
  unfold execPowerLoopTick
  rw [State.run_live hlive]
  dsimp only
  rw [if_neg (Nat.not_lt.2 h), if_neg (by simp [hfree])]
  rfl

theorem exec_powerLoopTick_pinned {s : State} (hlive : s.live = true) (h : 10 ≤ s.weir.samples.length) (hpinned : s.weir.pinned = true) :
    exec .powerLoopTick s = .next
      ((if 100 ≤ (if s.weir.aboveCap then s.weir.overCap + 1 else 0) then s.endPin 1
        else s.setWeir (fun w => { w with overCap := if s.weir.aboveCap then s.weir.overCap + 1 else 0 })).setWeir
          (fun w => { w with fast := false })) := by
  change execPowerLoopTick s = _
  unfold execPowerLoopTick
  rw [State.run_live hlive]
  dsimp only
  rw [if_neg (Nat.not_lt.2 h), if_pos hpinned]

/-- Whether a pin has been over its cap for a hundred periods (R526). -/
theorem overCap_count (w : Weir) :
    (100 ≤ if w.aboveCap then w.overCap + 1 else 0) ↔
      (decide (10 * w.cap < (w.samples.take 10).sum) && decide (100 ≤ w.overCap + 1)) = true := by
  have habove : w.aboveCap = decide (10 * w.cap < (w.samples.take 10).sum) := rfl
  rw [← habove]
  cases w.aboveCap <;> simp

/-! ### Frequency steps (R515, R521, R525) -/

theorem exec_freqStep_pinned {s : State} (hlive : s.live = true) (h : s.weir.pinned = true) (opp : Nat) :
    exec (.freqStep opp) s = .next s := by
  change execFreqStep opp s = _
  unfold execFreqStep
  rw [State.run_live hlive]
  dsimp only
  rw [if_pos (by simp [h])]

theorem exec_freqStep_down {s : State} (hlive : s.live = true) (hfree : s.weir.pinned = false)
    (hdue : ∀ t, s.weir.lastStep = some t → t + 100000 ≤ s.time) {opp c : Nat} (hadj : opp = s.weir.opp + 1) (hopp : opp < 8)
    (hc : s.stepDownCause = some c) :
    exec (.freqStep opp) s = .next ((s.moveOpp opp c).setWeir (fun w => { w with lastStep := some (s.moveOpp opp c).time })) := by
  change execFreqStep opp s = _
  unfold execFreqStep
  rw [State.run_live hlive]
  dsimp only
  rw [if_neg (by
    cases hlast : s.weir.lastStep with
    | none => simp [hfree]
    | some t => simp [hfree, hdue t hlast]), if_pos ⟨hadj, hopp⟩, hc]

theorem exec_freqStep_up {s : State} (hlive : s.live = true) (hfree : s.weir.pinned = false)
    (hdue : ∀ t, s.weir.lastStep = some t → t + 100000 ≤ s.time) {opp : Nat} (hadj : opp + 1 = s.weir.opp) (hup : s.mayStepUp = true) :
    exec (.freqStep opp) s = .next ((s.moveOpp opp 3).setWeir (fun w => { w with lastStep := some (s.moveOpp opp 3).time })) := by
  change execFreqStep opp s = _
  unfold execFreqStep
  rw [State.run_live hlive]
  dsimp only
  rw [if_neg (by
    cases hlast : s.weir.lastStep with
    | none => simp [hfree]
    | some t => simp [hfree, hdue t hlast]), if_neg (by omega), if_pos ⟨hadj, hup⟩]

theorem State.moveOpp_time (s : State) (opp cause : Nat) : (s.moveOpp opp cause).time = s.time := by
  unfold State.moveOpp
  split
  · rfl
  · exact (congrArg State.time (State.eventTo_besideEvents ..) :)

theorem oppOf_vmin_le (i : Nat) : (oppOf i).vmin ≤ (oppOf i).vmax := by
  have hall : ∀ o ∈ opps, o.vmin ≤ o.vmax := by decide
  unfold oppOf
  rw [List.getD_eq_getElem?_getD]
  cases h : opps[i]? with
  | none => decide
  | some o => exact hall o (List.mem_of_getElem? h)

theorem Weir.setVolts_getD {w : Weir} {v : Nat → Nat} {i : Nat} (hi : i < w.volts.length) (hmute : w.mute.getD i false = false) :
    (w.setVolts v).volts.getD i 0 = v i := by
  unfold Weir.setVolts
  rw [List.getD_eq_getElem?_getD, List.getElem?_map, List.getElem?_zipIdx, List.getElem?_eq_getElem hi]
  rw [List.getD_eq_getElem?_getD] at hmute
  simp [hmute]

/-- The voltage at which a rail comes to stand at another point. -/
def State.newVolt (s : State) (opp i : Nat) : Nat :=
  (oppOf opp).vmin + 5 * (s.draw.1 / 1000 ^ i % (((oppOf opp).vmax - (oppOf opp).vmin) / 5 + 1))

theorem State.moveOpp_volts {s : State} {opp : Nat} (cause : Nat) (hne : opp ≠ s.weir.opp) :
    (s.moveOpp opp cause).weir.volts = (s.weir.setVolts (s.newVolt opp)).volts := by
  unfold State.moveOpp
  rw [if_neg hne]
  exact (congrArg Weir.volts (State.eventPF_weir ..)).trans rfl

/-- Each rail whose regulator answers comes within the limits of the new point (R517). -/
theorem State.moveOpp_volts_within {s : State} {opp : Nat} (cause : Nat) (hne : opp ≠ s.weir.opp) {i : Nat}
    (hi : i < s.weir.volts.length) (hmute : s.weir.mute.getD i false = false) :
    (oppOf opp).vmin ≤ (s.moveOpp opp cause).weir.volts.getD i 0 ∧ (s.moveOpp opp cause).weir.volts.getD i 0 ≤ (oppOf opp).vmax := by
  rw [State.moveOpp_volts cause hne, Weir.setVolts_getD hi hmute]
  have hle := oppOf_vmin_le opp
  have hmod := Nat.mod_lt (s.draw.1 / 1000 ^ i) (Nat.add_one_pos (((oppOf opp).vmax - (oppOf opp).vmin) / 5))
  unfold State.newVolt
  omega

/-- Settles O32: the Weir after each operation of the loops, `loopTp` for the level and `moveOpp_volts` for the rails. -/
theorem powerLoopsRun : Obligations.PowerLoopsRun := by
  unfold Obligations.PowerLoopsRun
  refine fun s hlive => ⟨fun watts => ?sample, exec_powerLoopTick_few hlive, fun hten hfree htp => ?tick, fun hten hpinned => ?pinned,
    fun opp hfree hdue => ⟨fun c hadj hopp hc => ?down, fun hadj hup => ?up⟩, fun opp hpinned => exec_freqStep_pinned hlive hpinned opp⟩
  case sample =>
    obtain ⟨hit, hlow, hhigh, hexec⟩ := exec_powerSample hlive watts
    obtain ⟨hsamples, htp, hfast, hpinned⟩ := (s.withSample watts).fastLimit_weir
    refine ⟨_, hexec, ?_, fun x xs hwatts hlast hx hfirst => ?_, fun hsmall => ?_⟩
    · split
      · rfl
      · exact hsamples
    · rw [hhigh x xs hwatts hlast hx, hfirst]
      exact ⟨htp, hfast, hpinned⟩
    · rw [hlow hsmall]
      exact ⟨rfl, rfl⟩
  case tick =>
    refine ⟨_, exec_powerLoopTick hlive hten hfree, ?_⟩
    obtain ⟨hlevel, -, -, hopp, htd, hrest⟩ := s.setTp_weir
      (s.weir.loopTp (Nat.min (s.weir.energy + s.weir.sum10 - 10 * s.weir.cap) 200000))
    obtain ⟨hup, hdown⟩ := Weir.loopTp_near htp (Nat.min (s.weir.energy + s.weir.sum10 - 10 * s.weir.cap) 200000)
    refine ⟨hrest, hopp, htd, rfl, hlevel ▸ hup, hlevel ▸ hdown, fun hfast hfull habove => hlevel.trans ?_⟩
    unfold Weir.loopTp
    rw [hfast, if_neg (by decide), if_pos ⟨hfull, decide_eq_true habove⟩]
  case pinned =>
    refine ⟨_, exec_powerLoopTick_pinned hlive hten hpinned, ?_⟩
    by_cases hover : 100 ≤ if s.weir.aboveCap then s.weir.overCap + 1 else 0
    · rw [if_pos hover, (overCap_count _).1 hover]
      obtain ⟨-, hopp, hunpinned⟩ := s.endPin_keeps 1
      refine ⟨?_, hopp, rfl, hunpinned⟩
      refine (congrArg Weir.tp (s.endPin_weir 1)).trans ?_
      split <;> rfl
    · rw [if_neg hover, Bool.eq_false_iff.2 fun h => hover ((overCap_count _).2 h)]
      exact ⟨rfl, rfl, rfl, hpinned⟩
  case down =>
    obtain ⟨-, -, -, -, hat⟩ := s.moveOpp_keeps opp c
    exact ⟨_, exec_freqStep_down hlive hfree hdue hadj hopp hc, hat, congrArg some (s.moveOpp_time opp c),
      fun i hi hmute => State.moveOpp_volts_within c (by omega) hi hmute⟩
  case up =>
    obtain ⟨-, -, -, -, hat⟩ := s.moveOpp_keeps opp 3
    exact ⟨_, exec_freqStep_up hlive hfree hdue hadj hup, hat, congrArg some (s.moveOpp_time opp 3)⟩

end Sys2Proof.Machine
end

section
/-! Adaptive voltage, droop, regulator faults and placement adaptation (R517, R518, R526, R527, R585). -/

namespace Sys2Proof.Machine

/-- Adaptive voltage raises a rail whose margin is short. -/
theorem exec_avsTick_short {s : State} (hlive : s.live = true) {rail : Nat} {slack : Int} (hrail : rail < 6) (hfree : s.weir.pinned = false)
    (hmute : s.weir.mute.getD rail false = false) (hshort : slack < 0) (hlow : (oppOf s.weir.opp).vmin ≤ s.weir.volts.getD rail 0 + 5)
    (hhigh : s.weir.volts.getD rail 0 + 5 ≤ (oppOf s.weir.opp).vmax) :
    exec (.avsTick rail slack) s = .next (s.setWeir fun w =>
      { w with volts := w.volts.set rail (s.weir.volts.getD rail 0 + 5), margin := w.margin.set rail 0 }) := by
  change execAvsTick rail slack s = _
  unfold execAvsTick
  rw [State.run_live hlive, State.when_of (by rw [decide_eq_true hrail, hfree]; rfl)]
  have hmargin : ¬ 5 < slack := by omega
  have hasked : Nat.max (oppOf s.weir.opp).vmin (Nat.min (s.weir.volts.getD rail 0 + 5) (oppOf s.weir.opp).vmax)
      = s.weir.volts.getD rail 0 + 5 :=
    (congrArg (Nat.max _) (Nat.min_eq_left hhigh)).trans (Nat.max_eq_right hlow)
  dsimp only [State.setWeir]
  rw [if_neg hmargin, if_pos hshort, hasked, hmute]
  rfl

theorem exec_avsTick_pinned {s : State} (hlive : s.live = true) (h : s.weir.pinned = true) (rail : Nat) (slack : Int) :
    exec (.avsTick rail slack) s = .next s := by
  change execAvsTick rail slack s = _
  unfold execAvsTick
  rw [State.run_live hlive, State.when_of_not (by rw [h, Bool.not_true, Bool.and_false])]

theorem exec_droopDetected {s : State} (hlive : s.live = true) {die : Nat} (hdie : die < 6) (h : s.weir.stretch.getD die true = false) :
    exec (.droopDetected die) s =
      .next (((s.setWeir (fun w => { w with stretch := w.stretch.set die true })).rateChanged).endPin 4) := by
  change execDroopDetected die s = _
  unfold execDroopDetected
  rw [State.run_live hlive, State.when_of (by rw [decide_eq_true hdie, h]; rfl)]

theorem exec_stretchEnd {s : State} (hlive : s.live = true) {die : Nat} (h : s.weir.stretch.getD die false = true) :
    exec (.stretchEnd die) s = .next (s.setWeir (fun w => { w with stretch := w.stretch.set die false })).rateChanged := by
  change execStretchEnd die s = _
  unfold execStretchEnd
  rw [State.run_live hlive, State.when_of h]

theorem exec_regulatorFault {s : State} (hlive : s.live = true) {rail : Nat} {starts : Bool} (hrail : rail < 6)
    (h : s.weir.mute.getD rail false ≠ starts) :
    exec (.regulatorFault rail starts) s = .next ((s.setWeir (fun w => { w with mute := w.mute.set rail starts })).eventPF 0x0804 rail stOk
      (s.weir.volts.getD rail 0) starts.toNat) := by
  change execRegulatorFault rail starts s = _
  unfold execRegulatorFault
  rw [State.run_live hlive, State.when_of (by rw [decide_eq_true hrail, Bool.true_and]; exact bne_iff_ne.2 h)]

/-- Placement adaptation of a bound tile, while its partition has no launch. -/
theorem exec_placementAdaptation {s : State} (hlive : s.live = true) {part k sp : Nat} (hheld : (s.part part).held = true)
    (hfree : s.weir.pinned = false) (hk : k < (s.part part).bind.length)
    (hspare : (s.part part).spares.find? (fun t => t / 16 == (s.part part).bind.getD k 256 / 16) = some sp)
    (hlaunches : ∀ l ∈ s.launches, l.part ≠ part) (hpackets : ∀ p ∈ s.packets, s.queuePart p.queue ≠ part ∨ pType p.words ≠ 1) :
    exec (.placementAdaptation part k) s = .next ((s.setPart part { s.part part with
        bind := (s.part part).bind.set k sp,
        spares := (s.part part).spares.map (fun t => if t = sp then (s.part part).bind.getD k 256 else t) }).eventBoth
          part 0x0104 part stOk (s.part part).bind.length 0) := by
  have hidle : (s.launches.all (fun l => l.part != part)) && s.packets.all (fun k => s.queuePart k.queue != part || pType k.words != 1) := by
    simp only [Bool.and_eq_true, List.all_eq_true, Bool.or_eq_true, bne_iff_ne]
    exact ⟨hlaunches, hpackets⟩
  change execPlacementAdaptation part k s = _
  unfold execPlacementAdaptation
  rw [State.run_live hlive]
  dsimp only
  rw [hspare]
  dsimp only
  rw [State.when_of (by rw [hheld, hidle, decide_eq_true hk, hfree]; rfl)]

/-- Settles O34: the equation of each command, and `State.endPin` for the pin that a droop ends. -/
theorem voltageAndPlacementAdapt : Obligations.VoltageAndPlacementAdapt := by
  unfold Obligations.VoltageAndPlacementAdapt
  refine fun s k hlive => ⟨fun slack hk hfree hmute hshort hlow hhigh => ?avs, fun slack hpinned => exec_avsTick_pinned hlive hpinned k slack,
    fun hk hsteady => ?droop, fun hstretched => ⟨_, exec_stretchEnd hlive hstretched, rfl, rfl⟩, fun starts hk hnew => ?regulator,
    fun part sp hheld hfree hk hspare => exec_placementAdaptation hlive hheld hfree hk hspare⟩
  case avs => exact ⟨_, exec_avsTick_short hlive hk hfree hmute hshort hlow hhigh, rfl, rfl⟩
  case droop =>
    obtain ⟨-, hopp, hunpinned⟩ := ((s.setWeir (fun w => { w with stretch := w.stretch.set k true })).rateChanged).endPin_keeps 4
    refine ⟨_, exec_droopDetected hlive hk hsteady, ?_, hunpinned, hopp⟩
    rw [State.endPin_weir]
    split <;> rfl
  case regulator =>
    refine ⟨_, exec_regulatorFault hlive hk hnew, ?_⟩
    rw [State.eventPF_weir]
    exact ⟨rfl, rfl⟩

end Sys2Proof.Machine
end

section
/-! LINK_STATUS and LINK_CONTROL (R368, R421, R422, R503). -/

namespace Sys2Proof.Machine

/-! ### The lock of a link (R503) -/

/-- What starts with an action on a link beside the lock: nothing. -/
theorem State.beginMaint_link {s : State} {res : Nat} {a : Act} {link action lane : Nat} (hkind : a.kind = .link link action lane)
    (hheld : (s.lock res).holder = some a) : s.beginMaint res = s := by
  unfold State.beginMaint
  rw [hheld]
  split
  · next h =>
    cases h
    cases hkind
  · rfl

/-- An action takes a free lock. -/
theorem State.requestMaint_link {s : State} {res : Nat} (hfree : s.lockBusy res = false) (t : Taken) :
    s.requestMaint (lcAct t) res false = (s.setLock res { s.lock res with holder := some (lcAct t) }, stOk, 0) := by
  have hlock : ((s.setLock res { s.lock res with holder := some (lcAct t) }).lock res).holder = some (lcAct t) := by
    unfold State.lock State.setLock
    rw [SMap.get_set_ne _ (fun h => by cases congrArg Lock.holder h), if_pos rfl]
  rw [State.requestMaint_free hfree, State.beginMaint_link rfl hlock]

theorem State.linkTakesLock_free {s : State} {t : Taken} (hfree : s.lockBusy (2 * 256 + t.w 8 % 32) = false) (act : State → State) :
    s.linkTakesLock t act =
      ({ act (s.setLock (2 * 256 + t.w 8 % 32) { s.lock (2 * 256 + t.w 8 % 32) with holder := some (lcAct t) }) with
        acts := s.acts ++ [lcAct t] }, ok) := by
  have hrequest := State.requestMaint_link hfree t
  unfold State.linkTakesLock linkRes lcLink
  rw [hrequest]
  rfl

theorem State.linkNeedsLock_free {s : State} {t : Taken} (hfree : s.lockBusy (2 * 256 + t.w 8 % 32) = false) (act : State → State × Ans) :
    s.linkNeedsLock t act = act s := by
  unfold State.linkNeedsLock linkRes lcLink
  rw [hfree]
  rfl

/-! ### The checks of LINK_CONTROL (R368) -/

theorem lcMine_self {t : Taken} {action : Nat} (h : bits (t.w 8) 8 3 = action) : lcMine action t = true := by
  unfold lcMine lcAction
  rw [h, beq_self_eq_true, Bool.true_or]

theorem lcChk_noLane {t : Taken} {action : Nat} (h : bits (t.w 8) 8 3 = action) (haction : action ≤ 3) (hlane : bits (t.w 8) 11 4 = 0) :
    ∀ k ∈ [lcChk t false], k.1 = false := by
  refine List.forall_mem_singleton.2 ?_
  unfold lcChk lcAction lcLane
  rw [h, hlane, decide_eq_false (by omega)]
  rfl

theorem lcChk_lane {t : Taken} (h : bits (t.w 8) 8 3 = 3) (hlane : bits (t.w 8) 11 4 < 9) : (lcChk t true).1 = false := by
  unfold lcChk lcAction lcLane
  rw [h, decide_eq_false (show ¬ 8 < bits (t.w 8) 11 4 by omega)]
  rfl

/-! ### The commands -/

theorem exec_linkStatus {s : State} {t : Taken} {p : Nat}
    (h : s.asks t p { op := 0x0400, who := .part, plen := 4, masks := [0x1F] } = true) :
    exec (.linkStatus t.fn) s = .next (s.respond t (okWords
      (let l := s.link (t.w 8)
       [l.st.code + 2 ^ 4 * l.lanes + 2 ^ 8 * l.rx.spare.getD 15 + 2 ^ 16 * l.peer.toNat + 2 ^ 28 * l.peerV.toNat,
        l.crcErrs.toNat % 2 ^ 32, l.crcErrs.toNat / 2 ^ 32, l.replays.toNat % 2 ^ 32, l.replays.toNat / 2 ^ 32,
        l.fecs.toNat % 2 ^ 32, l.fecs.toNat / 2 ^ 32]))) := by
  change execLinkStatus t.fn s = _
  exact run_query_of_asks h (by decide) (by decide) (List.forall_mem_nil _)

section
variable {s : State} {t : Taken} {p : Nat} (h : s.asks t p { op := 0x0401, who := .pf, plen := 4, masks := [0x7F1F] } = true)
include h

theorem exec_linkDisable (hfree : s.lockBusy (2 * 256 + t.w 8 % 32) = false) (haction : bits (t.w 8) 8 3 = 0)
    (hlane : bits (t.w 8) 11 4 = 0) :
    exec (.linkDisable t.fn) s =
      if (s.link (t.w 8 % 32)).st = .disabled then
        .next ((s.deferredEvent (lcAct t) stOk (s.link (t.w 8 % 32)).report).respond t ok)
      else .next ((({ (s.modLink (t.w 8 % 32) (fun l => { l with disabling := true })) with
        acts := s.acts ++ [lcAct t] } : State).linkQuiet (t.w 8 % 32)).respond t ok) := by
  have hact (act : State → State × Ans) := State.linkNeedsLock_free hfree act
  change execLinkDisable t.fn s = _
  unfold execLinkDisable
  rw [run_command_of_asks h rfl (by decide) (by decide) (lcMine_self haction) (lcChk_noLane haction (by decide) hlane) ?now] <;> rw [hact]
  case now => dsimp only; split <;> rfl
  dsimp only
  split
  · next hoff => exact (if_pos hoff).symm
  · next hon => exact (if_neg hon).symm

theorem exec_linkEnable (hfree : s.lockBusy (2 * 256 + t.w 8 % 32) = false) (haction : bits (t.w 8) 8 3 = 1)
    (hlane : bits (t.w 8) 11 4 = 0) :
    exec (.linkEnable t.fn) s =
      if (s.link (t.w 8 % 32)).st = .disabled ∨ (s.link (t.w 8 % 32)).st = .down then
        .next (({ (s.modLink (t.w 8 % 32) (·.detect false)) with acts := s.acts ++ [lcAct t] } : State).respond t ok)
      else .next ((s.deferredEvent (lcAct t) stOk (s.link (t.w 8 % 32)).report).respond t ok) := by
  have hact (act : State → State × Ans) := State.linkNeedsLock_free hfree act
  change execLinkEnable t.fn s = _
  unfold execLinkEnable
  rw [run_command_of_asks h rfl (by decide) (by decide) (lcMine_self haction) (lcChk_noLane haction (by decide) hlane) ?now] <;> rw [hact]
  case now => dsimp only; split <;> rfl
  dsimp only
  split
  · next hoff => exact (if_pos hoff).symm
  · next hon => exact (if_neg hon).symm

theorem exec_linkRetrain (hfree : s.lockBusy (2 * 256 + t.w 8 % 32) = false) (haction : bits (t.w 8) 8 3 = 2)
    (hlane : bits (t.w 8) 11 4 = 0) :
    exec (.linkRetrain t.fn) s = .next (({ (s.setLock (2 * 256 + t.w 8 % 32)
        { s.lock (2 * 256 + t.w 8 % 32) with holder := some (lcAct t) }).modLink (t.w 8 % 32) (·.detect true) with
          acts := s.acts ++ [lcAct t] } : State).respond t ok) := by
  have hact (act : State → State) := State.linkTakesLock_free (t := t) hfree act
  change execLinkRetrain t.fn s = _
  unfold execLinkRetrain
  rw [run_command_of_asks h rfl (by decide) (by decide) (lcMine_self haction) (lcChk_noLane haction (by decide) hlane) ?now] <;> rw [hact]
  all_goals rfl

theorem exec_linkSpare_there (haction : bits (t.w 8) 8 3 = 3) (hlane : bits (t.w 8) 11 4 < 9)
    (hspare : (s.link (t.w 8 % 32)).rx.spare = some (bits (t.w 8) 11 4)) :
    exec (.linkSpare t.fn) s = .next ((s.deferredEvent (lcAct t) stOk (s.link (t.w 8 % 32)).report).respond t ok) := by
  have hthere : (s.link (lcLink t)).rx.spare = some (lcLane t) := hspare
  change execLinkSpare t.fn s = _
  unfold execLinkSpare
  rw [run_command_of_asks h rfl (by decide) (by decide) (lcMine_self haction) ?checks ?now]
  case checks =>
    refine List.forall_mem_cons.2 ⟨lcChk_lane haction hlane, List.forall_mem_singleton.2 ?_⟩
    dsimp only
    rw [hthere, beq_self_eq_true]
    rfl
  all_goals dsimp only
  all_goals rw [if_pos hthere]
  all_goals rfl

theorem exec_linkSpare_moves (hfree : s.lockBusy (2 * 256 + t.w 8 % 32) = false) (haction : bits (t.w 8) 8 3 = 3)
    (hlane : bits (t.w 8) 11 4 < 9) {m : Nat} (hspare : (s.link (t.w 8 % 32)).rx.spare = some m) (hm : m ≠ bits (t.w 8) 11 4)
    (hfull : (s.link (t.w 8 % 32)).rx.half = false)
    (hst : (s.link (t.w 8 % 32)).st = .active ∨ (s.link (t.w 8 % 32)).st = .recovery) :
    exec (.linkSpare t.fn) s = .next (({ (s.setLock (2 * 256 + t.w 8 % 32)
        { s.lock (2 * 256 + t.w 8 % 32) with holder := some (lcAct t) }).modLink (t.w 8 % 32) (fun l =>
          if l.rx.roles.contains (bits (t.w 8) 11 4) && l.spreq.isNone then { l with spreq := some (bits (t.w 8) 11 4), spOwn := false }
          else l) with
        acts := s.acts ++ [lcAct t] } : State).respond t ok) := by
  have hspare' : (s.link (lcLink t)).rx.spare = some m := hspare
  have hother : (s.link (lcLink t)).rx.spare ≠ some (lcLane t) := by
    rw [hspare']
    exact fun heq => hm (Option.some.inj heq)
  have hfull' : (s.link (lcLink t)).rx.half = false := hfull
  have hst' : (s.link (lcLink t)).st = .active ∨ (s.link (lcLink t)).st = .recovery := hst
  have hact (act : State → State) := State.linkTakesLock_free (t := t) hfree act
  change execLinkSpare t.fn s = _
  unfold execLinkSpare
  rw [run_command_of_asks h rfl (by decide) (by decide) (lcMine_self haction) ?checks ?now]
  case checks =>
    refine List.forall_mem_cons.2 ⟨lcChk_lane haction hlane, List.forall_mem_singleton.2 ?_⟩
    simpa [hspare', hfull'] using fun _ h1 => hst'.resolve_left h1
  all_goals dsimp only
  all_goals rw [if_neg hother, hact]
  all_goals rfl

end

/-- Settles O7: each command by its own equation, with the lock free. -/
theorem linkCommandsExecute : Obligations.LinkCommandsExecute := by
  unfold Obligations.LinkCommandsExecute
  refine fun s t p => ⟨exec_linkStatus, fun h hfree => ⟨exec_linkDisable h hfree, exec_linkEnable h hfree, exec_linkRetrain h hfree,
    exec_linkSpare_there h, ?_⟩⟩
  rintro haction hlane ⟨m, hspare, hm⟩ hfull hst
  exact exec_linkSpare_moves h hfree haction hlane hspare hm hfull hst

end Sys2Proof.Machine
end

section
/-! The router, remote requests and the traffic of communicators (R426 to R456). -/

namespace Sys2Proof.Machine

variable {s : State} {i : Nat} {p : List Byte}

/-! ### The router (R426, R427) -/

theorem exec_packetForward {a : Arrival} (ha : s.arrivals[i]? = some a) (hother : s.devid ≠ some (BitVec.ofNat 12 (pkDst a.data)))
    (hfailed : s.boot.failed = false) : exec (.packetForward i) s = .next ((s.take i).forward a.data a.level a.link.isNone) := by
  change execPacketForward i s = _
  unfold execPacketForward
  rw [ha]
  dsimp only
  rw [if_neg (by rw [hfailed]; simpa using hother)]

/-- What the router finds leaves on an ACTIVE link of the route, one hop spent. -/
theorem State.route_ok {p q : List Byte} {level out vc : Nat} (h : s.route p level = .ok (q, out, vc)) :
    (s.link out).st = .active ∧ bitOf (s.routeMask (pkDst p)) out = true ∧ q = setWord p 1 (pkWord p 1 - 256) := by
  unfold State.route at h
  dsimp only at h
  split at h
  · cases h
  · split at h
    · cases h
    · split at h
      · cases h
      · next o hget =>
        cases h
        have hmem := List.mem_of_getElem? hget
        unfold State.routeLinks at hmem
        simp only [List.mem_filter, Bool.and_eq_true, beq_iff_eq] at hmem
        exact ⟨hmem.2.2, hmem.2.1, rfl⟩

theorem State.emit_other (hother : s.devid ≠ some (BitVec.ofNat 12 (pkDst p))) {level : Nat} :
    (∀ r, s.route p level = .error r → s.emit p level = .error r)
      ∧ ∀ q out vc, s.route p level = .ok (q, out, vc) →
        s.emit p level = .ok ((s.putLink out ((s.link out).send vc q)).count (State.unitCascade (out / 16)) 0x001 1 1 0) := by
  unfold State.emit
  rw [if_neg hother]
  constructor
  · intro r h
    rw [h]
  · intro q out vc h
    rw [h]

/-- The state without what a dropped packet and its event may change. -/
def State.besideDrops (s : State) : State := { s.besideEvents with dropped := [] }

theorem State.noteDrop_besideDrops (s : State) (code data0 : Nat) : (s.noteDrop code data0).besideDrops = s.besideDrops := by
  have hevents {u : State} {d : SMap DropRec} (h : u.besideEvents = State.besideEvents { s with dropped := d }) :
      u.besideDrops = s.besideDrops := by
    unfold State.besideDrops
    rw [h]
    rfl
  unfold State.noteDrop
  extract_lets r first due
  split
  · exact hevents (State.eventTo_besideEvents _ _ _ _ _ _ _)
  · rfl

/-- A NOTICE has this device's ID, and nothing else of the state. -/
theorem State.notice_congr {t : State} (h : t.devid = s.devid) (reason : Nat) : t.notice p reason = s.notice p reason := by
  unfold State.notice State.own
  rw [h]

/-- Settles O40: by what `State.emit` does with a packet for another device. -/
theorem routerForwards : Obligations.RouterForwards := by
  unfold Obligations.RouterForwards
  intro s i a ha hother hfailed
  have hexec := exec_packetForward ha hother hfailed
  have hemit : (∀ r, s.route a.data a.level = .error r → (s.take i).emit a.data a.level = .error r) ∧ _ :=
    State.emit_other (s := s.take i) hother
  refine ⟨fun q out vc h => ⟨?_, State.route_ok h⟩, fun r h htype => ?_, ?_⟩
  · rw [hexec, State.forward, hemit.2 q out vc h]
    rfl
  · rw [hexec, State.forward, hemit.1 r h]
    exact congrArg _ (if_pos htype)
  · intro r u h htype hlink noted hnoted
    rw [hexec, State.forward, hemit.1 r h]
    dsimp only
    have hdevid : noted.devid = (s.take i).devid := (congrArg State.devid (State.noteDrop_besideDrops ..) :)
    rw [State.notice_congr hdevid] at hnoted
    rw [if_neg htype, if_neg (by simp [Option.isSome_iff_ne_none.1 hlink]), hnoted]

/-! ### Requests of other devices (R433, R435) -/

theorem State.onArrival_of {ptype : Nat} (h : s.arrival? i ptype = some p) (f : State → List Byte → State) :
    s.onArrival i ptype f = f (s.take i) p := by
  unfold State.onArrival
  rw [h]

theorem State.arrival?_type {ptype : Nat} (h : s.arrival? i ptype = some p) : pkType p = ptype := by
  unfold State.arrival? at h
  split at h
  · split at h
    · next hcond => cases h; exact hcond.2.1
    · cases h
  · cases h

theorem exec_remoteRequest (hlive : s.live = true) {c : Instr}
    (h : (c = .remoteWrite i ∧ s.arrival? i 0x01 = some p) ∨ (c = .remoteSignal i ∧ s.arrival? i 0x02 = some p)) :
    exec c s = .next ((s.take i).takeRequest p) := by
  obtain ⟨rfl, hp⟩ | ⟨rfl, hp⟩ := h
  · change execRemoteWrite i s = _
    rw [execRemoteWrite, State.run_live hlive, State.onArrival_of hp]
  · change execRemoteSignal i s = _
    rw [execRemoteSignal, State.run_live hlive, State.onArrival_of hp]

theorem State.takeRequest_first (hnew : SMap.get none s.dups (pkSrc p) = none) (hseq : BitVec.ofNat 32 (pkParam p) = 1) :
    s.takeRequest p
      = (s.serveRequest (pkSrc p) { epoch := BitVec.ofNat 32 (pkWord p 5), expected := 1, held := [], recent := [] } p).1 := by
  unfold State.takeRequest
  dsimp only
  rw [hnew]
  exact if_pos hseq

section
variable {d : DupRec} (hd : SMap.get none s.dups (pkSrc p) = some d) (hepoch : d.epoch = BitVec.ofNat 32 (pkWord p 5))
  (hturn : BitVec.ofNat 32 (pkParam p) ≠ d.expected)
include hd hepoch hturn

theorem State.takeRequest_ahead (hnear : (BitVec.ofNat 32 (pkParam p) - d.expected).toNat ≤ 63)
    (hnew : d.held.any (fun h => h.1 == BitVec.ofNat 32 (pkParam p)) = false) :
    s.takeRequest p = { s with
      dups := SMap.set none s.dups (pkSrc p) (some { d with held := d.held ++ [(BitVec.ofNat 32 (pkParam p), p)] }) } := by
  unfold State.takeRequest
  dsimp only
  rw [hd]
  dsimp only
  rw [if_neg (not_not_intro hepoch), if_neg hturn, if_pos hnear, if_neg (by rw [hnew]; decide)]

theorem State.takeRequest_duplicate (hfar : 63 < (BitVec.ofNat 32 (pkParam p) - d.expected).toNat) {r : BitVec 32 × Word16}
    (hr : d.recent.find? (fun r => r.1 == BitVec.ofNat 32 (pkParam p)) = some r) : s.takeRequest p = s.acknowledge p r.2 := by
  unfold State.takeRequest
  dsimp only
  rw [hd]
  dsimp only
  rw [if_neg (not_not_intro hepoch), if_neg hturn, if_neg (Nat.not_le.2 hfar), hr]
end

section
variable {w : Window} (hw : s.window = some w) (hsize : w.size ≠ 0)
include hw hsize

theorem State.applyRequest_write {s1 : State} (htype : pkType p = 1) (hlen : pkWord p 4 + (p.drop 32).length ≤ w.size * 65536)
    (hstore : s.store { part := w.part, fn := w.fn } (w.base + pkWord p 4) (p.drop 32) = .ok s1) : s.applyRequest p = (s1, stOk) := by
  unfold State.applyRequest
  rw [hw]
  dsimp only
  rw [if_neg hsize, if_pos htype, if_neg (Nat.not_lt.2 hlen), hstore]

theorem State.applyRequest_signal (htype : pkType p = 2) (hmask : bitOf w.mask (pkWord p 4 / 1024) = true)
    (hsync : (s.part w.part).hasSync (pkWord p 4) = true) :
    s.applyRequest p = (s.syncAdd (pkWord p 4) (pkWord p 6 + 2 ^ 32 * pkWord p 7), stOk) := by
  unfold State.applyRequest
  rw [hw]
  dsimp only
  rw [if_neg hsize, if_neg (by rw [htype]; decide), if_pos (by rw [hmask, hsync]; rfl)]
end

/-- A first request that is applied is recorded and answered with ST_OK. -/
theorem State.serveRequest_first {src : Nat} {epoch : BitVec 32} {s1 : State} (hseq : BitVec.ofNat 32 (pkParam p) = 1)
    (happly : s.applyRequest p = (s1, stOk)) :
    (s.serveRequest src { epoch := epoch, expected := 1, held := [], recent := [] } p).1
      = State.acknowledge { s1 with
          dups := SMap.set none s1.dups src (some { epoch := epoch, expected := 2, held := [], recent := [(1, stOk)] }) } p stOk := by
  unfold State.serveRequest
  rw [happly, hseq]
  rfl

/-- Settles O41: `State.takeRequest` of a first request, of one ahead of its turn, and of a duplicate. -/
theorem remoteRequestsApplyOnce : Obligations.RemoteRequestsApplyOnce := by
  unfold Obligations.RemoteRequestsApplyOnce
  intro s i p hlive
  refine ⟨?_, fun d hd hepoch hturn hnear hheld c hc => ?_,
    fun d r hd hepoch hturn hfar hr => ⟨fun hp => ?_, fun hp => ?_⟩⟩
  · intro w hnew hseq hw hsize first
    refine ⟨fun s1 hp hlen hstore => ?_, fun hp hmask hsync => ?_⟩
    · rw [exec_remoteRequest hlive (.inl ⟨rfl, hp⟩), State.takeRequest_first (s := s.take i) hnew hseq,
        State.serveRequest_first hseq (State.applyRequest_write (s := s.take i) hw hsize (State.arrival?_type hp) hlen hstore)]
    · rw [exec_remoteRequest hlive (.inr ⟨rfl, hp⟩), State.takeRequest_first (s := s.take i) hnew hseq,
        State.serveRequest_first hseq (State.applyRequest_signal (s := s.take i) hw hsize (State.arrival?_type hp) hmask hsync)]
  · rw [exec_remoteRequest hlive hc, State.takeRequest_ahead (s := s.take i) hd hepoch hturn hnear hheld]
    rfl
  · rw [exec_remoteRequest hlive (.inl ⟨rfl, hp⟩), State.takeRequest_duplicate (s := s.take i) hd hepoch hturn hfar hr]
  · rw [exec_remoteRequest hlive (.inr ⟨rfl, hp⟩), State.takeRequest_duplicate (s := s.take i) hd hepoch hturn hfar hr]

/-! ### Own requests (R432, R436) -/

section
variable {r : RemReq} {dst : Nat} {seq : BitVec 32}

theorem exec_ack (hlive : s.live = true) (hp : s.arrival? i 0x10 = some p) (hst : knownStatus (BitVec.ofNat 16 (pkWord p 4)) = true)
    (hr : s.reqs.find? (fun r => r.dst == pkSrc p && r.seq.toNat == pkParam p && pkWord p 5 == s.boot.epoch.toNat) = some r) :
    exec (.ack i) s = .next ((s.take i).endRequest r (BitVec.ofNat 16 (pkWord p 4))) := by
  change execAck i s = _
  unfold execAck
  rw [State.run_live hlive, State.onArrival_of hp, if_neg (by rw [hst]; decide)]
  have hr' : (s.take i).reqs.find? (fun r => r.dst == pkSrc p && r.seq.toNat == pkParam p && pkWord p 5 == (s.take i).boot.epoch.toNat)
      = some r := hr
  rw [hr']

theorem exec_notice (hlive : s.live = true) (hp : s.arrival? i 0x11 = some p) (hepoch : pkWord p 5 ≠ 0)
    (hr : s.reqs.filter (fun r => r.seq.toNat == pkParam p && pkWord p 5 == s.boot.epoch.toNat) = [r]) :
    exec (.notice i) s = .next ((s.take i).draw.2.endRequest r stLinkDown) := by
  change execNotice i s = _
  unfold execNotice
  rw [State.run_live hlive, State.onArrival_of hp, if_pos hepoch]
  have hr' : (s.take i).reqs.filter (fun r => r.seq.toNat == pkParam p && pkWord p 5 == (s.take i).boot.epoch.toNat) = [r] := hr
  rw [hr']
  dsimp only
  rw [List.length_singleton, Nat.mod_one]
  rfl

theorem exec_remoteResend (hlive : s.live = true) (hr : s.reqs.find? (fun r => r.dst == dst && r.seq == seq) = some r) :
    exec (.remoteResend dst seq) s = .next (State.forward { s with reqs := s.reqs.map (fun x =>
      if x = r then { r with last := s.time, via := s.outLink r.data, lost := false } else x) } r.data 0 true) := by
  change execRemoteResend dst seq s = _
  unfold execRemoteResend
  rw [State.run_live hlive, hr]

theorem exec_remoteGiveUp (hlive : s.live = true) (hr : s.reqs.find? (fun r => r.dst == dst && r.seq == seq) = some r) :
    exec (.remoteGiveUp dst seq) s = .next (s.endRequest r (if r.exhausted then stReplay else stLinkDown)) := by
  change execRemoteGiveUp dst seq s = _
  unfold execRemoteGiveUp
  rw [State.run_live hlive, hr]

theorem State.interval_keeps (s : State) (part kind qual len : Nat) :
    (s.interval part kind qual len).packets = s.packets ∧ (s.interval part kind qual len).reqs = s.reqs := by
  unfold State.interval
  extract_lets
  split <;> exact ⟨rfl, rfl⟩

/-- A packet that was not done before is done with the status that it ends with. -/
theorem State.finish_status {q detail : Nat} {st : Word16} (hopen : ∀ x ∈ s.packets, x.queue = q → x.seq = seq → x.work ≠ .done)
    {x : Packet} (hx : x ∈ (s.finish q seq st detail).packets) (hq : x.queue = q) (hseq : x.seq = seq) : x.work = .done ∧ x.status = st := by
  refine ⟨State.finish_done hx hq hseq, ?_⟩
  obtain ⟨y, hy, rfl⟩ := List.mem_map.1 hx
  by_cases hid : y.queue = q ∧ y.seq = seq
  · rw [if_pos hid]
    exact congrArg Packet.status (if_neg (hopen y hy hid.1 hid.2))
  · rw [if_neg hid] at hq hseq
    exact absurd ⟨hq, hseq⟩ hid

/-- A request of a packet ends: it waits for no answer any more, and its packet is done with the status. -/
theorem State.endRequest_packet {q : Nat} (hfrom : r.from_ = .packet q seq) (st : Word16) :
    (s.endRequest r st).reqs = s.reqs.erase r
      ∧ ((∀ x ∈ s.packets, x.queue = q → x.seq = seq → x.work ≠ .done) →
        ∀ x ∈ (s.endRequest r st).packets, x.queue = q → x.seq = seq → x.work = .done ∧ x.status = st) := by
  unfold State.endRequest State.answered
  rw [hfrom]
  obtain ⟨hpackets, hreqs⟩ := State.interval_keeps { s with reqs := s.reqs.erase r } (s.queuePart r.queue)
    0x06 0 (s.time - r.first)
  refine ⟨hreqs, fun hopen x hx => State.finish_status (fun y hy => ?_) hx⟩
  rw [hpackets] at hy
  exact hopen y hy
end

/-- Settles O42: each row by its own equation, and `State.endRequest` for the packet that waited. -/
theorem ownRequestsEnd : Obligations.OwnRequestsEnd := by
  unfold Obligations.OwnRequestsEnd
  intro s i p r hlive
  refine ⟨fun hp hst hr => ⟨exec_ack hlive hp hst hr, fun q seq hfrom => ⟨_, exec_ack hlive hp hst hr, ?_⟩⟩, exec_notice hlive,
    fun dst seq hr => ⟨exec_remoteResend hlive hr, exec_remoteGiveUp hlive hr⟩⟩
  exact State.endRequest_packet (s := s.take i) hfrom _

end Sys2Proof.Machine
end

section
/-! Traffic, JOINs and losses of communicators (R439, R446, R447, R450, R453). -/

namespace Sys2Proof.Machine

/-! ### Packets of a collective (R446, R447, R450) -/

section
variable {s : State} {a i : Nat} {c : Comm} {k : Coll} {p : List Byte}

theorem State.onColl_use {ptype : Nat} (hp : s.arrival? a ptype = some p) (hmatch : s.matchColl p = .use i c k)
    (f : State → List Byte → Nat → Comm → Coll → State) : s.onColl a ptype f = f (s.take a) p i c k := by
  unfold State.onColl
  rw [hp]
  dsimp only
  rw [hmatch]

section
variable (hlive : s.live = true) (hmatch : s.matchColl p = .use i c k)
include hlive hmatch

theorem exec_collUp (hp : s.arrival? a 0x20 = some p) (hn : cbN p ≠ 0) (hup : k.ph = .up) (hagrees : State.agrees p k = true)
    (hchunk : (cbFirst p, cbN p) ∈ k.chunks c.nmem) (hchild : cbRank p ∈ k.children c (c.own.getD 0))
    (hnew : ∀ x ∈ k.kids, ¬ (x.1 = cbRank p ∧ x.2.1 = cbFirst p)) {d : List Byte} (hd : unwireChunk k.op (cbN p) (p.drop 48) = some d) :
    exec (.collUp a) s = .next (((s.take a).modColl i k (fun x => { x with kids := x.kids ++ [(cbRank p, cbFirst p, d)] })).collRun i) := by
  change execCollUp a s = _
  unfold execCollUp
  have hkids : k.kids.any (fun x => x.1 == cbRank p && x.2.1 == cbFirst p) = false := by simpa using hnew
  rw [State.run_live hlive, State.onColl_use hp hmatch, if_neg (fun h => hn h.1), if_neg (not_not_intro hup),
    if_neg (by rw [hagrees]; decide), if_neg (by simp [hchunk, hchild, hkids]), hd]

theorem exec_collDown_chunk (hp : s.arrival? a 0x21 = some p) (hph : k.ph ≠ .finished) (hst : cbStatus p = stOk)
    (hagrees : State.agrees p k = true) (hchunk : (cbFirst p, cbN p) ∈ k.chunks c.nmem) (hnew : cbFirst p ∉ k.done) {d : List Byte}
    (hd : unwireChunk k.op (cbN p) (p.drop 48) = some d) :
    exec (.collDown a) s = .next (((s.take a).downChunk i k (cbFirst p, cbN p) d).collRun i) := by
  change execCollDown a s = _
  unfold execCollDown
  rw [State.run_live hlive, State.onColl_use hp hmatch, if_neg (by simpa using hph), if_neg (by rw [hst]; decide),
    if_neg (by rw [hst]; decide), if_neg (by simp [hagrees, hchunk, hnew]), hd]

theorem exec_collDown_status (hp : s.arrival? a 0x21 = some p) (hst : cbStatus p ≠ stOk) (hknown : knownStatus (cbStatus p) = true)
    (hup : k.ph = .up) : exec (.collDown a) s = .next ((s.take a).downStatus i c k 0x21 (cbStatus p)) := by
  change execCollDown a s = _
  unfold execCollDown
  rw [State.run_live hlive, State.onColl_use hp hmatch, if_neg (by rw [hup]; decide), if_neg (by rw [hknown]; decide),
    if_pos (by simpa using hst), if_pos hup]

theorem exec_barUp (hp : s.arrival? a 0x22 = some p) (hup : k.ph = .up) (hagrees : State.agrees p k = true) :
    exec (.barUp a) s = .next (((s.take a).modColl i k (fun x => { x with ranks := insAsc (cbRank p) x.ranks })).collRun i) := by
  change execBarUp a s = _
  unfold execBarUp
  rw [State.run_live hlive, State.onColl_use hp hmatch, if_neg (not_not_intro hup), if_neg (by rw [hagrees]; decide)]

theorem exec_barDown (hp : s.arrival? a 0x23 = some p) (hup : k.ph = .up) (hknown : knownStatus (cbStatus p) = true) :
    exec (.barDown a) s = .next ((s.take a).downStatus i c k 0x23 (cbStatus p)) := by
  change execBarDown a s = _
  unfold execBarDown
  rw [State.run_live hlive, State.onColl_use hp hmatch, if_neg (by rw [hknown]; decide), if_pos hup]
end

/-! ### Sending again, and CTIMEOUT (R446, R450) -/

theorem exec_chunkResend {me : Nat} (hlive : s.live = true) (hc : s.comm i = some c) (hk : c.front = some k) (hown : c.own = some me)
    (hme : me ≠ 0) (hup : k.ph = .up) : exec (.chunkResend i) s = .next (s.resendUp c k) := by
  change execChunkResend i s = _
  unfold execChunkResend
  rw [State.run_live hlive, hc]
  dsimp only
  rw [hk, hown]
  dsimp only
  rw [if_neg (by simp [hme, hup])]

theorem State.resendUp_barrier {me : Nat} (hown : c.own = some me) (hop : k.op = 5) (hsent : k.sent ≠ []) :
    s.resendUp c k = s.sendColl c k (k.parent c me) 0x22 0 0 stOk [] := by
  unfold State.resendUp
  extract_lets up
  rw [if_pos hop, if_neg (by simpa using hsent)]
  unfold up
  rw [hown, Option.getD_some]

theorem State.resendUp_chunk {me : Nat} {ch : Nat × Nat} {d : List Byte} (hown : c.own = some me) (hop : k.op ≠ 5)
    (hch : k.chunks c.nmem = [ch]) (hsent : k.sent.contains ch.1 = true) (hd : State.upChunk c k ch = some d) :
    s.resendUp c k = s.sendColl c k (k.parent c me) 0x20 ch.1 ch.2 stOk (wireChunk k.op d) := by
  unfold State.resendUp
  extract_lets up
  rw [if_neg hop, hch, List.foldl_cons, List.foldl_nil, if_neg (by rw [hsent]; decide), hd]
  unfold up
  rw [hown, Option.getD_some]

theorem exec_ctimeoutExpiry (hlive : s.live = true) (hc : s.comm i = some c)
    (hk : c.colls.find? (fun k => k.ph == .waiting || k.ph == .up) = some k) (hup : k.ph = .up) :
    exec (.ctimeoutExpiry i) s = .next ((s.endColl i k stTimeout).collRun i) := by
  change execCtimeoutExpiry i s = _
  unfold execCtimeoutExpiry
  rw [State.run_live hlive, hc]
  dsimp only
  rw [hk]
  dsimp only
  rw [if_neg (by rw [hup]; simp)]
end

/-! ### JOIN and LOST (R439, R453) -/

section
variable {s : State} {a i : Nat} {c : Comm} {p : List Byte}

section
variable (hlive : s.live = true) (hp : s.arrival? a 0x30 = some p)
include hlive hp

theorem exec_join_unknown (hnone : s.commOf (pkParam p) = none) : exec (.join a) s = .next (s.take a) := by
  change execJoin a s = _
  unfold execJoin
  rw [State.run_live hlive, hp]
  dsimp only
  rw [hnone]

theorem exec_join_later (hc : s.commOf (pkParam p) = some (i, c)) (hgen : c.gen < cbGen p) : exec (.join a) s = .next s := by
  change execJoin a s = _
  unfold execJoin
  rw [State.run_live hlive, hp]
  dsimp only
  rw [hc]
  dsimp only
  rw [if_neg (Nat.lt_asymm hgen), if_pos hgen]

theorem exec_join_now (hc : s.commOf (pkParam p) = some (i, c)) (hgen : cbGen p = c.gen) :
    exec (.join a) s = .next ((s.take a).takeJoin p i c) := by
  change execJoin a s = _
  unfold execJoin
  rw [State.run_live hlive, hp]
  dsimp only
  rw [hc]
  dsimp only
  rw [if_neg (by rw [hgen]; exact Nat.lt_irrefl _), if_neg (by rw [hgen]; exact Nat.lt_irrefl _)]
end

section
variable (hst : c.st ≠ .broken)
include hst

theorem State.takeJoin_below (hdigest : cbCount p = c.digest32) (hfrom : c.joinTo ≠ some (pkSrc p)) (hready : c.st ≠ .ready) :
    s.takeJoin p i c = ((s.setComm i (some { c with joined := insAsc (pkSrc p) c.joined })).joinStep i).collRun i := by
  unfold State.takeJoin
  extract_lets from_
  rw [if_neg hst, if_neg (not_not_intro hdigest), if_neg hfrom, if_neg hready]

theorem State.takeJoin_above (hdigest : cbCount p = c.digest32) (hfrom : c.joinTo = some (pkSrc p)) (hready : c.st ≠ .ready) :
    s.takeJoin p i c = ((s.commEnter i { c with next := 0 } .ready 0 0 false).joinDown c).collRun i := by
  unfold State.takeJoin
  extract_lets from_
  rw [if_neg hst, if_neg (not_not_intro hdigest), if_pos hfrom, if_neg hready]

theorem State.takeJoin_mismatch (hdigest : cbCount p ≠ c.digest32) : s.takeJoin p i c = s.joinMismatch i c (pkSrc p) (cbCount p) := by
  unfold State.takeJoin
  extract_lets from_
  rw [if_neg hst, if_pos hdigest]
end

theorem exec_joinResend {d : Nat} (hlive : s.live = true) (hc : s.comm i = some c) (hd : c.joinTo = some d)
    (hst : c.st = .forming ∨ c.st = .remapping) (hsent : c.joinSent = true) :
    exec (.joinResend i) s = .next (s.sendJoin c d c.digest32) := by
  change execJoinResend i s = _
  unfold execJoinResend
  rw [State.run_live hlive, hc]
  dsimp only
  rw [hd]
  dsimp only
  rw [if_pos ⟨hst, hsent⟩]

theorem exec_lost (hlive : s.live = true) (hp : s.arrival? a 0x31 = some p) (hc : s.commOf (pkWord p 4) = some (i, c)) :
    exec (.lost a) s = .next ((s.take a).commLoss i (pkParam p % 4096) (cbRank p)) := by
  change execLost a s = _
  unfold execLost
  rw [State.run_live hlive, State.onArrival_of hp, show (s.take a).commOf (pkWord p 4) = some (i, c) from hc]
end

/-- Settles O43: each row by its own equation. -/
theorem collectiveTrafficAndJoins : Obligations.CollectiveTrafficAndJoins := by
  unfold Obligations.CollectiveTrafficAndJoins
  refine ⟨fun s a i c k p hlive => ⟨?_, ?_, ?_, ?_, ?_, ?_⟩, fun s a i c p hlive => ⟨?_, ?_, ?_, ?_, ?_⟩⟩
  · intro hp hmatch hn hup hagrees hchunk hchild hnew d hd
    exact exec_collUp hlive hmatch hp hn hup hagrees hchunk hchild hnew hd
  · intro hp hmatch hph
    exact ⟨fun hst hagrees hchunk hnew d hd => exec_collDown_chunk hlive hmatch hp hph hst hagrees hchunk hnew hd,
      exec_collDown_status hlive hmatch hp⟩
  · exact fun hp hmatch => exec_barUp hlive hmatch hp
  · exact fun hp hmatch => exec_barDown hlive hmatch hp
  · intro me hc hk hown hme hup
    rw [exec_chunkResend hlive hc hk hown hme hup]
    exact ⟨fun hop hsent => by rw [State.resendUp_barrier hown hop hsent],
      fun ch d hop hch hsent hd => by rw [State.resendUp_chunk hown hop hch hsent hd]⟩
  · exact exec_ctimeoutExpiry hlive
  · intro hp hc hgen hst
    rw [exec_join_now hlive hp hc hgen]
    exact ⟨fun hdigest hfrom hready => by rw [State.takeJoin_below hst hdigest hfrom hready],
      fun hdigest hfrom hready => by rw [State.takeJoin_above hst hdigest hfrom hready],
      fun hdigest => by rw [State.takeJoin_mismatch hst hdigest]⟩
  · exact exec_join_unknown hlive
  · exact exec_join_later hlive
  · exact fun d => exec_joinResend hlive
  · exact exec_lost hlive

end Sys2Proof.Machine
end

section
/-! The maintenance scheduler (R499, R500, R504 to R506). -/

namespace Sys2Proof.Machine

variable {s : State} {res : Nat}

/-! ### What the scheduler leaves alone -/

/-- The state without what events, locks and links change. -/
def State.besideMaint (s : State) : State := { s.besideEvents with links := [], rel := { s.besideEvents.rel with locks := [] } }

theorem State.besideMaint_of_besideEvents {s u : State} (h : u.besideEvents = s.besideEvents) : u.besideMaint = s.besideMaint := by
  unfold State.besideMaint
  rw [h]

theorem State.endMaint_besideMaint (s : State) (res : Nat) (st : Word16) (result : Nat) :
    (s.endMaint res st result).besideMaint = s.besideMaint := by
  unfold State.endMaint
  split
  · rfl
  · extract_lets l s1 s2
    have hs2 : s2.besideMaint = s.besideMaint := by
      unfold s2
      split <;> rfl
    split
    · exact (State.besideMaint_of_besideEvents (State.eventTo_besideEvents ..)).trans hs2
    · exact hs2

theorem State.beginMaint_besideMaint (s : State) (res : Nat) : (s.beginMaint res).besideMaint = s.besideMaint := by
  have hend := s.endMaint_besideMaint res stConflict 0
  unfold State.beginMaint
  split
  · split
    · extract_lets l
      split
      · split
        · rfl
        · exact hend
      · split
        · split
          · rfl
          · exact hend
        · split
          · split
            · rfl
            · exact hend
          · rfl
    · rfl
  · rfl

/-- A holder that gives way to an activity of the device itself. -/
theorem State.autoMaint_eq (s : State) (res act : Nat) :
    ∃ s1 : State, (s1 = s ∨ s1 = s.endMaint res stAborted 0)
      ∧ (s.autoMaint res act = s1 ∨ (∃ l, s.autoMaint res act = s1.setLock res l)
        ∨ ∃ l : Lock, s.autoMaint res act = (s1.setLock res
            { l with holder := some { fn := none, opcode := 0, seq := 0, kind := .maint res act } }).beginMaint res) := by
  unfold State.autoMaint
  extract_lets a s1 l
  refine ⟨s1, ?_, ?_⟩
  · unfold s1
    split
    · split
      · exact .inr rfl
      · exact .inl rfl
    · exact .inl rfl
  · split
    · exact .inl rfl
    · split
      · split
        · exact .inl rfl
        · exact .inr (.inl ⟨_, rfl⟩)
      · exact .inr (.inr ⟨_, rfl⟩)

theorem State.autoMaint_besideMaint (s : State) (res act : Nat) : (s.autoMaint res act).besideMaint = s.besideMaint := by
  obtain ⟨s1, hs1, hauto⟩ := s.autoMaint_eq res act
  have hbeside : s1.besideMaint = s.besideMaint := by
    obtain rfl | rfl := hs1
    · rfl
    · exact State.endMaint_besideMaint ..
  obtain h | ⟨l, h⟩ | ⟨l, h⟩ := hauto <;> rw [h]
  · exact hbeside
  · exact (show (s1.setLock res l).besideMaint = s1.besideMaint from rfl).trans hbeside
  · exact (State.beginMaint_besideMaint ..).trans hbeside

/-! ### Locks -/

theorem State.lock_setLock_self {l : Lock} (h : l ≠ {}) : (s.setLock res l).lock res = l := by
  unfold State.lock State.setLock
  rw [SMap.get_set_ne _ h, if_pos rfl]

/-- An activity on anything but a link starts with nothing else. -/
theorem State.beginMaint_other (hkind : resKind res ≠ 2) : s.beginMaint res = s := by
  unfold State.beginMaint
  split
  · exact if_neg hkind
  · rfl

/-- An activity of the device itself that finds its lock free holds it. -/
theorem State.autoMaint_free (hholder : (s.lock res).holder = none) (hqueue : (s.lock res).queue = []) (hkind : resKind res ≠ 2)
    (act : Nat) : ((s.autoMaint res act).lock res).holder = some { fn := none, opcode := 0, seq := 0, kind := .maint res act } := by
  have hauto : s.autoMaint res act = (s.setLock res { s.lock res with
      holder := some { fn := none, opcode := 0, seq := 0, kind := .maint res act } }).beginMaint res := by
    unfold State.autoMaint
    rw [hholder]
    dsimp only
    rw [hqueue, if_neg (by simp), hholder]
  rw [hauto, State.beginMaint_other hkind, State.lock_setLock_self (fun h => by cases congrArg Lock.holder h)]

/-- The activity that a free lock goes to is one of lowest rank. -/
theorem lowestRank_le {l : List Act} {a : Act} (h : lowestRank l = some a) : ∀ b ∈ l, a.rank ≤ b.rank := by
  induction l generalizing a with
  | nil => exact fun b hb => absurd hb List.not_mem_nil
  | cons x l ih =>
    unfold lowestRank at h
    split at h
    · next hnone =>
      cases h
      cases l with
      | nil =>
        intro b hb
        rw [List.mem_singleton.1 hb]
      | cons y l =>
        unfold lowestRank at hnone
        split at hnone <;> cases hnone
    · next b hb =>
      have hmin := ih hb
      cases h
      intro z hz
      split
      · next hlt =>
        obtain rfl | hz := List.mem_cons.1 hz
        · exact Nat.le_of_lt hlt
        · exact hmin z hz
      · next hle =>
        obtain rfl | hz := List.mem_cons.1 hz
        · exact Nat.le_refl _
        · exact Nat.le_trans (Nat.not_lt.1 hle) (hmin z hz)

/-! ### The rows -/

theorem exec_maintLockGrant {a : Act} (hlive : s.live = true) (hholder : (s.lock res).holder = none)
    (ha : lowestRank (s.lock res).queue = some a) :
    exec (.maintLockGrant res) s =
      .next ((s.setLock res { holder := some a, queue := (s.lock res).queue.erase a }).beginMaint res) := by
  change execMaintLockGrant res s = _
  unfold execMaintLockGrant State.grantLock
  rw [State.run_live hlive]
  dsimp only
  rw [hholder, ha]

theorem exec_autoRepair (hlive : s.live = true) (hdue : s.rel.persist.contains res = true) :
    exec (.autoRepair res) s
      = .next (State.autoMaint { s with rel := { s.rel with persist := s.rel.persist.filter (· != res) } } res 0) := by
  change execAutoRepair res s = _
  unfold execAutoRepair
  rw [State.run_live hlive, State.when_of hdue]

section
variable {a : Act} {act : Nat} (hlive : s.live = true) (hholder : (s.lock res).holder = some a) (hkind : a.kind = .maint res act)
  (hready : s.maintReady res act = true)
include hlive hholder hkind hready

theorem exec_maintActivityEnd_stack (result : BitVec 16) (hstack : resKind res = 1) (hact : act = 0) :
    exec (.maintActivityEnd res result) s = .next ((s.repairStack (resIndex res)).endMaint res stOk result.toNat) := by
  obtain ⟨fn, opcode, seq, kind⟩ := a
  cases hkind
  change execMaintActivityEnd res result s = _
  unfold execMaintActivityEnd
  rw [State.run_live hlive, hholder]
  dsimp only
  rw [State.when_of hready, if_neg (by rw [hstack]; simp), if_pos ⟨hstack, hact⟩]

theorem exec_maintActivityEnd_plain (result : BitVec 16) (hplain : resKind res = 2 ∨ resKind res = 4 ∨ (resKind res < 2 ∧ act ≠ 0)) :
    exec (.maintActivityEnd res result) s = .next (s.endMaint res stOk result.toNat) := by
  obtain ⟨fn, opcode, seq, kind⟩ := a
  cases hkind
  change execMaintActivityEnd res result s = _
  unfold execMaintActivityEnd
  rw [State.run_live hlive, hholder]
  dsimp only
  rw [State.when_of hready, if_neg (by omega), if_neg (by omega), if_neg (by omega), if_neg (by omega)]

theorem exec_maintActivityEnd_tile (result : BitVec 16) (htile : resKind res = 0) (hact : act = 0) :
    exec (.maintActivityEnd res result) s = .next
      ((s.repairTile (resIndex res) result.toNat).1.endMaint res stOk (s.repairTile (resIndex res) result.toNat).2) := by
  obtain ⟨fn, opcode, seq, kind⟩ := a
  cases hkind
  change execMaintActivityEnd res result s = _
  unfold execMaintActivityEnd
  rw [State.run_live hlive, hholder]
  dsimp only
  rw [State.when_of hready, if_pos ⟨htile, hact⟩]
end

/-- A first repair of band 0 takes the row out of use. -/
theorem State.repairTile_row {ph : Nat} {result : BitVec 16} (hnew : (s.tile ph).repair = (0x7F, 0x7F)) (hrow : result.toNat ≤ 64) :
    s.repairTile ph result.toNat = ({ s.modTile ph (fun t => { t with repair := (BitVec.ofNat 7 result.toNat, 0x7F) }) with
      flash := { s.flash with repairs := SMap.set (0x7F, 0x7F) s.flash.repairs ph (BitVec.ofNat 7 result.toNat, 0x7F) } }, result.toNat) := by
  have hband : bits result.toNat 7 1 = 0 := by
    unfold bits
    rw [Nat.div_eq_of_lt (Nat.lt_of_le_of_lt hrow (by decide)), Nat.zero_mod]
  have hseven : (BitVec.ofNat 7 result.toNat).toNat = result.toNat := by
    rw [BitVec.toNat_ofNat, Nat.mod_eq_of_lt (Nat.lt_of_le_of_lt hrow (by decide))]
  unfold State.repairTile
  rw [hnew, hband]
  dsimp only
  rw [if_neg (by simp only [if_pos, ne_eq, not_true_eq_false, false_and, or_false]; omega), if_neg (by rw [hseven]; omega), if_pos rfl]

/-- Settles O46: `lowestRank_le` for the grant, `State.autoMaint_free` for the repair that is due, and an equation for each end. -/
theorem maintenanceRuns : Obligations.MaintenanceRuns := by
  unfold Obligations.MaintenanceRuns
  intro s res hlive
  refine ⟨fun a hholder ha => ⟨exec_maintLockGrant hlive hholder ha, lowestRank_le ha⟩, fun hdue => ?_,
    fun a act result hholder hkind hready => ⟨?_, ?_, ?_⟩⟩
  · refine ⟨_, exec_autoRepair hlive hdue, ?_, fun hholder hqueue hkind => ?_⟩
    · have hpersist := congrArg (·.rel.persist) (State.autoMaint_besideMaint
        { s with rel := { s.rel with persist := s.rel.persist.filter (· != res) } } res 0)
      rw [show (State.autoMaint _ res 0).rel.persist = _ from hpersist]
      simp [State.besideMaint, State.besideEvents]
    · exact State.autoMaint_free (s := { s with rel := { s.rel with persist := s.rel.persist.filter (· != res) } }) hholder hqueue hkind 0
  · exact exec_maintActivityEnd_stack hlive hholder hkind hready result
  · exact exec_maintActivityEnd_plain hlive hholder hkind hready result
  · intro htile hact hnew hrow
    rw [exec_maintActivityEnd_tile hlive hholder hkind hready result htile hact, State.repairTile_row hnew hrow]

end Sys2Proof.Machine
end

section
/-! Failures of the device, uncorrectable errors and scrub (R490, R494 to R497, R501, R502, R524, R548). -/

namespace Sys2Proof.Machine

variable {s : State}

/-! ### The device that fails (R496, R548) -/

theorem Link.lastPeriods_down (l : Link) : (l.lastPeriods .down).st = .down ∨ ((l.lastPeriods .down).st = .active ∧ (l.lastPeriods .down).dying = 16) := by
  unfold Link.lastPeriods
  split
  · exact .inr ⟨‹_›, rfl⟩
  · exact .inl rfl

/-- What a device shows that has not failed before and fails. -/
theorem State.failDevice_fails (h : s.boot.failed = false) (i : FaultInfo) :
    (s.failDevice i).boot = { s.boot with
        failed := true, failclass := BitVec.ofNat 8 i.cls, failPin := true, aer := s.boot.aer || s.boot.pcieUp }
      ∧ (s.failDevice i).links = SMap.mapVals {} (fun _ l => l.lastPeriods .down) s.links := by
  have hbeside := State.report_besideReports s { i with severity := 4, action := 8, part := none }
  have hboot : (s.report { i with severity := 4, action := 8, part := none }).boot = s.boot := (congrArg State.boot hbeside :)
  have hlinks : (s.report { i with severity := 4, action := 8, part := none }).links = s.links := (congrArg State.links hbeside :)
  unfold State.failDevice
  rw [if_neg (by rw [h]; decide)]
  exact ⟨congrArg (fun b : Boot => { b with
    failed := true, failclass := BitVec.ofNat 8 i.cls, failPin := true, aer := b.aer || b.pcieUp }) hboot,
    (congrArg (SMap.mapVals ({} : Link) (fun _ l => l.lastPeriods .down)) hlinks :)⟩

theorem State.failDevice_failed (h : s.boot.failed = false) (i : FaultInfo) : (s.failDevice i).boot.failed = true := by
  rw [(State.failDevice_fails h i).1]

theorem State.live_of_failed (h : s.boot.failed = true) : s.live = false := by
  unfold State.live
  rw [h]
  simp

theorem State.failDevice_links (h : s.boot.failed = false) (i : FaultInfo) :
    ∀ l ∈ (s.failDevice i).links, l.2.st = .down ∨ (l.2.st = .active ∧ l.2.dying = 16) := by
  rw [(State.failDevice_fails h i).2]
  intro l hl
  obtain ⟨x, -, rfl⟩ := List.mem_map.1 (List.mem_of_mem_filter hl)
  exact x.2.lastPeriods_down

/-! ### Its causes (R494, R495, R524) -/

theorem exec_faultManagerLoss (hlive : s.live = true) (north south : Bool) :
    exec (.faultManagerLoss north south) s = .next (s.when (north && south) (·.failAnywhere 6)) := by
  change execFaultManagerLoss north south s = _
  exact State.run_live hlive _

theorem exec_clockLoss (hlive : s.live = true) : exec .clockLoss s = .next (s.failAnywhere 8) := by
  change execClockLoss s = _
  exact State.run_live hlive _

theorem exec_lockstepMismatch (hlive : s.live = true) (standby : Bool) :
    exec (.lockstepMismatch standby) s = .next (s.pairFails standby 7) := by
  change execLockstepMismatch standby s = _
  exact State.run_live hlive _

theorem State.pairFails_last (hstandby : s.boot.standbyOk = false) (cls : Nat) :
    s.pairFails false cls = s.failDevice { cls := cls, severity := 4, kind := 5, index := s.activeIdx } := by
  unfold State.pairFails
  rw [if_neg (by decide), if_pos (by rw [hstandby]; rfl)]

/-- What a change of the active pair is seen by: the boot state and the packets. -/
def State.core (s : State) : Boot × List Packet := (s.boot, s.packets)

theorem State.core_of_besideMaint {s u : State} (h : u.besideMaint = s.besideMaint) : u.core = s.core :=
  Prod.ext (congrArg State.boot h :) (congrArg State.packets h :)

theorem State.report_core (s : State) (i : FaultInfo) : (s.report i).core = s.core :=
  Prod.ext (congrArg State.boot (s.report_besideReports i) :) (congrArg State.packets (s.report_besideReports i) :)

theorem State.eventPF_core (s : State) (code source : Nat) (status : Word16) (d0 d1 : Nat) : (s.eventPF code source status d0 d1).core = s.core :=
  State.core_of_besideMaint (State.besideMaint_of_besideEvents (State.eventTo_besideEvents ..))

theorem State.autoMaint_core (s : State) (res act : Nat) : (s.autoMaint res act).core = s.core :=
  State.core_of_besideMaint (State.autoMaint_besideMaint ..)

theorem State.core_setBoot (s : State) (b : Boot) : ({ s with boot := b } : State).core = (b, s.core.2) := rfl

/-- The standby takes over from the active pair. -/
theorem State.pairFails_over (hstandby : s.boot.standbyOk = true) (cls : Nat) :
    (s.pairFails false cls).core = ({ s.boot with activePair := !s.boot.activePair, standbyOk := false }, s.packets) := by
  have hend (res : Nat) : (s.endMaint res stAborted 0).core = s.core := State.core_of_besideMaint (State.endMaint_besideMaint ..)
  have hboot (res : Nat) : (s.endMaint res stAborted 0).boot = s.boot := congrArg Prod.fst (hend res)
  unfold State.pairFails
  rw [if_neg (by decide), if_neg (by rw [hstandby]; decide)]
  dsimp only
  rw [State.autoMaint_core, State.eventPF_core, State.report_core, State.core_setBoot, hend, hboot]
  rfl

/-- The standby goes out of service. -/
theorem State.pairFails_standby (hstandby : s.boot.standbyOk = true) (cls : Nat) :
    (s.pairFails true cls).core = ({ s.boot with standbyOk := false }, s.packets) := by
  have hboot (i : FaultInfo) : (s.report i).boot = s.boot := congrArg Prod.fst (s.report_core i)
  unfold State.pairFails
  rw [if_pos rfl, if_neg (by rw [hstandby]; decide)]
  dsimp only
  rw [State.autoMaint_core, State.core_setBoot, State.report_core, hboot]
  rfl

theorem exec_thermalShutdown {sensor temp : Nat} (hhot : (sensor < 6 ∧ 115 < temp) ∨ (8 ≤ sensor ∧ sensor < 16 ∧ 105 < temp))
    (hporst : s.boot.porst = false) :
    exec (.thermalShutdown sensor temp) s = .next
      { s.failAnywhere 0x0C with boot := { (s.failAnywhere 0x0C).boot with thermtrip := true } } := by
  change execThermalShutdown sensor temp s = _
  unfold execThermalShutdown shutdownAt
  rw [State.when_of]
  rw [hporst]
  obtain ⟨hplace, htemp⟩ | ⟨hlow, hhigh, htemp⟩ := hhot
  · simp [hplace, htemp]
  · simp [Nat.not_lt.2 (Nat.le_trans (by decide : 6 ≤ 8) hlow), hlow, hhigh, htemp]

/-! ### The last marker periods (R420, R496) -/

theorem exec_markerPeriod_dying {n corrected : Nat} (hn : n < 32) (hdying : 1 < (s.link n).dying) :
    exec (.markerPeriod n corrected) s = .next (s.setLink n { ({ s.link n with mcount := (s.link n).mcount + 1 } : Link).sendBlocks n s.devid
      s.boot.failed [] with dying := (s.link n).dying - 1 }) := by
  change execMarkerPeriod n corrected s = _
  unfold execMarkerPeriod linkOk State.lastPeriod
  rw [State.when_of (by rw [decide_eq_true hn]), if_pos (by simp; omega)]
  exact congrArg _ (if_pos (by omega))

/-- A block of a device that has failed says so. -/
theorem Link.block_failed (l : Link) (n lane : Nat) (own : Option (BitVec 12)) (ask : EqAsk) :
    ((l.block n lane own true ask).getD 3 0).toNat.testBit 16 = true := by
  have hbeat := l.beat.isLt
  have hword : (l.block n lane own true ask).getD 3 0 = BitVec.ofNat 32 (l.beat.toNat + 2 ^ 16 * 1) := rfl
  rw [hword, BitVec.toNat_ofNat, Nat.mod_eq_of_lt (by omega), Nat.mul_one, Nat.testBit_eq_decide_div_mod_eq,
    Nat.add_div_right _ (by decide), Nat.div_eq_of_lt hbeat]
  rfl

/-- Settles O44: `State.failDevice_fails` for each cause, `State.pairFails` for the pairs, and the block of a last marker period. -/
theorem deviceFailures : Obligations.DeviceFailures := by
  unfold Obligations.DeviceFailures
  intro s hfailed
  refine ⟨fun info => ?fails, fun hlive => ⟨?both, fun north south h => ?one, exec_clockLoss hlive, ?_, fun hstandby => ?_, fun hstandby => ?_,
    fun hstandby => ?_⟩, fun sensor temp hhot hporst => ?thermal, fun t n corrected hn hfail hdying => ?dying⟩
  case fails =>
    have hboot := (State.failDevice_fails hfailed info).1
    refine ⟨?_, ?_, ?_, State.live_of_failed (State.failDevice_failed hfailed info), fun hup => ?_, State.failDevice_links hfailed info⟩ <;>
      rw [hboot]
    rw [hup]
    exact Bool.or_true _
  case both =>
    rw [exec_faultManagerLoss hlive]
    rfl
  case one =>
    rw [exec_faultManagerLoss hlive, State.when_of_not (Bool.and_eq_false_iff.2 h)]
  · exact State.failDevice_failed (s := s.draw.2) hfailed _
  · rw [exec_lockstepMismatch hlive, State.pairFails_last hstandby]
  · have hcore := State.pairFails_over hstandby 7
    have hboot : (s.pairFails false 7).boot = _ := congrArg Prod.fst hcore
    have hpackets : (s.pairFails false 7).packets = _ := congrArg Prod.snd hcore
    refine ⟨_, exec_lockstepMismatch hlive false, ?_, ?_, ?_, hpackets⟩ <;> rw [hboot]
    exact hfailed
  · have hboot : (s.pairFails true 7).boot = _ := congrArg Prod.fst (State.pairFails_standby hstandby 7)
    refine ⟨_, exec_lockstepMismatch hlive true, ?_, ?_⟩ <;> rw [hboot]
  case thermal =>
    have hboot : (s.failAnywhere 0x0C).boot = _ := (State.failDevice_fails (s := s.draw.2) hfailed _).1
    exact ⟨_, exec_thermalShutdown hhot hporst, congrArg Boot.failed hboot, rfl, congrArg Boot.failclass hboot⟩
  case dying =>
    refine ⟨_, exec_markerPeriod_dying hn hdying, ?_⟩
    have hlink : ({ ({ t.link n with mcount := (t.link n).mcount + 1 } : Link).sendBlocks n t.devid t.boot.failed [] with
        dying := (t.link n).dying - 1 } : Link) ≠ {} := by
      intro h
      have hzero : (t.link n).dying - 1 = 0 := congrArg Link.dying h
      omega
    rw [State.link_setLink_ne t hlink, if_pos rfl]
    refine ⟨rfl, rfl, rfl, fun b hb => ?_⟩
    obtain ⟨lane, -, rfl⟩ := List.mem_map.1 hb
    rw [hfail]
    exact Link.block_failed ..

end Sys2Proof.Machine
end

section
/-! Uncorrectable errors and scrub (R490, R497, R501, R502, R612). -/

namespace Sys2Proof.Machine

variable {s : State}

/-! ### Reports (R490, R497) -/

/-- The record of a fault. -/
def State.faultRecord (s : State) (i : FaultInfo) : FaultRec :=
  { seqno := s.rel.nextSeq, cls := i.cls, severity := i.severity, kind := i.kind, index := i.index, part := i.part,
    time := s.time, pkt := i.pkt, ltile := i.ltile, location := i.location, status := i.status, count := 1,
    action := i.action, detail := i.detail }

/-- A fault of severity 2 or more that no event queue is told of has a record of its own in the log. -/
theorem State.report_rel (hquiet : ∀ fn, s.eventQueue fn = none) {i : FaultInfo} (hsev : 2 ≤ i.severity) :
    (s.report i).rel = { s.rel with
        log := (if s.rel.log.length < logSize then s.rel.log else dropOldest s.rel.log) ++ [s.faultRecord i],
        nextSeq := s.rel.nextSeq + 1 }
      ∧ (s.report i).queues = s.queues := by
  have hmerge : (s.rel.log.any fun f => decide (i.severity ≤ 1) && f.severity == i.severity && f.kind == i.kind && f.index == i.index
      && f.cls == i.cls) = false := by
    rw [decide_eq_false (by omega)]
    simp
  have htold {u : State} (hu : u.queues = s.queues) (l : List Nat) (code source d0 d1 : Nat) (st : Word16) :
      l.foldl (fun s f => s.eventTo f code source st d0 d1) u = u := by
    induction l with
    | nil => rfl
    | cons f l ih =>
      have hnone : u.eventQueue f = none := by
        unfold State.eventQueue
        rw [hu]
        exact hquiet f
      rw [List.foldl_cons, State.eventTo, hnone]
      exact ih
  unfold State.report
  dsimp only
  rw [hmerge, if_neg (by decide), if_neg (by omega), htold ?queues]
  · exact ⟨rfl, rfl⟩
  case queues => rfl

theorem satInc_ne_zero (v : BitVec 64) : satInc v ≠ 0 := by
  unfold satInc
  split
  · next h =>
    rw [h]
    decide
  · next h =>
    intro hzero
    exact h ((eq_neg_of_add_eq_zero_left hzero).trans BitVec.neg_one_eq_allOnes)

/-- An uncorrectable error that no event queue is told of: its record at severity 2, and one more on the count. -/
theorem State.reportBad_rel (hquiet : ∀ fn, s.eventQueue fn = none) (kind index : Nat) (part : Option Nat) (loc : Nat) (st : Word16) :
    (s.reportBad kind index part none loc st).queues = s.queues
      ∧ (s.reportBad kind index part none loc st).rel.badHbm = s.rel.badHbm
      ∧ (s.reportBad kind index part none loc st).rel.nextSeq = s.rel.nextSeq + 1
      ∧ (SMap.get {} (s.reportBad kind index part none loc st).rel.counts (kind * 256 + index)).uncorr
        = satInc (SMap.get {} s.rel.counts (kind * 256 + index)).uncorr
      ∧ s.faultRecord { cls := if kind = 1 then 4 else 2, severity := 2, kind := kind, index := index, part := part,
                        location := loc, status := st } ∈ (s.reportBad kind index part none loc st).rel.log := by
  obtain ⟨hrel, hqueues⟩ := State.report_rel hquiet (i :=
    { cls := if kind = 1 then 4 else 2, severity := 2, kind := kind, index := index, part := part, location := loc, status := st })
    (Nat.le_refl 2)
  unfold State.reportBad State.tally
  dsimp only
  rw [hrel]
  refine ⟨hqueues, rfl, rfl, ?_, List.mem_append_right _ (List.mem_singleton_self _)⟩
  rw [SMap.get_set_ne _ (fun h => satInc_ne_zero _ (congrArg ErrCount.uncorr h)), if_pos rfl]

/-! ### HBM (R490, R500) -/

/-- A bad line of HBM that no event queue is told of. -/
theorem State.badHbmLine_rel (hquiet : ∀ fn, s.eventQueue fn = none) (pa : Nat) :
    (s.badHbmLine pa).rel.badHbm = insAsc (pa / 64) s.rel.badHbm ∧ s.rel.nextSeq < (s.badHbmLine pa).rel.nextSeq
      ∧ (SMap.get {} (s.badHbmLine pa).rel.counts (256 + stackOf pa)).uncorr = satInc (SMap.get {} s.rel.counts (256 + stackOf pa)).uncorr
      ∧ (s.seen (badKey 1 (stackOf pa) (pa / 64)) = 0 →
        ∃ f ∈ (s.badHbmLine pa).rel.log, f.severity = 2 ∧ f.cls = 4 ∧ f.kind = 1 ∧ f.index = stackOf pa) := by
  unfold State.badHbmLine
  extract_lets line h part key rel s1 s2
  obtain ⟨hqueues, hbad, hseq, hcount, hlog⟩ : s1.queues = s.queues ∧ s1.rel.badHbm = insAsc (pa / 64) s.rel.badHbm
      ∧ s1.rel.nextSeq = s.rel.nextSeq + 1 ∧ _ ∧ _ :=
    State.reportBad_rel (s := { s with rel := { s.rel with badHbm := insAsc line s.rel.badHbm } }) hquiet 1 h part (64 * line) stOk
  have hfirst : ∃ f ∈ s1.rel.log, f.severity = 2 ∧ f.cls = 4 ∧ f.kind = 1 ∧ f.index = stackOf pa := ⟨_, hlog, rfl, rfl, rfl, rfl⟩
  split
  · exact ⟨hbad, by omega, hcount, fun _ => hfirst⟩
  · split
    · exact ⟨hbad, (by omega : s.rel.nextSeq < s1.rel.nextSeq), hcount, fun _ => hfirst⟩
    · next hseen =>
      have hquiet1 (fn : Nat) : (s1.see key).eventQueue fn = none := by
        unfold State.eventQueue State.see
        rw [show ({ s1 with rel := _ } : State).queues = s.queues from hqueues]
        exact hquiet fn
      obtain ⟨hrel, -⟩ : s2.rel = _ ∧ s2.queues = _ := State.report_rel hquiet1 (by decide : 2 ≤ 3)
      have hnext : s2.rel.nextSeq = s1.rel.nextSeq + 1 := congrArg Rel.nextSeq hrel
      refine ⟨(congrArg Rel.badHbm hrel).trans hbad, (by omega : s.rel.nextSeq < s2.rel.nextSeq), ?_, fun h => absurd h hseen⟩
      exact (congrArg (fun r : Rel => (SMap.get {} r.counts (256 + stackOf pa)).uncorr) hrel).trans hcount

theorem State.uncorrectable_hbm (s : State) (index loc : Nat) (read : Bool) :
    s.uncorrectable 1 index loc read = if loc < 192 * 2 ^ 30 ∧ index = stackOf loc then s.badHbmLine loc else s := rfl

theorem State.uncorrectable_pair (s : State) (index loc : Nat) (read : Bool) :
    s.uncorrectable 5 index loc read
      = if index < 2 then (s.tally 5 index (fun c => { c with uncorr := satInc c.uncorr })).pairFails (index != s.activeIdx) 2 else s := rfl

theorem exec_uncorrectableError_hbm (hlive : s.live = true) {loc : BitVec 48} (hloc : loc.toNat < 192 * 2 ^ 30) :
    exec (.uncorrectableError 1 (State.stackOf loc.toNat) loc) s = .next (s.badHbmLine loc.toNat) := by
  change execUncorrectableError 1 _ loc s = _
  rw [execUncorrectableError, State.run_live hlive, State.uncorrectable_hbm, if_pos ⟨hloc, rfl⟩]

theorem exec_uncorrectableError_pair (hlive : s.live = true) {i : Nat} (hi : i < 2) (loc : BitVec 48) :
    exec (.uncorrectableError 5 i loc) s
      = .next ((s.tally 5 i (fun c => { c with uncorr := satInc c.uncorr })).pairFails (i != s.activeIdx) 2) := by
  change execUncorrectableError 5 i loc s = _
  rw [execUncorrectableError, State.run_live hlive, State.uncorrectable_pair, if_pos hi]

/-! ### Scrub (R501, R502) -/

theorem exec_scrubSlice (hlive : s.live = true) {res : Nat} (hholder : (s.lock res).holder = none) (hqueue : (s.lock res).queue = [])
    (hkind : resKind res ≠ 2) (hres : res < 6 * 256) (n : Nat) (bad : List (BitVec 48)) :
    exec (.scrubSlice res n bad) s = .next (bad.foldl (fun s l => s.uncorrectable (resKind res) (resIndex res) l.toNat false)
      (s.corrected (resKind res) (resIndex res) n)) := by
  change execScrubSlice res n bad s = _
  unfold execScrubSlice
  rw [State.run_live hlive, hholder]
  dsimp only
  rw [hqueue, State.when_of (by simp [hkind, hres])]

section
variable {res : Nat}

/-- A period as it is kept: 0 stands for the one set. -/
def State.putPeriod (s : State) (res p : Nat) : State :=
  { s with rel := { s.rel with periods := SMap.set 0 s.rel.periods res (if p = s.setPeriod res then 0 else p) } }

theorem State.scrubPeriod_putPeriod (hwf : SMap.wf 0 s.rel.periods = true) {p : Nat} (hle : p ≤ s.setPeriod res)
    (hpos : p ≠ s.setPeriod res → p ≠ 0) : (s.putPeriod res p).scrubPeriod res = p := by
  unfold State.scrubPeriod
  rw [show SMap.get 0 (s.putPeriod res p).rel.periods res = if p = s.setPeriod res then 0 else p from
    (SMap.get_set hwf res res _).trans (if_pos rfl)]
  change (if (if p = s.setPeriod res then 0 else p) = 0 then s.setPeriod res
    else Nat.min (if p = s.setPeriod res then 0 else p) (s.setPeriod res)) = p
  by_cases h : p = s.setPeriod res
  · rw [if_pos h, if_pos rfl, h]
  · rw [if_neg h, if_neg (hpos h)]
    exact Nat.min_eq_left hle

theorem State.scrubPeriod_le (s : State) (res : Nat) : s.scrubPeriod res ≤ s.setPeriod res := by
  unfold State.scrubPeriod
  dsimp only
  split
  · exact Nat.le_refl _
  · exact Nat.min_le_right _ _

/-- A period in force that is 0 is the one set. -/
theorem State.setPeriod_eq_zero (h : s.scrubPeriod res = 0) : s.setPeriod res = 0 := by
  unfold State.scrubPeriod at h
  dsimp only at h
  split at h
  · exact h
  · next hne =>
    have hmin : min (SMap.get 0 s.rel.periods res) (s.setPeriod res) = 0 := h
    omega

/-- An event changes no period and no record of the log. -/
theorem State.eventPF_scrub (s : State) (code source : Nat) (status : Word16) (d0 d1 res : Nat) :
    (s.eventPF code source status d0 d1).scrubPeriod res = s.scrubPeriod res
      ∧ (s.eventPF code source status d0 d1).rel.log = s.rel.log := by
  have h := State.eventTo_besideEvents s 0 code source status d0 d1
  have hrel : { (s.eventPF code source status d0 d1).rel with badHbm := [] } = { s.rel with badHbm := [] } := (congrArg State.rel h :)
  have hperiods := congrArg Rel.periods hrel
  have hhbm := congrArg Rel.scrubHbm hrel
  have hsram := congrArg Rel.scrubSram hrel
  dsimp only at hperiods hhbm hsram
  refine ⟨?_, (congrArg Rel.log hrel :)⟩
  unfold State.scrubPeriod State.setPeriod
  rw [hperiods, hhbm, hsram]

variable (hlive : s.live = true) (hres : res < 6 * 256) (hkind : resKind res ≠ 2)
include hlive hres hkind

theorem exec_scrubRate_halve (hlong : 15 < s.scrubPeriod res) :
    exec (.scrubRate res true) s = .next ((s.putPeriod res (Nat.max 15 (s.scrubPeriod res / 2))).draw.2.eventPF 0x0503
      (resIndex res + 256 * resKind res) stOk (Nat.max 15 (s.scrubPeriod res / 2)) (17 + s.draw.1 % 2 ^ 32)) := by
  change execScrubRate res true s = _
  unfold execScrubRate
  rw [State.run_live hlive]
  dsimp only
  rw [if_neg (by simp [Nat.not_le.2 hres, hkind]), if_pos rfl, State.when_of (decide_eq_true hlong)]
  rfl

theorem exec_scrubRate_least (hshort : s.scrubPeriod res ≤ 15) : exec (.scrubRate res true) s = .next s := by
  change execScrubRate res true s = _
  unfold execScrubRate
  rw [State.run_live hlive]
  dsimp only
  rw [if_neg (by simp [Nat.not_le.2 hres, hkind]), if_pos rfl, State.when_of_not (decide_eq_false (Nat.not_lt.2 hshort))]

theorem exec_scrubRate_double :
    exec (.scrubRate res false) s = .next (s.putPeriod res (Nat.min (2 * s.scrubPeriod res) (s.setPeriod res))) := by
  change execScrubRate res false s = _
  unfold execScrubRate
  rw [State.run_live hlive]
  dsimp only
  rw [if_neg (by simp [Nat.not_le.2 hres, hkind]), if_neg (by decide)]
  rfl
end

/-- Settles O45: `State.badHbmLine_rel` for HBM, and `State.scrubPeriod_putPeriod` for the rate. -/
theorem errorsAndScrub : Obligations.ErrorsAndScrub := by
  unfold Obligations.ErrorsAndScrub
  intro s hlive
  refine ⟨fun loc hloc hquiet => ⟨_, exec_uncorrectableError_hbm hlive hloc, State.badHbmLine_rel hquiet loc.toNat⟩,
    fun i loc hi => exec_uncorrectableError_pair hlive hi loc,
    fun res n bad hholder hqueue hkind hres => exec_scrubSlice hlive hholder hqueue hkind hres n bad,
    fun res hres hkind hwf => ⟨fun hlong => ?_, exec_scrubRate_least hlive hres hkind, _, exec_scrubRate_double hlive hres hkind, ?_⟩⟩
  · obtain ⟨hperiod, hlog⟩ := State.eventPF_scrub (s.putPeriod res (Nat.max 15 (s.scrubPeriod res / 2))).draw.2 0x0503
      (resIndex res + 256 * resKind res) stOk (Nat.max 15 (s.scrubPeriod res / 2)) (17 + s.draw.1 % 2 ^ 32) res
    refine ⟨_, exec_scrubRate_halve hlive hres hkind hlong, hperiod.trans (State.scrubPeriod_putPeriod hwf ?_ fun _ => ?_), hlog⟩
    · have hle := s.scrubPeriod_le res
      exact Nat.max_le.2 ⟨by omega, by omega⟩
    · exact Nat.ne_of_gt (Nat.lt_of_lt_of_le (by decide) (Nat.le_max_left 15 _))
  · refine State.scrubPeriod_putPeriod hwf (Nat.min_le_right _ _) fun hne hzero => hne ?_
    have hmin : min (2 * s.scrubPeriod res) (s.setPeriod res) = 0 := hzero
    have hset : s.scrubPeriod res = 0 → s.setPeriod res = 0 := State.setPeriod_eq_zero
    rw [hzero]
    omega

end Sys2Proof.Machine
end

section
/-! What the fabric leaves of a link (R412 to R418): packets that leave on it change its sending side, and nothing else. -/

namespace Sys2Proof.Machine

/-! ### The sending side of a link (R412 to R417) -/

/-- A link without its sending side. -/
def Link.beside (l : Link) : Link :=
  { l with
    sent := [], crvc := 0, nak := false, naked := false, corrupt := false, txNext := 0, replay := [], waiting := [], credits := [],
    replays := 0, resendTo := none }

/-- The parts of a link that sending leaves as they are, where its states and lanes are concerned. -/
theorem Link.beside_fields {l m : Link} (h : l.beside = m.beside) :
    l.st = m.st ∧ l.cause = m.cause ∧ l.disabling = m.disabling ∧ l.rx = m.rx :=
  ⟨(congrArg Link.st h :), (congrArg Link.cause h :), (congrArg Link.disabling h :), (congrArg Link.rx h :)⟩

theorem Link.put_beside (l : Link) (f : Flit) : (l.put f).beside = l.beside := rfl

theorem Link.control_beside (l : Link) (op : Nat) (ws : List Nat) : (l.control op ws).beside = l.beside := rfl

theorem Link.cut_beside {l m : Link} (h : l.cut = some m) : m.beside = l.beside := by
  unfold Link.cut at h
  split at h
  · cases h
  · split at h
    · cases h
    · dsimp only at h
      split at h
      · cases h
      · cases h
        rfl

theorem Link.pumpN_beside (n : Nat) (l : Link) : (l.pumpN n).beside = l.beside := by
  induction n generalizing l with
  | zero => rfl
  | succ n ih =>
    unfold Link.pumpN
    split
    · rfl
    · next m hcut => exact (ih m).trans (Link.cut_beside hcut)

theorem Link.pump_beside (l : Link) : l.pump.beside = l.beside := by
  unfold Link.pump
  split
  · exact l.pumpN_beside _
  · rfl

theorem Link.send_beside (l : Link) (vc : Nat) (bs : List Byte) : (l.send vc bs).beside = l.beside := Link.pump_beside _

theorem Link.foldl_put_beside (fs : List TxFlit) (l : Link) : (fs.foldl (fun l f => l.put f.flit) l).beside = l.beside := by
  induction fs generalizing l with
  | nil => rfl
  | cons f fs ih => exact ih _

theorem Link.resendAll_beside (l : Link) : l.resendAll.beside = l.beside := by
  unfold Link.resendAll
  split
  · rfl
  · exact Link.foldl_put_beside _ _

/-- A link that becomes ACTIVE. -/
theorem Link.activate_state (l : Link) : l.activate.st = .active ∧ l.activate.cause = 0 ∧ l.activate.disabling = l.disabling := by
  unfold Link.activate
  extract_lets l1
  have hdisabling : l1.disabling = l.disabling := by
    unfold l1
    split <;> rfl
  obtain ⟨hst, hcause, hdis, -⟩ := Link.beside_fields ((Link.pump_beside _).trans (Link.resendAll_beside { l1 with st := .active, cause := 0 }))
  exact ⟨hst, hcause, hdis.trans hdisabling⟩

/-- A link in any state but DISABLED is none that the store leaves out. -/
theorem Link.ne_default {l : Link} (h : l.st ≠ .disabled) : l ≠ {} := fun h' => h (congrArg Link.st h')

namespace State

/-! ### Links of a state -/

/-- What every link is beside its sending side. -/
def bearing (s : State) (n : Nat) : Link := (s.link n).beside

theorem bearing_of_links {s u : State} (h : u.links = s.links) : u.bearing = s.bearing := by
  unfold bearing link
  rw [h]

theorem foldl_bearing {α : Type} {f : State → α → State} (h : ∀ s a, (f s a).bearing = s.bearing) (l : List α) (s : State) :
    (l.foldl f s).bearing = s.bearing := by
  induction l generalizing s with
  | nil => rfl
  | cons a l ih => exact (ih _).trans (h _ _)

theorem bearing_ite {s t u : State} {p : Prop} [Decidable p] (ht : t.bearing = s.bearing) (hu : u.bearing = s.bearing) :
    (if p then t else u).bearing = s.bearing := by
  split
  · exact ht
  · exact hu

theorem count_besideReports (s : State) (unit event cycles v sub : Nat) :
    (s.count unit event cycles v sub).besideReports = s.besideReports := rfl

/-- A link that moves on is put in its place; beside, its unit counts. -/
theorem putLink_besideReports (s : State) (n : Nat) (l : Link) : (s.putLink n l).besideReports = (s.setLink n l).besideReports := by
  unfold putLink
  extract_lets o s1 u s2 s3 s4
  split
  · rfl
  · have h2 : s2.besideReports = s1.besideReports := by
      unfold s2
      generalize (l.sent.drop o.sent.length).filter (fun f => f.type == 1) = fs
      generalize s1 = t
      induction fs generalizing t with
      | nil => rfl
      | cons f fs ih => exact ih _
    have h3 : s3.besideReports = s1.besideReports := by
      unfold s3
      split
      · split
        · exact h2
        · exact h2
      · exact h2
    have h4 : s4.besideReports = s1.besideReports := by
      unfold s4
      split
      · exact h3
      · exact h3
    split
    · exact h4
    · exact h4

theorem link_of_besideReports {s u : State} (h : u.besideReports = s.besideReports) (n : Nat) : u.link n = s.link n := by
  have hlinks : u.links = s.links := (congrArg State.links h :)
  unfold link
  rw [hlinks]

theorem link_setLink_on {s : State} {l : Link} (h : l.st ≠ .disabled) (n m : Nat) : (s.setLink n l).link m = if m = n then l else s.link m :=
  link_setLink_ne s (Link.ne_default h) n m

theorem link_putLink {s : State} {l : Link} (h : l.st ≠ .disabled) (n m : Nat) : (s.putLink n l).link m = if m = n then l else s.link m :=
  (link_of_besideReports (s.putLink_besideReports n l) m).trans (link_setLink_on h n m)

theorem link_putLink_self {s : State} {l : Link} (h : l.st ≠ .disabled) (n : Nat) : (s.putLink n l).link n = l :=
  (link_putLink h n n).trans (if_pos rfl)

theorem bearing_putLink {s : State} {n : Nat} {l : Link} (hbeside : l.beside = (s.link n).beside) (h : l.st ≠ .disabled) :
    (s.putLink n l).bearing = s.bearing := by
  funext m
  unfold bearing
  rw [link_putLink h]
  split
  · next hm => rw [hbeside, hm]
  · rfl

/-! ### Packets that leave (R423, R426, R427) -/

theorem noteDrop_bearing (s : State) (code data0 : Nat) : (s.noteDrop code data0).bearing = s.bearing :=
  bearing_of_links (congrArg State.links (s.noteDrop_besideDrops code data0) :)

theorem arrive_bearing (s : State) (link : Option Nat) (vc : Nat) (p : List Byte) : (s.arrive link vc p).bearing = s.bearing := by
  unfold arrive
  exact bearing_ite (noteDrop_bearing ..) rfl

theorem emit_bearing {s t : State} {p : List Byte} {level : Nat} (h : s.emit p level = .ok t) : t.bearing = s.bearing := by
  unfold emit at h
  split at h
  · cases h
    exact arrive_bearing ..
  · split at h
    · cases h
    · next q out vc hroute =>
      cases h
      obtain ⟨hactive, -, -⟩ := route_ok hroute
      have hbeside := (s.link out).send_beside vc q
      exact bearing_putLink hbeside (by rw [(Link.beside_fields hbeside).1, hactive]; decide)

theorem forward_bearing (s : State) (p : List Byte) (level : Nat) (mine : Bool) : (s.forward p level mine).bearing = s.bearing := by
  unfold forward
  split
  · exact emit_bearing ‹_›
  · extract_lets s1 n
    have h1 : s1.bearing = s.bearing := noteDrop_bearing ..
    split
    · exact h1
    · split
      · exact (arrive_bearing ..).trans h1
      · split
        · exact (emit_bearing ‹_›).trans h1
        · exact (noteDrop_bearing ..).trans h1

theorem originate_bearing (s : State) (dst cls ptype param : Nat) (rest : List Byte) :
    (s.originate dst cls ptype param rest).bearing = s.bearing := forward_bearing ..

theorem sendColl_bearing (s : State) (c : Comm) (k : Coll) (rank ptype first n : Nat) (st : Word16) (data : List Byte) :
    (s.sendColl c k rank ptype first n st data).bearing = s.bearing := by
  unfold sendColl
  split
  · rfl
  · exact originate_bearing ..

/-! ### Collectives (R445 to R449) -/

theorem load_bearing {s : State} {a : Agent} {da n : Nat} {r : State × List Byte} (h : s.load a da n = .ok r) : r.1.bearing = s.bearing := by
  unfold load at h
  split at h
  · cases h
  · next ps hps =>
    split at h
    · cases h
    · cases h
      obtain ⟨k, d, heq⟩ := s.fetchAll_eq ps
      rw [heq]
      rfl

theorem store_bearing {s t : State} {a : Agent} {da : Nat} {bs : List Byte} (h : s.store a da bs = .ok t) : t.bearing = s.bearing := by
  unfold store at h
  split at h
  · cases h
  · split at h
    · cases h
    · cases h
      exact bearing_of_links (congrArg State.links (s.putAll_besideEvents _ bs) :)

theorem modColl_bearing (s : State) (i : Nat) (k : Coll) (f : Coll → Coll) : (s.modColl i k f).bearing = s.bearing := by
  unfold modColl
  split <;> rfl

theorem endColl_bearing (s : State) (i : Nat) (k : Coll) (st : Word16) : (s.endColl i k st).bearing = s.bearing := by
  unfold endColl
  split <;> rfl

theorem readImages_bearing {s : State} {a : Agent} {da n : Nat} {r : State × List Quire} (h : s.readImages a da n = .ok r) :
    r.1.bearing = s.bearing := by
  unfold readImages at h
  split at h
  · split at h
    · cases h
    · split at h
      · cases h
      · cases h
        rfl
  · split at h
    · cases h
    · cases h
      exact load_bearing ‹_›

/-- A load whose bytes go into a contribution. -/
theorem load_map_bearing {s : State} {a : Agent} {da n : Nat} {r : State × Option (List Byte)}
    (h : (s.load a da n).map (fun r => (r.1, some r.2)) = .ok r) : r.1.bearing = s.bearing := by
  cases hload : s.load a da n with
  | error w =>
    rw [hload] at h
    cases h
  | ok x =>
    rw [hload] at h
    cases h
    exact load_bearing hload

theorem contribution_bearing {s : State} {a : Agent} {c : Comm} {k : Coll} {ch : Nat × Nat} {r : State × Option (List Byte)}
    (h : s.contribution a c k ch = .ok r) : r.1.bearing = s.bearing := by
  unfold contribution at h
  dsimp only at h
  split at h
  · split at h
    · cases h
    · split at h
      · cases h
      · cases h
        rfl
  · split at h
    · split at h
      · cases h
      · cases h
        exact readImages_bearing ‹_›
    · split at h
      · split at h
        · exact load_map_bearing h
        · cases h
          rfl
      · split at h
        · split at h
          · exact load_map_bearing h
          · cases h
            rfl
        · cases h
          rfl

theorem contributions_bearing {s : State} {a : Agent} {c : Comm} {k : Coll} {l : List (Nat × Nat)}
    {r : State × List (Nat × List Byte)} (h : s.contributions a c k l = .ok r) : r.1.bearing = s.bearing := by
  induction l generalizing s r with
  | nil =>
    cases h
    rfl
  | cons ch l ih =>
    unfold contributions at h
    split at h
    · cases h
    · next s1 d hone =>
      split at h
      · cases h
      · next s2 ds hrest =>
        cases h
        exact (ih hrest).trans (contribution_bearing hone)

theorem retain_bearing (s : State) (i ph sl : Nat) (rs : List Quire) (mine : Option (List Quire)) :
    (s.retain i ph sl rs mine).bearing = s.bearing := by
  unfold retain
  split
  · rfl
  · exact bearing_ite rfl rfl

theorem deliverImages_bearing {s t : State} {i : Nat} {a : Agent} {da : Nat} {rs : List Quire} {m : Option (List Quire)}
    (h : s.deliverImages i a da rs m = .ok t) : t.bearing = s.bearing := by
  unfold deliverImages at h
  split at h
  · split at h
    · cases h
    · dsimp only at h
      split at h
      · cases h
      · split at h
        · cases h
          exact retain_bearing ..
        · cases h
  · exact store_bearing h

theorem deliverRow_bearing {s t : State} {a : Agent} {k : Coll} {ch : Nat × Nat} {d : List Byte} (h : s.deliverRow a k ch d = .ok t) :
    t.bearing = s.bearing := by
  unfold deliverRow at h
  split at h
  · cases h
  · dsimp only at h
    split at h
    · cases h
    · split at h
      · cases h
      · cases h
        rfl

theorem deliverChunk_bearing {s t : State} {i : Nat} {a : Agent} {c : Comm} {k : Coll} {ch : Nat × Nat} {d : List Byte}
    (h : s.deliverChunk i a c k ch d = .ok t) : t.bearing = s.bearing := by
  have hsame (h : (.ok s : Except Why State) = .ok t) : t.bearing = s.bearing := by
    cases h
    rfl
  unfold deliverChunk at h
  dsimp only at h
  split at h
  · exact deliverRow_bearing h
  · split at h
    · exact deliverImages_bearing h
    · split at h
      · split at h
        · exact deliverImages_bearing h
        · exact hsame h
      · split at h
        · split at h
          · exact hsame h
          · exact deliverImages_bearing h
        · split at h
          · split at h
            · exact hsame h
            · exact store_bearing h
          · exact store_bearing h

theorem deliverChunks_bearing {s t : State} {i : Nat} {a : Agent} {c : Comm} {k : Coll} {l : List (Nat × Nat)}
    (h : s.deliverChunks i a c k l = .ok t) : t.bearing = s.bearing := by
  induction l generalizing s with
  | nil =>
    cases h
    rfl
  | cons ch l ih =>
    unfold deliverChunks at h
    split at h
    · cases h
    · next s1 hone => exact (ih h).trans (deliverChunk_bearing hone)

theorem upStep_bearing (s : State) (i : Nat) (k : Coll) : (s.upStep i k).bearing = s.bearing := by
  unfold upStep
  split
  · rfl
  · extract_lets me
    refine bearing_ite (bearing_ite ((sendColl_bearing ..).trans (modColl_bearing ..)) rfl) (foldl_bearing (fun s ch => ?_) _ s)
    refine bearing_ite rfl ?_
    split
    · rfl
    · exact bearing_ite (modColl_bearing ..) ((sendColl_bearing ..).trans (modColl_bearing ..))

theorem dropResult_bearing (s : State) (i : Nat) (k : Coll) : (s.dropResult i k).bearing = s.bearing := by
  unfold dropResult
  split
  · rfl
  · exact bearing_ite rfl rfl

theorem downChunk_bearing (s : State) (i : Nat) (k : Coll) (ch : Nat × Nat) (data : List Byte) :
    (s.downChunk i k ch data).bearing = s.bearing := by
  unfold downChunk
  split
  · rfl
  · exact (modColl_bearing ..).trans (foldl_bearing (fun _ _ => sendColl_bearing ..) _ s)

theorem doneColl_bearing (s : State) (i : Nat) (k : Coll) (st : Word16) : (s.doneColl i k st).bearing = s.bearing := by
  unfold doneColl
  split
  · rfl
  · refine bearing_ite ((dropResult_bearing ..).trans (modColl_bearing s i k _)) ((endColl_bearing ..).trans (bearing_ite ?_ rfl))
    exact sendColl_bearing ..

theorem deliverColl_bearing (s : State) (i : Nat) (k : Coll) : (s.deliverColl i k).bearing = s.bearing := by
  unfold deliverColl
  split
  · rfl
  · refine bearing_ite rfl ?_
    split
    · rfl
    · exact doneColl_bearing ..
    · exact (doneColl_bearing ..).trans (deliverChunks_bearing ‹_›)

theorem rootDown_bearing (s : State) (i : Nat) (k : Coll) : (s.rootDown i k).bearing = s.bearing := by
  unfold rootDown
  split
  · rfl
  · refine bearing_ite rfl (bearing_ite (bearing_ite ?_ rfl) (bearing_ite (foldl_bearing (fun s ch => ?_) _ s) rfl))
    · exact (endColl_bearing ..).trans (foldl_bearing (fun _ _ => sendColl_bearing ..) _ s)
    · split
      · rfl
      · refine bearing_ite rfl ?_
        split
        · rfl
        · exact downChunk_bearing ..

/-- A step of the oldest collective, which goes on only where it is still the same. -/
theorem again_bearing {s : State} {i : Nat} {k : Coll} {f : State → Coll → State} (h : ∀ s x, (f s x).bearing = s.bearing) :
    (match (s.comm i).bind Comm.front with
      | some x => if x.queue = k.queue ∧ x.seq = k.seq then f s x else s
      | none => s).bearing = s.bearing := by
  split
  · exact bearing_ite (h _ _) rfl
  · rfl

theorem collStep_bearing (s : State) (i : Nat) : (s.collStep i).bearing = s.bearing := by
  unfold collStep
  split
  · rfl
  · split
    · rfl
    · next c _ _ k _ =>
      extract_lets a started again up down
      have hstarted : started.bearing = s.bearing := by
        unfold started
        refine bearing_ite (bearing_ite ?_ rfl) rfl
        split
        · rfl
        · exact endColl_bearing ..
        · next s1 mine hmine =>
          have h1 := (modColl_bearing s1 i k (fun x => { x with ph := .up, inst := c.next, mine := mine })).trans (contributions_bearing hmine)
          extract_lets s2
          split
          · exact h1
          · exact h1
      have hup : up.bearing = started.bearing := again_bearing (s := started) (i := i) (k := k)
        (f := fun s x => if x.ph = .up then s.upStep i x else s) fun s x => bearing_ite (upStep_bearing ..) rfl
      have hdown : down.bearing = up.bearing := again_bearing (s := up) (i := i) (k := k)
        (f := fun s x => if x.ph = .up ∨ x.ph = .down then s.rootDown i x else s) fun s x => bearing_ite (rootDown_bearing ..) rfl
      have hend := again_bearing (s := down) (i := i) (k := k) (f := fun s x => if x.ph = .down then s.deliverColl i x else s)
        fun s x => bearing_ite (deliverColl_bearing ..) rfl
      exact hend.trans (hdown.trans (hup.trans hstarted))

theorem collRun_bearing (s : State) (i : Nat) : (s.collRun i).bearing = s.bearing := by
  unfold collRun
  split
  · rfl
  · exact foldl_bearing (fun _ _ => collStep_bearing ..) _ s

/-! ### DOWN (R404, R419, R420) -/

theorem notDelivered_bearing (s : State) (n : Nat) (heads : List (List Byte)) (exhausted : Bool) :
    (s.notDelivered n heads exhausted).bearing = s.bearing := by
  unfold notDelivered
  extract_lets mine of_ s1
  refine (foldl_bearing (fun s h => ?_) _ s1).trans rfl
  refine bearing_ite rfl ?_
  split
  · rfl
  · split
    · exact bearing_ite ((collRun_bearing ..).trans (endColl_bearing ..)) rfl
    · rfl

/-- What a link is after it has gone DOWN for a cause of its own. -/
theorem linkDown_link {s : State} {n cause : Nat} (hdis : (s.link n).disabling = false) (hcause : cause ≠ 3 ∧ cause ≠ 4) :
    ((s.linkDown n cause).link n).st = .down ∧ ((s.linkDown n cause).link n).cause = cause
      ∧ ((s.linkDown n cause).link n).disabling = false := by
  unfold linkDown
  extract_lets l off s1
  have hoff : off = l.off .down cause := if_neg (by rw [show l.disabling = false from hdis]; decide)
  have hbeside : (s1.link n).beside = off.beside := by
    have h1 : s1.bearing = ((s.setLink n off).eventPF 0x0402 n stOk cause l.replay.length).bearing := notDelivered_bearing ..
    have h2 : ((s.setLink n off).eventPF 0x0402 n stOk cause l.replay.length).bearing = (s.setLink n off).bearing :=
      bearing_of_links (besideEvents_fields (eventTo_besideEvents ..)).2.2.1
    have h3 : (s.setLink n off).link n = off := (link_setLink_on (by rw [hoff]; exact fun h => by cases h) n n).trans (if_pos rfl)
    calc s1.bearing n = (s.setLink n off).bearing n := by rw [h1, h2]
      _ = off.beside := congrArg Link.beside h3
  rw [if_neg (fun h => h.1.elim hcause.1 hcause.2)]
  obtain ⟨hst, hwhy, hdisabling, -⟩ := Link.beside_fields hbeside
  rw [hst, hwhy, hdisabling, hoff]
  exact ⟨rfl, rfl, rfl⟩

end State
end Sys2Proof.Machine
end

section
/-! A link trains (R404 to R406, R410, R411, R420, R421). -/

namespace Sys2Proof.Machine

variable {s : State} {n : Nat}

/-! ### The rows of a link -/

theorem State.runLinks_up (h : s.linksUp = true) (f : State → State) : s.runLinks f = .next (f s) := by
  unfold State.runLinks
  rw [if_pos h]

theorem linkOk_of {n : Nat} (h : n < 32) : linkOk n = true := decide_eq_true h

section
variable (hup : s.linksUp = true) (hn : n < 32)
include hup hn

theorem exec_linkDetectDone (h : (s.link n).st = .detect) :
    exec (.linkDetectDone n) s = .next (s.setLink n { s.link n with st := .train, taps := presetTaps, eqReq := [] }) := by
  change execLinkDetectDone n s = _
  unfold execLinkDetectDone
  rw [State.runLinks_up hup, State.when_of (by rw [linkOk_of hn, h]; rfl)]
  rfl

theorem exec_trainConverged (h : (s.link n).st = .train) :
    exec (.trainConverged n) s = .next (s.setLink n { s.link n with st := .align, marks := [] }) := by
  change execTrainConverged n s = _
  unfold execTrainConverged
  rw [State.runLinks_up hup, State.when_of (by rw [linkOk_of hn, h]; rfl)]
  rfl

theorem exec_linkStateTimeout (h : (s.link n).st = .train ∨ (s.link n).st = .align ∨ (s.link n).st = .recovery
      ∨ ((s.link n).st = .config ∧ s.devid.isSome = true ∧ (s.link n).peerV = true)) :
    exec (.linkStateTimeout n) s = .next (s.linkDown n 1) := by
  change execLinkStateTimeout n s = _
  unfold execLinkStateTimeout
  rw [State.runLinks_up hup]
  dsimp only
  rw [State.when_of]
  rw [linkOk_of hn]
  obtain h | h | h | ⟨h, hdevid, hpeer⟩ := h
  · rw [h]
    rfl
  · rw [h]
    rfl
  · rw [h]
    rfl
  · rw [h, hdevid, hpeer]
    rfl

theorem exec_disableTimeout (h : (s.link n).disabling = true) : exec (.disableTimeout n) s = .next (s.linkOff n) := by
  change execDisableTimeout n s = _
  unfold execDisableTimeout
  rw [State.runLinks_up hup, State.when_of (by rw [linkOk_of hn, h]; rfl)]
end

/-! ### CONFIG (R405) -/

/-- CONFIG that has not both IDs goes on. -/
theorem State.tryActive_waits (h : s.devid = none ∨ (s.link n).st ≠ .config ∨ (s.link n).peerV = false) : s.tryActive n = s := by
  unfold State.tryActive
  extract_lets l
  split
  · rfl
  · next d hd =>
    rw [if_pos]
    obtain h | h | h := h
    · rw [hd] at h
      cases h
    · rw [bne_iff_ne.2 h, Bool.true_or]
    · rw [show l.peerV = false from h, Bool.not_false, Bool.or_true]

/-- A link at the start of CONFIG, with its own part of the exchange sent where this device has a fabric ID. -/
def State.atConfig (s : State) (n : Nat) : Link :=
  let l : Link := { s.link n with st := .config, cfgSeen := false, cfgAcked := false, cfgSent := false, cfgAnswered := false }
  match s.devid with
  | some d => l.config n d s.fuses.stepping
  | none => l

theorem State.atConfig_fields (s : State) (n : Nat) :
    (s.atConfig n).st = .config ∧ (s.atConfig n).cfgSeen = false ∧ (s.atConfig n).cfgAcked = false ∧ (s.atConfig n).cfgSent = s.devid.isSome
      ∧ (s.atConfig n).rx = (s.link n).rx ∧ (s.atConfig n).peerV = (s.link n).peerV := by
  unfold State.atConfig
  cases s.devid <;> exact ⟨rfl, rfl, rfl, rfl, rfl, rfl⟩

theorem State.putLink_devid (s : State) (n : Nat) (l : Link) : (s.putLink n l).devid = s.devid :=
  (congrArg State.devid (s.putLink_besideReports n l) :)

theorem State.startConfig_waits (h : s.devid = none ∨ (s.link n).peerV = false) : s.startConfig n = s.putLink n (s.atConfig n) := by
  obtain ⟨hst, -, -, -, -, hpeer⟩ := s.atConfig_fields n
  change (s.putLink n (s.atConfig n)).tryActive n = _
  refine State.tryActive_waits ?_
  rw [State.putLink_devid, State.link_putLink_self (by rw [hst]; decide), hpeer]
  exact h.imp_right .inr

/-- Both ends have said all of R405: what CONFIG waits for. -/
def Link.agreed (l : Link) : Bool :=
  l.cfgSeen && l.cfgAcked && l.cfgSent && l.cfgAnswered && l.peerHalf == l.rx.half && (l.cfgHalf || !(l.rx.half || l.tx.half))

theorem State.tryActive_agreed {d : BitVec 12} (hd : s.devid = some d) (hst : (s.link n).st = .config) (hpeerV : (s.link n).peerV = true)
    (hother : ¬ ((s.link n).peer = d ∨ ((s.link n).cfgSeen ∧ (s.link n).cfgDev = d))) (hagreed : (s.link n).agreed = true) :
    s.tryActive n = (s.putLink n (s.link n).activate).eventPF 0x0401 n stOk
      ((s.link n).peer.toNat + 2 ^ 16 * (s.link n).activate.lanes) 0 := by
  unfold State.tryActive
  dsimp only
  rw [hd]
  dsimp only
  rw [if_neg (by simp [hst, hpeerV]), if_neg hother]
  exact if_pos hagreed

/-! ### ALIGN (R402, R410, R411) -/

theorem State.eventPF_links (s : State) (code source : Nat) (status : Word16) (d0 d1 : Nat) :
    (s.eventPF code source status d0 d1).links = s.links := (State.besideEvents_fields (State.eventTo_besideEvents ..)).2.2.1

theorem State.link_eventPF (s : State) (code source : Nat) (status : Word16) (d0 d1 m : Nat) :
    (s.eventPF code source status d0 d1).link m = s.link m := by
  unfold State.link
  rw [State.eventPF_links]

/-- New receive lanes change their link and nothing of another. -/
theorem State.setLanes_keeps (h : (s.link n).st ≠ .disabled) (r : Lanes) :
    (∀ m, (s.setLanes n r).link m = if m = n then { s.link n with rx := r } else s.link m) ∧ (s.setLanes n r).devid = s.devid := by
  have hset (m : Nat) : (s.setLink n { s.link n with rx := r }).link m = if m = n then { s.link n with rx := r } else s.link m :=
    State.link_setLink_on (l := { s.link n with rx := r }) h n m
  unfold State.setLanes
  dsimp only
  split
  · exact ⟨hset, rfl⟩
  · exact ⟨fun m => (State.link_eventPF ..).trans (hset m), (congrArg State.devid (State.eventTo_besideEvents ..) :)⟩

section
variable {lanes far : List Nat}

/-- The transmit lanes at ALIGN from DETECT, as the peer has locked to them. -/
def Link.alignTx (far : List Nat) (l : Link) : Link :=
  if (sortLanes far).length < 4 then l else { l with tx := l.tx.align l.retrain (Lanes.fresh (sortLanes far)) (sortLanes far) }

theorem Link.alignTx_fields (far : List Nat) (l : Link) :
    (l.alignTx far).st = l.st ∧ (l.alignTx far).rx = l.rx ∧ (l.alignTx far).peerV = l.peerV := by
  unfold Link.alignTx
  split <;> exact ⟨rfl, rfl, rfl⟩

/-- The receive lanes that are healthy at ALIGN from DETECT. -/
abbrev Link.healthy (l : Link) (near : List Nat) : List Nat := l.byPlane ((sortLanes near).filter (fun p => !l.rx.failed.contains p))

theorem exec_alignLocked (hup : s.linksUp = true) (hn : n < 32) (hst : (s.link n).st = .align) :
    exec (.alignLocked n ⟨lanes, far⟩) s = .next (s.when (decide (4 ≤ ((s.link n).healthy lanes).length)) (fun s =>
      ((s.setLanes n ((s.link n).rx.align (s.link n).retrain (Lanes.found (s.link n).marks ((s.link n).healthy lanes))
        ((s.link n).healthy lanes))).modLink n (Link.alignTx far)).startConfig n)) := by
  change execAlignLocked n ⟨lanes, far⟩ s = _
  unfold execAlignLocked
  rw [State.runLinks_up hup]
  dsimp only
  rw [if_neg (by rw [linkOk_of hn]; decide), if_pos hst]
  rfl
end

/-! ### Marker periods (R400, R401, R406) -/

theorem Link.sweepFrom_fields (l : Link) (p : Nat) : (l.sweepFrom p).st = l.st ∧ (l.sweepFrom p).taps = l.taps := by
  unfold Link.sweepFrom
  split
  · exact ⟨rfl, rfl⟩
  · split <;> exact ⟨rfl, rfl⟩

theorem Link.sweepPeriod_fields (l : Link) : l.sweepPeriod.st = l.st ∧ l.sweepPeriod.taps = l.taps := by
  unfold Link.sweepPeriod
  split
  · split
    · exact ⟨rfl, rfl⟩
    · split
      · exact l.sweepFrom_fields _
      · exact ⟨rfl, rfl⟩
  · exact ⟨rfl, rfl⟩

theorem Link.marking_iff {l : Link} :
    l.marking = true ↔ l.st = .train ∨ l.st = .align ∨ l.st = .config ∨ l.st = .active ∨ l.st = .recovery := by
  simp [Link.marking, or_assoc]

theorem Link.on_of_marking {l : Link} (h : l.marking = true) : l.st ≠ .disabled := by
  intro hst
  rw [Link.marking_iff, hst] at h
  simp at h

/-- A link after the start of a marker period, its blocks apart. -/
def Link.period (l : Link) (corrected : Nat) : Link :=
  { (l.equalise).sweepPeriod with
    mcount := l.mcount + 1, beat := l.beat + 1, fecs := BitVec.ofNat 64 (sat64 l.fecs.toNat corrected) }

theorem exec_markerPeriod (hup : s.linksUp = true) (hn : n < 32) (hmarking : (s.link n).marking = true) (hlives : (s.link n).dying = 0)
    (corrected : Nat) :
    exec (.markerPeriod n corrected) s
      = .next (s.draw.2.setLink n (((s.link n).period corrected).sendBlocks n s.devid false (eqAsk (s.link n) s.draw.1))) := by
  change execMarkerPeriod n corrected s = _
  unfold execMarkerPeriod
  rw [State.when_of (linkOk_of hn)]
  dsimp only
  rw [if_neg (by rw [hlives]; decide), State.when_of (by rw [hup, hmarking]; rfl)]
  rfl

/-! ### Marker blocks (R400, R401) -/

/-- What a link has heard by a marker block. -/
def Link.heard (l : Link) (lane : Nat) (words : List Word32) : Link :=
  { l.readMarker (fun i => (words.getD i 0).toNat) with
    planes := SMap.set 9 (l.readMarker (fun i => (words.getD i 0).toNat)).planes lane (bits (words.getD 1 0).toNat 4 4) }

theorem exec_markerBlock (hup : s.linksUp = true) (hn : n < 32) (hmarking : (s.link n).marking = true) {lane : Nat} (hlane : lane < 9)
    {words : List Word32} (hgood : markerGood words = true) :
    let w (i : Nat) : Nat := (words.getD i 0).toNat
    let l := s.link n
    exec (.markerBlock n lane words) s = .next
      (if (w 3).testBit 16 && (l.st == .active || l.st == .recovery) then (s.setLink n (l.heard lane words)).linkDown n 4
       else if l.st = .align ∨ (l.st = .recovery ∧ l.aligned = false) then
         (if marksClash l.marks lane (bits (w 1) 8 5) (w 1 % 16) (BitVec.ofNat 32 (w 2)) then s.linkDown n 1
          else s.setLink n { l.heard lane words with
            marks := SMap.set (32, 16, 0) l.marks lane (bits (w 1) 8 5, w 1 % 16, BitVec.ofNat 32 (w 2)) })
       else (s.setLink n (l.heard lane words)).tryActive n) := by
  intro w l
  change execMarkerBlock n lane words s = _
  unfold execMarkerBlock
  rw [State.runLinks_up hup]
  dsimp only
  rw [State.when_of (by rw [linkOk_of hn, hmarking, hgood, decide_eq_true hlane]; rfl)]
  rfl

section
variable {lane : Nat} {words : List Word32} (hup : s.linksUp = true) (hn : n < 32) (hlane : lane < 9) (hgood : markerGood words = true)
include hup hn hlane hgood

/-- In TRAIN, and in ACTIVE of a peer that has not failed, a block is heard and no more. -/
theorem exec_markerBlock_heard (h : (s.link n).st = .train ∨ ((s.link n).st = .active ∧ (words.getD 3 0).toNat.testBit 16 = false)) :
    exec (.markerBlock n lane words) s = .next (s.setLink n ((s.link n).heard lane words)) := by
  have hst : (s.link n).st = .train ∨ (s.link n).st = .active := h.imp_right And.left
  have hwaits : (s.setLink n ((s.link n).heard lane words)).tryActive n = s.setLink n ((s.link n).heard lane words) := by
    refine State.tryActive_waits (.inr (.inl ?_))
    have hheard : ((s.link n).heard lane words).st = (s.link n).st := rfl
    rw [State.link_setLink_on (by rw [hheard]; obtain hst | hst := hst <;> rw [hst] <;> decide), if_pos rfl, hheard]
    obtain hst | hst := hst <;> rw [hst] <;> decide
  rw [exec_markerBlock hup hn (Link.marking_iff.2 (by obtain hst | hst := hst <;> simp [hst])) hlane hgood, if_neg, if_neg, hwaits]
  · obtain hst | hst := hst <;> simp [hst]
  · obtain hst | ⟨-, hbit⟩ := h
    · simp [hst]
    · rw [hbit, Bool.false_and]
      decide

/-- A peer that says FAILED. -/
theorem exec_markerBlock_failed (hst : (s.link n).st = .active ∨ (s.link n).st = .recovery)
    (hbit : (words.getD 3 0).toNat.testBit 16 = true) :
    exec (.markerBlock n lane words) s = .next ((s.setLink n ((s.link n).heard lane words)).linkDown n 4) := by
  rw [exec_markerBlock hup hn (Link.marking_iff.2 (by obtain hst | hst := hst <;> simp [hst])) hlane hgood, if_pos]
  rw [hbit]
  obtain hst | hst := hst <;> rw [hst] <;> rfl

/-- A block in ALIGN. -/
theorem exec_markerBlock_align (hst : (s.link n).st = .align) :
    let w (i : Nat) : Nat := (words.getD i 0).toNat
    exec (.markerBlock n lane words) s = .next
      (if marksClash (s.link n).marks lane (bits (w 1) 8 5) (w 1 % 16) (BitVec.ofNat 32 (w 2)) then s.linkDown n 1
       else s.setLink n { (s.link n).heard lane words with
         marks := SMap.set (32, 16, 0) (s.link n).marks lane (bits (w 1) 8 5, w 1 % 16, BitVec.ofNat 32 (w 2)) }) := by
  rw [exec_markerBlock hup hn (Link.marking_iff.2 (by simp [hst])) hlane hgood, if_neg (by simp [hst]), if_pos (.inl hst)]

/-- A block in CONFIG. -/
theorem exec_markerBlock_config (hst : (s.link n).st = .config) :
    exec (.markerBlock n lane words) s = .next ((s.setLink n ((s.link n).heard lane words)).tryActive n) := by
  rw [exec_markerBlock hup hn (Link.marking_iff.2 (by simp [hst])) hlane hgood, if_neg (by simp [hst]), if_neg (by simp [hst])]
end

/-- Settles O37: each row by its own equation; CONFIG by `State.startConfig_waits` at its start and `State.tryActive_agreed` at its end. -/
theorem linksTrain : Obligations.LinksTrain := by
  unfold Obligations.LinksTrain
  intro s n hup hn
  refine ⟨exec_linkDetectDone hup hn, exec_trainConverged hup hn, ?align, exec_linkStateTimeout hup hn, ?period, ?block,
    exec_disableTimeout hup hn⟩
  case align =>
    intro lanes far hst ok
    refine ⟨fun hfew => ?_, fun hmany hwait => ?_⟩
    · rw [exec_alignLocked hup hn hst, State.when_of_not (decide_eq_false (Nat.not_le.2 hfew))]
    · have hon : (s.link n).st ≠ .disabled := by rw [hst]; decide
      obtain ⟨hlanes, hdevid⟩ := State.setLanes_keeps hon
        ((s.link n).rx.align (s.link n).retrain (Lanes.found (s.link n).marks ok) ok)
      refine ⟨_, (exec_alignLocked hup hn hst).trans (congrArg _ (State.when_of (decide_eq_true hmany) ..)), ?_⟩
      generalize s.setLanes n _ = t at hlanes hdevid
      have hself := hlanes n
      rw [if_pos rfl] at hself
      obtain ⟨htx, hrx, hpeer⟩ := (t.link n).alignTx_fields far
      have hmod (m : Nat) : (t.modLink n (Link.alignTx far)).link m = if m = n then (t.link n).alignTx far else t.link m :=
        State.link_setLink_on (by rw [htx, hself]; exact hon) n m
      have hmodSelf := (hmod n).trans (if_pos rfl)
      obtain ⟨hconfig, hseen, hacked, hsent, hconfigRx, -⟩ := (t.modLink n (Link.alignTx far)).atConfig_fields n
      rw [State.startConfig_waits (by rw [hmodSelf, hpeer, hself]; exact hwait.imp_left hdevid.trans),
        State.link_putLink_self (by rw [hconfig]; decide)]
      refine ⟨hconfig, hseen, hacked, hsent.trans (congrArg _ hdevid), ?_, fun m hm => ?_⟩
      · rw [hconfigRx, hmodSelf, hrx, hself]
      · rw [State.link_putLink (by rw [hconfig]; decide), if_neg hm, hmod, if_neg hm, hlanes, if_neg hm]
  case period =>
    intro hmarking hlives corrected
    refine ⟨_, exec_markerPeriod hup hn hmarking hlives corrected, ?_⟩
    obtain ⟨hst, htaps⟩ := ((s.link n).equalise).sweepPeriod_fields
    have hlink (m : Nat) := State.link_setLink_on (s := s.draw.2)
      (l := ((s.link n).period corrected).sendBlocks n s.devid false (eqAsk (s.link n) s.draw.1))
      (by exact fun h => Link.on_of_marking hmarking (hst.symm.trans h)) n m
    rw [hlink n, if_pos rfl]
    refine ⟨rfl, rfl, hst, htaps, rfl, fun b hb => ?_, fun m hm => (hlink m).trans (if_neg hm)⟩
    obtain ⟨i, -, rfl⟩ := List.mem_map.1 hb
    exact ⟨rfl, rfl, rfl⟩
  case block =>
    intro lane words hlane hgood w heard
    refine ⟨fun hst => exec_markerBlock_heard hup hn hlane hgood (.inl hst),
      fun hst hbit => exec_markerBlock_heard hup hn hlane hgood (.inr ⟨hst, hbit⟩), exec_markerBlock_failed hup hn hlane hgood,
      fun hst hclash => ?_, fun hst hclash => ?_, ?_⟩
    · rw [exec_markerBlock_align hup hn hlane hgood hst, if_pos hclash]
    · rw [exec_markerBlock_align hup hn hlane hgood hst, if_neg (by rw [hclash]; decide)]
      rfl
    · intro d hst hd hvalid hpeer hseen hdev hacked hsent hanswered hhalf hwidth
      have hon : ((s.link n).heard lane words).st ≠ .disabled := fun h => by cases hst.symm.trans h
      have hself : (s.setLink n ((s.link n).heard lane words)).link n = (s.link n).heard lane words :=
        (State.link_setLink_on hon n n).trans (if_pos rfl)
      have hactive := (((s.link n).heard lane words).activate_state)
      refine ⟨_, exec_markerBlock_config hup hn hlane hgood hst, ?_⟩
      rw [State.tryActive_agreed (s := s.setLink n ((s.link n).heard lane words)) hd] <;> rw [hself]
      · have hput (m : Nat) := State.link_putLink (s := s.setLink n ((s.link n).heard lane words))
          (l := ((s.link n).heard lane words).activate) (by rw [hactive.1]; decide) n m
        refine ⟨?_, ?_, fun m hm => ?_⟩
        · rw [State.link_eventPF, hput, if_pos rfl]
          exact hactive.1
        · rw [State.link_eventPF, hput, if_pos rfl]
          exact hactive.2.1
        · rw [State.link_eventPF, hput, if_neg hm, State.link_setLink_on hon, if_neg hm]
      · exact hst
      · exact hvalid
      · exact fun h => h.elim hpeer fun h => hdev h.2
      · change ((s.link n).cfgSeen && (s.link n).cfgAcked && (s.link n).cfgSent && (s.link n).cfgAnswered
          && (words.getD 1 0).toNat.testBit 13 == (s.link n).rx.half
          && ((s.link n).cfgHalf || !((s.link n).rx.half || (s.link n).tx.half))) = true
        rw [hseen, hacked, hsent, hanswered, hhalf, hwidth]
        simp

end Sys2Proof.Machine
end

section
/-! A link recovers: replay, silence, failing lanes and the spare (R409 to R411, R417, R418, R420, R424). -/

namespace Sys2Proof.Machine

variable {s : State} {n : Nat}

/-! ### Replay and RECOVERY (R417, R418) -/

theorem Link.recover_exhausted (l : Link) : l.recover.exhausted = decide (l.replay ≠ [] ∧ 3 ≤ l.episodes) := by
  unfold Link.exhausted Link.recover
  cases l.replay with
  | nil => simp
  | cons f fs => simp

/-- A link that goes on otherwise than into RECOVERY is only put in its place. -/
theorem State.putOn_goes {l : Link} (h : (s.link n).st = .active → l.st ≠ .recovery) : s.putOn n l = s.putLink n l := by
  unfold State.putOn
  rw [if_neg (fun hand => h hand.1 hand.2)]

section
variable (hst : (s.link n).st = .active)
include hst

theorem State.putOn_recovers {l : Link} (hl : l.st = .recovery) (hmore : l.exhausted = false) :
    s.putOn n l = s.putLink n (l.control 2 [0]) := by
  unfold State.putOn
  rw [if_pos ⟨hst, hl⟩, if_neg (by rw [hmore]; decide)]

theorem State.putOn_exhausted {l : Link} (hl : l.st = .recovery) (hdone : l.exhausted = true) : s.putOn n l = s.linkDown n 2 := by
  unfold State.putOn
  rw [if_pos ⟨hst, hl⟩, if_pos hdone]

/-- RECOVERY that is no fourth one for one flit. -/
theorem State.putOn_recover (h : (s.link n).replay = [] ∨ (s.link n).episodes < 3) :
    s.putOn n (s.link n).recover = s.putLink n ((s.link n).recover.control 2 [0]) :=
  State.putOn_recovers hst rfl ((s.link n).recover_exhausted.trans (decide_eq_false fun hand =>
    h.elim hand.1 (Nat.not_lt.2 hand.2)))

/-- A fourth RECOVERY for one flit. -/
theorem State.putOn_recover_fourth (hreplay : (s.link n).replay ≠ []) (h : 3 ≤ (s.link n).episodes) :
    s.putOn n (s.link n).recover = s.linkDown n 2 :=
  State.putOn_exhausted hst rfl ((s.link n).recover_exhausted.trans (decide_eq_true ⟨hreplay, h⟩))
end

theorem Link.startReplay_again {l : Link} (hreplay : l.replay ≠ []) (h : l.resend < 4) :
    l.startReplay = { l.resendAll with resend := l.resend + 1 } := by
  unfold Link.startReplay
  rw [if_neg (by simpa using hreplay), if_neg (Nat.not_le.2 h)]

theorem Link.startReplay_recover {l : Link} (hreplay : l.replay ≠ []) (h : 4 ≤ l.resend) : l.startReplay = l.recover := by
  unfold Link.startReplay
  rw [if_neg (by simpa using hreplay), if_pos h]

section
variable (hup : s.linksUp = true) (hn : n < 32) (hst : (s.link n).st = .active)
include hup hn hst

theorem exec_ackTimeout (hreplay : (s.link n).replay ≠ []) : exec (.ackTimeout n) s = .next (s.putOn n (s.link n).startReplay) := by
  change execAckTimeout n s = _
  unfold execAckTimeout
  rw [State.runLinks_up hup]
  dsimp only
  rw [State.when_of (by simp [linkOk_of hn, hst, hreplay])]

theorem exec_flitSilence : exec (.flitSilence n) s = .next (s.putOn n (s.link n).recover) := by
  change execFlitSilence n s = _
  unfold execFlitSilence
  rw [State.runLinks_up hup, State.when_of (by rw [linkOk_of hn, hst]; rfl)]

theorem exec_peerSilent : exec (.peerSilent n) s = .next (s.linkDown n 3) := by
  change execPeerSilent n s = _
  unfold execPeerSilent
  rw [State.runLinks_up hup, State.when_of (by rw [linkOk_of hn, hst]; rfl)]
end

/-! ### The lock of an ACTIVE link without a sweep (R503, R505) -/

theorem resKind_linkRes (hn : n < 32) : resKind (linkRes n) = 2 := by
  unfold resKind linkRes
  omega

theorem resIndex_linkRes (hn : n < 32) : resIndex (linkRes n) = n := by
  unfold resIndex linkRes
  omega

/-- A link that serves, and that no sweep changes. -/
def Link.plain (l : Link) : Prop := l.st = .active ∧ l.sweep = none

theorem Link.plain.on {l : Link} (h : l.plain) : l.st ≠ .disabled := by
  rw [h.1]
  decide

section
variable (hn : n < 32) (hplain : (s.link n).plain)
include hn hplain

theorem State.endMaint_link (st : Word16) (result : Nat) : (s.endMaint (linkRes n) st result).link n = s.link n := by
  have hsame : (if (s.link n).st = LState.test then { s.link n with st := LState.disabled } else (s.link n).stopSweep) = s.link n := by
    unfold Link.stopSweep
    rw [if_neg (by rw [hplain.1]; decide), hplain.2]
    rfl
  unfold State.endMaint
  rw [resKind_linkRes hn, resIndex_linkRes hn]
  split
  · rfl
  · next a _ =>
    have hset : ((s.setLock (linkRes n) { s.lock (linkRes n) with holder := none }).modLink n (fun l =>
        if l.st = LState.test then { l with st := LState.disabled } else l.stopSweep)).link n = s.link n := by
      have hmod : (s.setLock (linkRes n) { s.lock (linkRes n) with holder := none }).modLink n (fun l =>
          if l.st = LState.test then { l with st := LState.disabled } else l.stopSweep)
          = (s.setLock (linkRes n) { s.lock (linkRes n) with holder := none }).setLink n (s.link n) := by
        unfold State.modLink
        exact congrArg _ hsame
      rw [hmod, State.link_setLink_on hplain.on, if_pos rfl]
    dsimp only
    rw [if_pos rfl]
    split
    · refine Eq.trans ?_ hset
      unfold State.link State.maintEvent
      rw [(State.besideEvents_fields (State.eventTo_besideEvents ..)).2.2.1]
    · exact hset

theorem State.stopSweep_link : (s.stopSweep n).link n = s.link n := by
  unfold State.stopSweep
  split
  · exact State.endMaint_link hn hplain _ _
  · rfl

theorem State.autoMaint_link : (s.autoMaint (linkRes n) 1).link n = s.link n := by
  obtain ⟨s1, hs1, hauto⟩ := s.autoMaint_eq (linkRes n) 1
  have hlink : s1.link n = s.link n := by
    obtain rfl | rfl := hs1
    · rfl
    · exact State.endMaint_link hn hplain _ _
  obtain h | ⟨l, h⟩ | ⟨l, h⟩ := hauto <;> rw [h]
  · exact hlink
  · exact hlink
  · have hlock := State.lock_setLock_self (s := s1) (res := linkRes n)
      (l := { l with holder := some { fn := none, opcode := 0, seq := 0, kind := .maint (linkRes n) 1 } })
      (fun h => by cases congrArg Lock.holder h)
    generalize hs2 : s1.setLock (linkRes n) _ = s2 at hlock
    have hlink2 : s2.link n = s.link n := by
      rw [← hs2]
      exact hlink
    unfold State.beginMaint
    rw [hlock]
    dsimp only
    rw [if_pos (resKind_linkRes hn), if_neg (by decide), if_neg (by decide), if_pos rfl, resIndex_linkRes hn, hlink2,
      if_pos (.inl hplain.1)]
    exact hlink2
end

theorem State.report_link (s : State) (i : FaultInfo) (m : Nat) : (s.report i).link m = s.link m :=
  State.link_of_besideReports (s.report_besideReports i) m

/-- A link in its new form. -/
theorem State.link_modLink_self {f : Link → Link} (h : (f (s.link n)).st ≠ .disabled) : (s.modLink n f).link n = f (s.link n) :=
  (State.link_setLink_on h n n).trans (if_pos rfl)

/-! ### Failing lanes (R409 to R411, R424) -/

section
variable {lane : Nat} (hup : s.linksUp = true) (hn : n < 32) (hst : (s.link n).st = .active) (hlane : lane < 9)
  (hhealthy : (s.link n).rx.failed.contains lane = false) (hspreq : (s.link n).spreq = none) (hsweep : (s.link n).sweep = none)
  (hrole : (s.link n).rx.roles.contains lane = true)
include hup hn hst hlane hhealthy hspreq hsweep hrole

/-- A failing data lane whose role the spare can take. -/
theorem exec_laneFailing_spare (hspare : (s.link n).rx.spare.isSome = true) (hfull : (s.link n).rx.half = false) :
    exec (.laneFailing n lane) s = .next (((s.autoMaint (linkRes n) 1).modLink n (fun l =>
      { l with spreq := some lane, spOwn := true, rxSwitch := none })).reportLane n lane) := by
  change execLaneFailing n lane s = _
  unfold execLaneFailing
  rw [State.runLinks_up hup]
  dsimp only
  rw [State.when_of (by rw [linkOk_of hn, decide_eq_true hlane, hhealthy, hspreq, hsweep]; rfl),
    if_neg (by simp [hst]), if_neg (by simp [hst]), if_neg (by simp [hst]), if_neg (by rw [hrole]; decide), if_pos (by simp [hspare, hfull, hspreq])]

/-- A failing data lane without a spare. -/
theorem exec_laneFailing_noSpare (hspare : (s.link n).rx.spare = none) :
    let s1 := ((s.stopSweep n).failLane n lane).reportLane n lane
    exec (.laneFailing n lane) s
      = .next (if 9 < 4 + (s1.link n).rx.failed.length then s1.linkDown n 5 else s1.putOn n (s1.link n).recover) := by
  intro s1
  change execLaneFailing n lane s = _
  unfold execLaneFailing
  rw [State.runLinks_up hup]
  dsimp only
  rw [State.when_of (by rw [linkOk_of hn, decide_eq_true hlane, hhealthy, hspreq, hsweep]; rfl),
    if_neg (by simp [hst]), if_neg (by simp [hst]), if_neg (by simp [hst]), if_neg (by rw [hrole]; decide), if_neg (by simp [hspare]), if_pos hst]
end

/-- The link of a failing lane, reported. -/
theorem State.failedLane_link (hn : n < 32) (hplain : (s.link n).plain) (lane : Nat) :
    (((s.stopSweep n).failLane n lane).reportLane n lane).link n = { s.link n with rx := (s.link n).rx.fail lane } := by
  have hstop := State.stopSweep_link hn hplain
  unfold State.reportLane State.failLane
  rw [State.report_link, State.link_modLink_self (f := fun l => { l with rx := l.rx.fail lane }) (by rw [hstop]; exact hplain.on), hstop]

/-! ### The sparing switch (R410, R423) -/

theorem State.reportNoSpare_link (s : State) (link lane m : Nat) : (s.reportNoSpare link lane).link m = s.link m := by
  unfold State.reportNoSpare
  split
  · rfl
  · exact State.report_link ..

theorem State.spared_link (hn : n < 32) (hplain : (s.link n).plain) (f : Nat) (own : Bool) : (s.spared n f own).link n = s.link n := by
  unfold State.spared
  extract_lets s1
  have h1 : s1.link n = s.link n := (State.reportNoSpare_link ..).trans (State.link_eventPF ..)
  split
  · exact (State.endMaint_link hn (by rw [h1]; exact hplain) _ _).trans h1
  · exact h1

theorem exec_laneSpareSwitch {f : Nat} {due : BitVec 32} (hup : s.linksUp = true) (hn : n < 32) (hst : (s.link n).st = .active)
    (hspack : (s.link n).spack = none) (hsweep : (s.link n).sweep = none) (hswitch : (s.link n).rxSwitch = some (f, due))
    (hdue : ((s.link n).peerCount - due).toNat < 2 ^ 31) :
    exec (.laneSpareSwitch n) s = .next ((s.modLink n (fun l =>
      { l with rx := l.rx.switch f, spreq := none, rxSwitch := none, spOwn := false })).spared n f (s.link n).spOwn) := by
  change execLaneSpareSwitch n s = _
  unfold execLaneSpareSwitch
  rw [State.runLinks_up hup]
  dsimp only
  rw [State.when_of (by rw [linkOk_of hn, hst]; rfl), hswitch, hspack]
  dsimp only
  rw [if_neg (by rw [decide_eq_true hdue]; decide), if_neg (by rw [hsweep]; decide)]

/-- The lane in the spare role takes the role of a lane that counts as failed. -/
theorem Lanes.switch_of {r : Lanes} {sp : Nat} (h : r.spare = some sp) (f : Nat) :
    (r.switch f).roles = r.roles.map (fun p => if p = f then sp else p) ∧ (r.switch f).spare = none
      ∧ (r.switch f).failed = insAsc f r.failed := by
  unfold Lanes.switch Lanes.swap
  rw [h]
  exact ⟨rfl, rfl, rfl⟩

/-- Settles O39: `State.putOn` decides between replay, RECOVERY and DOWN; the lock of the link leaves a serving link as it is. -/
theorem linksRecover : Obligations.LinksRecover := by
  unfold Obligations.LinksRecover
  intro s n hup hn hst
  refine ⟨fun hreplay => ⟨fun hfew => ?_, fun hmany hless => ?_, fun hmany hmore => ?_⟩, fun h => ?_, fun hreplay hmore => ?_,
    exec_peerSilent hup hn hst, fun lane hlane hhealthy hspreq hsweep hrole => ⟨?spare, ?half, ?down⟩, ?switch⟩
  · have hon : { (s.link n).resendAll with resend := (s.link n).resend + 1 }.st = .active :=
      (Link.beside_fields (s.link n).resendAll_beside).1.trans hst
    rw [exec_ackTimeout hup hn hst hreplay, Link.startReplay_again hreplay hfew, State.putOn_goes fun _ h => by cases hon.symm.trans h]
  · rw [exec_ackTimeout hup hn hst hreplay, Link.startReplay_recover hreplay hmany, State.putOn_recover hst (.inr hless)]
  · rw [exec_ackTimeout hup hn hst hreplay, Link.startReplay_recover hreplay hmany, State.putOn_recover_fourth hst hreplay hmore]
  · rw [exec_flitSilence hup hn hst, State.putOn_recover hst h]
  · rw [exec_flitSilence hup hn hst, State.putOn_recover_fourth hst hreplay hmore]
  case spare =>
    intro hspare hfull
    refine ⟨_, exec_laneFailing_spare hup hn hst hlane hhealthy hspreq hsweep hrole hspare hfull, ?_⟩
    have hauto := State.autoMaint_link hn ⟨hst, hsweep⟩
    have hlink : (((s.autoMaint (linkRes n) 1).modLink n (fun l =>
        { l with spreq := some lane, spOwn := true, rxSwitch := none })).reportLane n lane).link n
        = { s.link n with spreq := some lane, spOwn := true, rxSwitch := none } := by
      unfold State.reportLane
      rw [State.report_link, State.link_modLink_self (f := fun l => { l with spreq := some lane, spOwn := true, rxSwitch := none })
        (by rw [hauto, hst]; decide), hauto]
    rw [hlink]
    exact ⟨rfl, rfl, rfl, hst⟩
  case half =>
    intro hspare hfew hless
    have hlink := State.failedLane_link hn ⟨hst, hsweep⟩ lane
    refine ⟨_, exec_laneFailing_noSpare hup hn hst hlane hhealthy hspreq hsweep hrole hspare, ?_⟩
    generalize ((s.stopSweep n).failLane n lane).reportLane n lane = t at hlink
    have hfailed : (t.link n).rx.failed = insAsc lane (s.link n).rx.failed := by rw [hlink]; rfl
    rw [if_neg (by rw [hfailed]; omega), State.putOn_recover (by rw [hlink]; exact hst) (by rw [hlink]; exact hless),
      State.link_putLink_self (fun h => by cases h)]
    exact ⟨rfl, hfailed⟩
  case down =>
    intro hspare hmany hdis
    have hlink := State.failedLane_link hn ⟨hst, hsweep⟩ lane
    refine ⟨_, exec_laneFailing_noSpare hup hn hst hlane hhealthy hspreq hsweep hrole hspare, ?_⟩
    generalize ((s.stopSweep n).failLane n lane).reportLane n lane = t at hlink
    have hfailed : (t.link n).rx.failed = insAsc lane (s.link n).rx.failed := by rw [hlink]; rfl
    obtain ⟨hdown, hcause, -⟩ := State.linkDown_link (cause := 5) (by rw [hlink]; exact hdis : (t.link n).disabling = false) (by decide)
    rw [if_pos (by rw [hfailed]; omega)]
    exact ⟨hdown, hcause⟩
  case switch =>
    intro f sp due hspack hsweep hswitch hdue hspare
    refine ⟨_, exec_laneSpareSwitch hup hn hst hspack hsweep hswitch hdue, ?_⟩
    have hlink := State.link_modLink_self (s := s) (n := n)
      (f := fun l => { l with rx := l.rx.switch f, spreq := none, rxSwitch := none, spOwn := false }) (by rw [hst]; decide)
    rw [State.spared_link hn (by rw [hlink]; exact ⟨hst, hsweep⟩), hlink]
    exact ⟨rfl, rfl, Lanes.switch_of hspare f⟩

end Sys2Proof.Machine
end

section
/-! A link carries flits (R404, R412, R415, R416, R418, R421). -/

namespace Sys2Proof.Machine

variable {s : State} {n : Nat} {flit : List Byte} {fec : Bool}

/-! ### What a header leaves of a link (R412, R416 to R418) -/

theorem Link.acked_fields (l : Link) (seq : BitVec 12) :
    (l.acked seq).st = l.st ∧ (l.acked seq).disabling = l.disabling ∧ (l.acked seq).aligned = l.aligned := by
  unfold Link.acked
  split <;> exact ⟨rfl, rfl, rfl⟩

theorem Link.startReplay_disabling (l : Link) : l.startReplay.disabling = l.disabling := by
  unfold Link.startReplay
  split
  · rfl
  · split
    · rfl
    · exact (Link.beside_fields l.resendAll_beside).2.2.1

theorem Link.nakked_disabling (l : Link) (seq : BitVec 12) : (l.nakked seq).disabling = l.disabling := by
  unfold Link.nakked
  split
  · rfl
  · split
    · exact l.startReplay_disabling
    · rfl

theorem Link.header_disabling (l : Link) (flit : List Byte) : (l.header flit).disabling = l.disabling := by
  unfold Link.header
  extract_lets w0 w1 seq l1 vc n l2 l3
  have h1 : l1.disabling = l.disabling := by
    unfold l1
    split
    · exact (l.acked_fields seq).2.1
    · rfl
  have h2 : l2.disabling = l1.disabling := by
    unfold l2
    split <;> rfl
  have h3 : l3.disabling = l2.disabling := by
    unfold l3
    split
    · exact l2.nakked_disabling _
    · rfl
  exact (Link.beside_fields l3.pump_beside).2.2.1.trans (h3.trans (h2.trans h1))

/-- What a DATA flit leaves of a link. -/
theorem Link.accept_fields (l : Link) (flit : List Byte) :
    (l.accept flit).st = l.st ∧ (l.accept flit).disabling = l.disabling := by
  unfold Link.accept
  dsimp only
  split <;> exact ⟨rfl, rfl⟩

/-- A DATA flit in sequence, with room, goes into the receive buffer; any other is refused. -/
theorem Link.accept_eq (l : Link) (flit : List Byte) :
    let seq := BitVec.ofNat 12 (bits (flitWord flit 0) 4 12)
    let vc := flitWord flit 2 % 8
    (seq ≠ l.ackSeq + 1 ∨ rxFlits ≤ l.held vc → l.accept flit = l.refuse)
      ∧ (seq = l.ackSeq + 1 → l.held vc < rxFlits → l.accept flit = { l with
          ackSeq := seq, ackV := true, naked := false,
          rxbuf := l.rxbuf ++ [{ vc := vc, sop := (flitWord flit 2).testBit 3, eop := (flitWord flit 2).testBit 4,
                                 data := (flit.drop 12).take (bits (flitWord flit 2) 5 8 + 1) }] }) := by
  intro seq vc
  refine ⟨fun h => if_pos h, fun hseq hroom => if_neg ?_⟩
  rintro (h | h)
  · exact h hseq
  · exact Nat.not_lt.2 h hroom

/-! ### A flit arrives (R415, R421) -/

theorem State.linkQuiet_enabled (h : (s.link n).disabling = false) : s.linkQuiet n = s := by
  unfold State.linkQuiet
  dsimp only
  rw [h]
  rfl

theorem Link.on_of_open {l : Link} (h : l.open = true) : l.st ≠ .disabled := by
  intro hst
  unfold Link.open at h
  rw [hst] at h
  cases h

theorem State.link_putHeader (hopen : (s.link n).open = true) (hsame : ((s.link n).header flit).st = (s.link n).st) :
    (s.putLink n ((s.link n).header flit)).link n = (s.link n).header flit :=
  State.link_putLink_self (by rw [hsame]; exact Link.on_of_open hopen) n

section
variable (hn : n < 32) (hopen : (s.link n).open = true)
include hn hopen

theorem State.flit_damaged (hbad : flitGood flit fec = false) (type : Nat) (body : State → State) :
    s.flit n flit fec type body = s.putLink n ((s.link n).damaged (flitType flit == 1)) := by
  unfold State.flit
  dsimp only
  rw [if_neg (by rw [linkOk_of hn, hopen]; decide), if_pos (by rw [hbad]; rfl)]

/-- A good flit of the row's type on a link that its header leaves in its state. -/
theorem State.flit_good (hgood : flitGood flit fec = true) (hsame : ((s.link n).header flit).st = (s.link n).st) {type : Nat}
    (htype : flitType flit = type) (body : State → State) :
    s.flit n flit fec type body = (body (s.putLink n ((s.link n).header flit))).linkQuiet n := by
  have hput : s.putOn n ((s.link n).header flit) = s.putLink n ((s.link n).header flit) :=
    State.putOn_goes fun h1 h2 => by cases (h1.symm.trans hsame.symm).trans h2
  unfold State.flit
  dsimp only
  rw [if_neg (by rw [linkOk_of hn, hopen]; decide), if_neg (by rw [hgood]; decide), if_neg (not_not_intro htype), hput,
    State.link_putHeader hopen hsame, if_pos]
  rw [← hopen]
  unfold Link.open
  rw [hsame]
end

/-! ### The rows -/

/-- A damaged flit is counted, whatever row it comes by. -/
theorem exec_flit_damaged (hup : s.linksUp = true) (hn : n < 32) (hopen : (s.link n).open = true) (hbad : flitGood flit fec = false)
    {c : Instr} (hc : c ∈ [Instr.dataFlit n flit fec, .idleFlit n flit fec, .linkctlConfig n flit fec, .linkctlConfigAck n flit fec,
      .linkctlRecover n flit fec, .linkctlResume n flit fec]) :
    exec c s = .next (s.putLink n ((s.link n).damaged (flitType flit == 1))) := by
  have hrow (type : Nat) (body : State → State) :
      s.runLinks (fun s => s.flit n flit fec type body) = .next (s.putLink n ((s.link n).damaged (flitType flit == 1))) := by
    rw [State.runLinks_up hup, State.flit_damaged hn hopen hbad]
  simp only [List.mem_cons, List.not_mem_nil, or_false] at hc
  obtain rfl | rfl | rfl | rfl | rfl | rfl := hc
  · exact hrow 1 _
  · exact hrow 0 _
  · exact hrow 2 _
  · exact hrow 2 _
  · exact hrow 2 _
  · exact hrow 2 _

/-- What a link has heard by the peer's CONFIG. -/
def Link.configured (l : Link) (flit : List Byte) : Link :=
  { l with
    cfgSeen := true, cfgHalf := (ctlWord flit 2).testBit 16, cfgDev := BitVec.ofNat 12 (ctlWord flit 1),
    cfgLink := BitVec.ofNat 5 (bits (ctlWord flit 1) 16 5), cfgStep := BitVec.ofNat 16 (ctlWord flit 2) }

/-- The link that has heard the peer's CONFIG, and answered it where its device has a fabric ID. -/
def Link.answer (l : Link) (own : Bool) (flit : List Byte) : Link :=
  if own then { (l.configured flit).control 1 [] with cfgAnswered := true } else l.configured flit

theorem Link.answer_fields (l : Link) (own : Bool) (flit : List Byte) :
    (l.answer own flit).st = l.st ∧ (l.answer own flit).disabling = l.disabling ∧ (l.answer own flit).peerV = l.peerV := by
  unfold Link.answer
  split <;> exact ⟨rfl, rfl, rfl⟩

theorem Link.answer_own (l : Link) (flit : List Byte) :
    (l.answer true flit).cfgSeen = true ∧ (l.answer true flit).cfgAnswered = true
      ∧ (l.answer true flit).cfgDev = BitVec.ofNat 12 (ctlWord flit 1) ∧ (l.answer true flit).sent.length = l.sent.length + 1 :=
  ⟨rfl, rfl, rfl, List.length_append⟩

section
variable (hup : s.linksUp = true) (hn : n < 32) (hdis : (s.link n).disabling = false) (hopen : (s.link n).open = true)
  (hgood : flitGood flit fec = true) (hsame : ((s.link n).header flit).st = (s.link n).st)
include hup hn hdis hopen hgood hsame

theorem exec_idleFlit (htype : flitType flit = 0) : exec (.idleFlit n flit fec) s = .next (s.putLink n ((s.link n).header flit)) := by
  change execIdleFlit n flit fec s = _
  unfold execIdleFlit
  rw [State.runLinks_up hup, State.flit_good hn hopen hgood hsame htype, State.linkQuiet_enabled]
  rw [State.link_putHeader hopen hsame, Link.header_disabling, hdis]

theorem exec_dataFlit (htype : flitType flit = 1) (hst : (s.link n).st = .active) :
    exec (.dataFlit n flit fec) s
      = .next ((s.putLink n ((s.link n).header flit)).putLink n (((s.link n).header flit).accept flit)) := by
  have hlink := State.link_putHeader hopen hsame
  obtain ⟨hst', hdis'⟩ := ((s.link n).header flit).accept_fields flit
  change execDataFlit n flit fec s = _
  unfold execDataFlit
  rw [State.runLinks_up hup, State.flit_good hn hopen hgood hsame htype]
  dsimp only
  rw [hlink, if_neg (by rw [hsame, hst]; decide), State.linkQuiet_enabled]
  rw [State.link_putLink_self (by rw [hst', hsame, hst]; decide), hdis', Link.header_disabling, hdis]

/-! ### LINKCTL CONFIG (R405) -/

/-- CONFIG is heard, and answered by a device that has a fabric ID. -/
theorem exec_linkctlConfig (htype : flitType flit = 2) (hst : (s.link n).st = .config) (hop : ctlWord flit 0 % 16 = 0)
    (hwait : s.devid = none ∨ ((s.link n).header flit).peerV = false) :
    exec (.linkctlConfig n flit fec) s = .next ((s.putLink n ((s.link n).header flit)).putLink n
      (((s.link n).header flit).answer s.devid.isSome flit)) := by
  have hlink := State.link_putHeader hopen hsame
  have hdevid := s.putLink_devid n ((s.link n).header flit)
  obtain ⟨hanswer, hanswerDis, hanswerPeer⟩ := ((s.link n).header flit).answer_fields s.devid.isSome flit
  have hput : ((s.putLink n ((s.link n).header flit)).putLink n (((s.link n).header flit).answer s.devid.isSome flit)).link n
      = ((s.link n).header flit).answer s.devid.isSome flit :=
    State.link_putLink_self (by rw [hanswer, hsame, hst]; decide) n
  change execLinkctlConfig n flit fec s = _
  unfold execLinkctlConfig
  rw [State.runLinks_up hup, State.flit_good hn hopen hgood hsame htype]
  dsimp only
  rw [hlink, if_neg (by rw [hsame, hst, hop]; decide), hdevid]
  change Host.Outcome.next ((((s.putLink n ((s.link n).header flit)).putLink n
    (((s.link n).header flit).answer s.devid.isSome flit)).tryActive n).linkQuiet n) = _
  rw [State.tryActive_waits, State.linkQuiet_enabled]
  · rw [hput, hanswerDis, Link.header_disabling, hdis]
  · rw [hput, State.putLink_devid, hdevid, hanswerPeer]
    exact hwait.imp_right .inr

theorem exec_linkctlConfigAck (htype : flitType flit = 2) (hst : (s.link n).st = .config) (hop : ctlWord flit 0 % 16 = 1)
    (hdevid : s.devid = none) :
    exec (.linkctlConfigAck n flit fec) s
      = .next ((s.putLink n ((s.link n).header flit)).setLink n { (s.link n).header flit with cfgAcked := true }) := by
  have hlink := State.link_putHeader hopen hsame
  have hnone := (s.putLink_devid n ((s.link n).header flit)).trans hdevid
  have hset : ((s.putLink n ((s.link n).header flit)).setLink n { (s.link n).header flit with cfgAcked := true }).link n
      = { (s.link n).header flit with cfgAcked := true } :=
    (State.link_setLink_on (by exact fun h => Link.on_of_open hopen (hsame.symm.trans h)) n n).trans (if_pos rfl)
  change execLinkctlConfigAck n flit fec s = _
  unfold execLinkctlConfigAck State.modLink
  rw [State.runLinks_up hup, State.flit_good hn hopen hgood hsame htype]
  dsimp only
  rw [hlink, if_neg (by rw [hsame, hst, hop]; decide), State.tryActive_waits (by exact .inl hnone), State.linkQuiet_enabled]
  rw [hset]
  exact ((s.link n).header_disabling flit).trans hdis

/-! ### LINKCTL RECOVER and RESUME (R418, R421) -/

theorem exec_linkctlRecover_off (htype : flitType flit = 2) (hop : ctlWord flit 0 % 16 = 2) (hoff : (ctlWord flit 1).testBit 0 = true) :
    exec (.linkctlRecover n flit fec) s = .next ((s.putLink n ((s.link n).header flit)).linkDown n 7) := by
  have hlink := State.link_putHeader hopen hsame
  change execLinkctlRecover n flit fec s = _
  unfold execLinkctlRecover
  rw [State.runLinks_up hup, State.flit_good hn hopen hgood hsame htype]
  rw [if_neg (not_not_intro hop), if_pos hoff, State.linkQuiet_enabled]
  exact (State.linkDown_link (by rw [hlink, Link.header_disabling, hdis]) (by decide)).2.2

end

section
variable (hup : s.linksUp = true) (hn : n < 32) (hopen : (s.link n).open = true) (hgood : flitGood flit fec = true)
  (hsame : ((s.link n).header flit).st = (s.link n).st)
include hup hn hopen hgood hsame

theorem exec_linkctlRecover (htype : flitType flit = 2) (hst : (s.link n).st = .active) (hop : ctlWord flit 0 % 16 = 2)
    (hon : (ctlWord flit 1).testBit 0 = false) :
    exec (.linkctlRecover n flit fec) s = .next
      (((s.putLink n ((s.link n).header flit)).putOn n ((s.link n).header flit).recover).linkQuiet n) := by
  have hlink := State.link_putHeader hopen hsame
  change execLinkctlRecover n flit fec s = _
  unfold execLinkctlRecover
  rw [State.runLinks_up hup, State.flit_good hn hopen hgood hsame htype]
  rw [if_neg (not_not_intro hop), if_neg (by rw [hon]; decide), hlink, if_pos (hsame.trans hst)]

theorem exec_linkctlResume (htype : flitType flit = 2) (hst : (s.link n).st = .recovery) (hop : ctlWord flit 0 % 16 = 3) :
    exec (.linkctlResume n flit fec) s = .next ((((s.putLink n ((s.link n).header flit)).putLink n
      { ((s.link n).header flit).acked (BitVec.ofNat 12 (ctlWord flit 1)) with resumed := true }).tryResume n).linkQuiet n) := by
  have hlink := State.link_putHeader hopen hsame
  change execLinkctlResume n flit fec s = _
  unfold execLinkctlResume
  rw [State.runLinks_up hup, State.flit_good hn hopen hgood hsame htype]
  dsimp only
  rw [hlink, if_neg (by rw [hsame, hst, hop]; decide)]
end

/-- Settles O38: a flit goes by `State.flit_damaged` or `State.flit_good`, and each row says what its body does. -/
theorem linksCarryFlits : Obligations.LinksCarryFlits := by
  unfold Obligations.LinksCarryFlits
  intro s n flit fec hup hn hdis hopen
  refine ⟨fun c hc hbad => exec_flit_damaged hup hn hopen hbad hc, fun hgood hsame => ?_⟩
  intro h
  have hlink : (s.putLink n h).link n = h := State.link_putHeader hopen hsame
  have hon : h.st ≠ .disabled := fun hst => Link.on_of_open hopen (hsame.symm.trans hst)
  have hhead : h.disabling = false := ((s.link n).header_disabling flit).trans hdis
  refine ⟨exec_idleFlit hup hn hdis hopen hgood hsame, ?data, fun htype hst hdevid => ⟨fun hop => ?config, fun hop => ?ack⟩, ?answer,
    fun htype hop => ⟨exec_linkctlRecover_off hup hn hdis hopen hgood hsame htype hop, fun hst hbit => ?recover⟩, ?resume⟩
  case data =>
    intro htype hst seq vc
    obtain ⟨hrefuse, htake⟩ := h.accept_eq flit
    have hput : ((s.putLink n h).putLink n (h.accept flit)).link n = h.accept flit :=
      State.link_putLink_self (by rw [(h.accept_fields flit).1]; exact hon) n
    refine ⟨_, exec_dataFlit hup hn hdis hopen hgood hsame htype hst, ?_, fun hcase => hput.trans (hrefuse hcase),
      fun hseq hroom => hput.trans (htake hseq hroom)⟩
    calc ((s.putLink n h).putLink n (h.accept flit)).arrivals
        = (s.putLink n h).arrivals := (congrArg State.arrivals ((s.putLink n h).putLink_besideReports n _) :)
      _ = s.arrivals := (congrArg State.arrivals (s.putLink_besideReports n h) :)
  case config =>
    refine ⟨_, exec_linkctlConfig hup hn hdis hopen hgood hsame htype hst hop (.inl hdevid), ?_⟩
    rw [hdevid]
    exact State.link_putLink_self (l := h.answer false flit) (by rw [(h.answer_fields false flit).1]; exact hon) n
  case ack =>
    refine ⟨_, exec_linkctlConfigAck hup hn hdis hopen hgood hsame htype hst hop hdevid, ?_⟩
    exact (State.link_setLink_on (by exact hon) n n).trans (if_pos rfl)
  case answer =>
    intro htype hst hdevid hpeer hop
    refine ⟨_, exec_linkctlConfig hup hn hdis hopen hgood hsame htype hst hop (.inr hpeer), ?_⟩
    obtain ⟨hanswer, -, -⟩ := h.answer_fields true flit
    rw [hdevid, State.link_putLink_self (by rw [hanswer]; exact hon)]
    exact ⟨hanswer.trans (hsame.trans hst), h.answer_own flit⟩
  case recover =>
    have hactive : ((s.putLink n h).link n).st = .active := by rw [hlink]; exact hsame.trans hst
    refine ⟨fun hmore => ?_, fun hdone => ?_⟩ <;> rw [exec_linkctlRecover hup hn hopen hgood hsame htype hst hop hbit]
    · rw [State.putOn_recovers hactive rfl hmore, State.linkQuiet_enabled]
      rw [State.link_putLink_self (fun h => by cases h)]
      exact hhead
    · rw [State.putOn_exhausted hactive rfl hdone, State.linkQuiet_enabled]
      exact (State.linkDown_link (by rw [hlink]; exact hhead) (by decide)).2.2
  case resume =>
    intro htype hst hop
    obtain ⟨hackSt, hackDis, hackAligned⟩ := h.acked_fields (BitVec.ofNat 12 (ctlWord flit 1))
    generalize hl : ({ h.acked (BitVec.ofNat 12 (ctlWord flit 1)) with resumed := true } : Link) = l
    have hlst : l.st = .recovery := by rw [← hl]; exact hackSt.trans (hsame.trans hst)
    have hldis : l.disabling = false := by rw [← hl]; exact hackDis.trans hhead
    have hlaligned : l.aligned = h.aligned := by rw [← hl]; exact hackAligned
    have hlresumed : l.resumed = true := by rw [← hl]
    have hput : ((s.putLink n h).putLink n l).link n = l := State.link_putLink_self (by rw [hlst]; decide) n
    have hexec := exec_linkctlResume hup hn hopen hgood hsame htype hst hop
    rw [hl] at hexec
    refine ⟨fun hapart => ?_, fun haligned => ⟨_, hexec, ?_⟩⟩
    · rw [hexec, State.tryResume, hput, if_neg (by simp [hlaligned, hapart]), State.linkQuiet_enabled (by rw [hput, hldis])]
    · obtain ⟨hactive, -, hactiveDis⟩ := l.activate_state
      have hlast : (((s.putLink n h).putLink n l).putLink n l.activate).link n = l.activate :=
        State.link_putLink_self (by rw [hactive]; decide) n
      rw [State.tryResume, hput, if_pos ⟨hlst, hlaligned.trans haligned, hlresumed⟩,
        State.linkQuiet_enabled (by rw [hlast, hactiveDis, hldis]), hlast]
      exact hactive

end Sys2Proof.Machine
end
